-- ==== Sys2Proof/Word.lean ====
section
/-! DEFINITION. The word types of the DX72 (R2, R26, R27): 64-bit scalars, 512-bit vectors, 64-bit
tags and bytes. -/

namespace Sys2Proof

/-- A 64-bit scalar, tag, address operand or instruction word. -/
abbrev Word := BitVec 64

/-- A byte of memory. -/
abbrev Byte := BitVec 8

/-- A 512-bit vector value: 16 lanes of 32 bits or 32 lanes of 16 bits (R27). -/
abbrev Vec := BitVec 512

/-- `x[hi:lo]`, both inclusive, as a number (R2). -/
def bits (x : BitVec n) (hi lo : Nat) : Nat := (x.toNat >>> lo) % 2 ^ (hi + 1 - lo)

/-- `x[i]` (R2). -/
def bit (x : BitVec n) (i : Nat) : Bool := x.toNat.testBit i

/-- The low `n` bits of a natural number read as two's complement (R109, R181). -/
def sval (n x : Nat) : Int :=
  let y := x % 2 ^ n
  if 2 * y < 2 ^ n then (y : Int) else (y : Int) - (2 ^ n : Nat)

/-- An integer reduced modulo `2^n` (R109). -/
def wrap (n : Nat) (x : Int) : Nat := (x % ((2 ^ n : Nat) : Int)).toNat

end Sys2Proof
end

