-- ==== Sys2Proof/Syntax.lean ====
section
/-! DEFINITION. The instruction words of the DX72 as data (R67-R77), and the one inductive `Instr` with a constructor
for every row of spec/opcode_table.json. -/

namespace Sys2Proof

/-- Predicate mode, word bits 54:53 (R67); 0b11 is reserved. -/
inductive PMode where
  | always | onTrue | onFalse
  deriving DecidableEq, Repr

/-- A target of 9 bits (R69). `chan 63` would be the code of `none` and is not well formed. -/
inductive Target where
  | left (i : BitVec 7)
  | right (i : BitVec 7)
  | pred (i : BitVec 7)
  | write (k : BitVec 5)
  | chan (c : BitVec 6)
  | none
  deriving DecidableEq, Repr

/-- Register types (R76). -/
inductive RType where
  | s32 | z32 | s64 | z64 | b64 | f32 | bf16 | vf32 | vbf16 | vs32 | vz32
  deriving DecidableEq, Repr

/-- Memory formats (R77). -/
inductive Fmt where
  | b8 | b16 | b32 | b64 | f32 | bf16 | f16 | e4m3 | e5m2 | tf8 | s8 | z8 | s16 | z16 | line64
  deriving DecidableEq, Repr

/-- Scopes (R73, R318), from narrow to wide. -/
inductive Scope where
  | ctx | core | die | pkg | sys
  deriving DecidableEq, Repr

/-- Kinds of block (R75, R79). -/
inductive BlkKind where
  | plain | loop | callEntry | handler
  deriving DecidableEq, Repr

/-- Tag actions of an exit (R75, R33). -/
inductive Action where
  | none | push | pop | increment
  deriving DecidableEq, Repr

/-- Format G (R71). -/
structure GWord where
  pm : PMode
  t0 : Target
  t1 : Target
  ty : RType
  mode : BitVec 3
  imm : Bool
  value : BitVec 27
  deriving DecidableEq, Repr

/-- Format M (R72). -/
structure MWord where
  pm : PMode
  t0 : Target
  t1 : Target
  ty : RType
  fmt : Fmt
  lsid : BitVec 5
  scope : Scope
  order : BitVec 2
  offset : BitVec 17
  deriving DecidableEq, Repr

/-- Format E (R74). -/
structure EWord where
  pm : PMode
  t0 : Target
  t1 : Target
  port : BitVec 6
  ctag : BitVec 6
  mods : BitVec 23
  deriving DecidableEq, Repr

/-- Format X (R75). Its targets must both be 0x1FF (R70), so the word holds none. -/
structure XWord where
  pm : PMode
  kind : BlkKind
  action : Action
  field : BitVec 3
  target : BitVec 27
  deriving DecidableEq, Repr

/-- What a control core does at an address (R322): a load of `n` bytes, a store, an atomic memory operation that replaces
the old value by the one it computes from it (the least or greatest of the two, as signed or unsigned numbers, among them),
a load that takes a reservation, a store that needs it, or one of these that is a release: a store that `fence rw,w` precedes,
or an access with its rl bit. -/
inductive CcOp where
  | load (n : Nat)
  | store (data : List Byte)
  | swap (data : List Byte)
  | add (data : List Byte)
  | and (data : List Byte)
  | or (data : List Byte)
  | xor (data : List Byte)
  | min (data : List Byte)
  | max (data : List Byte)
  | minu (data : List Byte)
  | maxu (data : List Byte)
  | lr (n : Nat)
  | sc (data : List Byte)
  | rel (op : CcOp)
  deriving DecidableEq, Repr

/-- A firmware manifest as the boot ROM reads it (R397): whether it could be read and parsed, its security version, the
bytes under signature, the two public keys with the signatures, and the images. `weak` stands for what the boot firmware's
retention profiling will find (R383, log 15): for each stack the rows that it puts into the 32 ms filter and into the 64 ms
filter. -/
structure Manifest where
  readable : Bool
  wellFormed : Bool
  version : Nat
  body : List Byte
  keyEd : List Byte
  keyMl : List Byte
  sigEd : List Byte
  sigMl : List Byte
  images : List (List Byte)
  weak : List (List Nat × List Nat)
  deriving DecidableEq, Repr


/-- The rows of spec/opcode_table.json: the 168 instructions of R101 with the fields of their words (SETC of
register 17 is the row SETC_FCLR), then the machine's own steps with the place they happen at and the data that
comes from outside. -/
inductive Instr where
  /-- ABS, opcode 0x000 (R112). -/
  | abs (w : GWord)
  /-- ADD, opcode 0x001 (R110). -/
  | add (w : GWord)
  /-- AND, opcode 0x002 (R110). -/
  | and (w : GWord)
  /-- ANDN, opcode 0x003 (R110). -/
  | andn (w : GWord)
  /-- BFEXT, opcode 0x004 (R113). -/
  | bfext (w : GWord)
  /-- BFINS, opcode 0x005 (R113). -/
  | bfins (w : GWord)
  /-- BSWAP, opcode 0x006 (R112). -/
  | bswap (w : GWord)
  /-- CLZ, opcode 0x007 (R112). -/
  | clz (w : GWord)
  /-- CTZ, opcode 0x008 (R112). -/
  | ctz (w : GWord)
  /-- DIV, opcode 0x009 (R111). -/
  | div (w : GWord)
  /-- LEA, opcode 0x00A (R114). -/
  | lea (w : GWord)
  /-- MAX, opcode 0x00B (R110). -/
  | max (w : GWord)
  /-- MIN, opcode 0x00C (R110). -/
  | min (w : GWord)
  /-- MOV, opcode 0x00D (R114). -/
  | mov (w : GWord)
  /-- MOVHI, opcode 0x00E (R114). -/
  | movhi (w : GWord)
  /-- MOVI, opcode 0x00F (R114). -/
  | movi (w : GWord)
  /-- MUL, opcode 0x010 (R110). -/
  | mul (w : GWord)
  /-- MULH, opcode 0x011 (R110). -/
  | mulh (w : GWord)
  /-- NEG, opcode 0x012 (R112). -/
  | neg (w : GWord)
  /-- OR, opcode 0x013 (R110). -/
  | or (w : GWord)
  /-- POPC, opcode 0x014 (R112). -/
  | popc (w : GWord)
  /-- REM, opcode 0x015 (R111). -/
  | rem (w : GWord)
  /-- ROL, opcode 0x016 (R110). -/
  | rol (w : GWord)
  /-- ROR, opcode 0x017 (R110). -/
  | ror (w : GWord)
  /-- SAR, opcode 0x018 (R110). -/
  | sar (w : GWord)
  /-- SEL, opcode 0x019 (R114). -/
  | sel (w : GWord)
  /-- SEXT, opcode 0x01A (R113). -/
  | sext (w : GWord)
  /-- SHL, opcode 0x01B (R110). -/
  | shl (w : GWord)
  /-- SHR, opcode 0x01C (R110). -/
  | shr (w : GWord)
  /-- SUB, opcode 0x01D (R110). -/
  | sub (w : GWord)
  /-- XOR, opcode 0x01E (R110). -/
  | xor (w : GWord)
  /-- ZEXT, opcode 0x01F (R113). -/
  | zext (w : GWord)
  /-- CMP, opcode 0x040 (R117). -/
  | cmp (w : GWord)
  /-- FCMP, opcode 0x041 (R117). -/
  | fcmp (w : GWord)
  /-- ISBUB, opcode 0x042 (R119). -/
  | isbub (w : GWord)
  /-- ISSTOP, opcode 0x043 (R119). -/
  | isstop (w : GWord)
  /-- MERGE, opcode 0x044 (R122). -/
  | merge (w : GWord)
  /-- NULL, opcode 0x045 (R123). -/
  | null (w : GWord)
  /-- ORDJOIN, opcode 0x046 (R125). -/
  | ordjoin (w : GWord)
  /-- PAND, opcode 0x047 (R118). -/
  | pand (w : GWord)
  /-- PNOT, opcode 0x048 (R118). -/
  | pnot (w : GWord)
  /-- POR, opcode 0x049 (R118). -/
  | por (w : GWord)
  /-- PXOR, opcode 0x04A (R118). -/
  | pxor (w : GWord)
  /-- REORDER, opcode 0x04B (R126). -/
  | reorder (w : GWord)
  /-- ROUTE, opcode 0x04C (R127). -/
  | route (w : GWord)
  /-- SINK, opcode 0x04D (R123). -/
  | sink (w : GWord)
  /-- STEER, opcode 0x04E (R121). -/
  | steer (w : GWord)
  /-- STOP, opcode 0x04F (R123). -/
  | stop (w : GWord)
  /-- STRIP, opcode 0x050 (R123). -/
  | strip (w : GWord)
  /-- BR, opcode 0x080 (R129). -/
  | br (w : XWord)
  /-- BRI, opcode 0x081 (R130). -/
  | bri (w : XWord)
  /-- CALL, opcode 0x082 (R131). -/
  | call (w : XWord)
  /-- CALLI, opcode 0x083 (R131). -/
  | calli (w : XWord)
  /-- HALT, opcode 0x084 (R132). -/
  | halt (w : XWord)
  /-- RET, opcode 0x085 (R131). -/
  | ret (w : XWord)
  /-- TAGGET, opcode 0x086 (R134). -/
  | tagget (w : GWord)
  /-- TAGIN, opcode 0x087 (R134). -/
  | tagin (w : GWord)
  /-- TAGINC, opcode 0x088 (R134). -/
  | taginc (w : GWord)
  /-- TAGOUT, opcode 0x089 (R134). -/
  | tagout (w : GWord)
  /-- TAGSET, opcode 0x08A (R134). -/
  | tagset (w : GWord)
  /-- TAGWIN, opcode 0x08B (R136). -/
  | tagwin (w : GWord)
  /-- YIELD, opcode 0x08C (R129). -/
  | yield (w : XWord)
  /-- FABS, opcode 0x0C0 (R203). -/
  | fabs (w : GWord)
  /-- FADD, opcode 0x0C1 (R201). -/
  | fadd (w : GWord)
  /-- FCLAMP, opcode 0x0C2 (R203). -/
  | fclamp (w : GWord)
  /-- FCPSGN, opcode 0x0C3 (R203). -/
  | fcpsgn (w : GWord)
  /-- FEXP2, opcode 0x0C4 (R204). -/
  | fexp2 (w : GWord)
  /-- FLOG2, opcode 0x0C5 (R204). -/
  | flog2 (w : GWord)
  /-- FMA, opcode 0x0C6 (R202). -/
  | fma (w : GWord)
  /-- FMAX, opcode 0x0C7 (R203). -/
  | fmax (w : GWord)
  /-- FMIN, opcode 0x0C8 (R203). -/
  | fmin (w : GWord)
  /-- FMUL, opcode 0x0C9 (R201). -/
  | fmul (w : GWord)
  /-- FNEG, opcode 0x0CA (R203). -/
  | fneg (w : GWord)
  /-- FRCP, opcode 0x0CB (R204). -/
  | frcp (w : GWord)
  /-- FROUND, opcode 0x0CC (R204). -/
  | fround (w : GWord)
  /-- FRSQ, opcode 0x0CD (R204). -/
  | frsq (w : GWord)
  /-- FSCALE, opcode 0x0CE (R201). -/
  | fscale (w : GWord)
  /-- FSQRT, opcode 0x0CF (R204). -/
  | fsqrt (w : GWord)
  /-- FSUB, opcode 0x0D0 (R201). -/
  | fsub (w : GWord)
  /-- CVT, opcode 0x100 (R205). -/
  | cvt (w : GWord)
  /-- QSCALE, opcode 0x101 (R206). -/
  | qscale (w : GWord)
  /-- VARGMAX, opcode 0x102 (R211). -/
  | vargmax (w : GWord)
  /-- VARGMIN, opcode 0x103 (R211). -/
  | vargmin (w : GWord)
  /-- VBCAST, opcode 0x104 (R207). -/
  | vbcast (w : GWord)
  /-- VEXTR, opcode 0x105 (R207). -/
  | vextr (w : GWord)
  /-- VINS, opcode 0x106 (R207). -/
  | vins (w : GWord)
  /-- VIOTA, opcode 0x107 (R207). -/
  | viota (w : GWord)
  /-- VRMAX, opcode 0x108 (R208). -/
  | vrmax (w : GWord)
  /-- VRMIN, opcode 0x109 (R208). -/
  | vrmin (w : GWord)
  /-- VRSUM, opcode 0x10A (R209). -/
  | vrsum (w : GWord)
  /-- VSCAN, opcode 0x10B (R209). -/
  | vscan (w : GWord)
  /-- VSELM, opcode 0x10C (R207). -/
  | vselm (w : GWord)
  /-- VSHUF, opcode 0x10D (R207). -/
  | vshuf (w : GWord)
  /-- VSLIDE, opcode 0x10E (R207). -/
  | vslide (w : GWord)
  /-- VUNZIP, opcode 0x10F (R207). -/
  | vunzip (w : GWord)
  /-- VZIP, opcode 0x110 (R207). -/
  | vzip (w : GWord)
  /-- AADD, opcode 0x140 (R151). -/
  | aadd (w : MWord)
  /-- AAND, opcode 0x141 (R151). -/
  | aand (w : MWord)
  /-- ACAS, opcode 0x142 (R151). -/
  | acas (w : MWord)
  /-- AFADD, opcode 0x143 (R151). -/
  | afadd (w : MWord)
  /-- AMAX, opcode 0x144 (R151). -/
  | amax (w : MWord)
  /-- AMIN, opcode 0x145 (R151). -/
  | amin (w : MWord)
  /-- AOR, opcode 0x146 (R151). -/
  | aor (w : MWord)
  /-- ATSET, opcode 0x147 (R151). -/
  | atset (w : MWord)
  /-- AXCHG, opcode 0x148 (R151). -/
  | axchg (w : MWord)
  /-- AXOR, opcode 0x149 (R151). -/
  | axor (w : MWord)
  /-- FENCE, opcode 0x14A (R155). -/
  | fence (w : MWord)
  /-- LD, opcode 0x14B (R142). -/
  | ld (w : MWord)
  /-- LDS, opcode 0x14C (R142). -/
  | lds (w : MWord)
  /-- LDX, opcode 0x14D (R142). -/
  | ldx (w : MWord)
  /-- PFETCH, opcode 0x14E (R161). -/
  | pfetch (w : MWord)
  /-- RESIDE, opcode 0x14F (R161). -/
  | reside (w : MWord)
  /-- ST, opcode 0x150 (R145). -/
  | st (w : MWord)
  /-- STS, opcode 0x151 (R142). -/
  | sts (w : MWord)
  /-- STX, opcode 0x152 (R145). -/
  | stx (w : MWord)
  /-- WIDEN, opcode 0x153 (R156). -/
  | widen (w : MWord)
  /-- XLAT, opcode 0x154 (R158). -/
  | xlat (w : GWord)
  /-- ATTSC, opcode 0x180 (R294). -/
  | attsc (w : EWord)
  /-- BARADD, opcode 0x181 (R164). -/
  | baradd (w : EWord)
  /-- BARARR, opcode 0x182 (R164). -/
  | bararr (w : EWord)
  /-- BARINIT, opcode 0x183 (R164). -/
  | barinit (w : EWord)
  /-- BARWAIT, opcode 0x184 (R164). -/
  | barwait (w : EWord)
  /-- CCLR, opcode 0x185 (R168). -/
  | cclr (w : EWord)
  /-- COLL, opcode 0x186 (R264). -/
  | coll (w : EWord)
  /-- CPY, opcode 0x187 (R239). -/
  | cpy (w : EWord)
  /-- CPYFILL, opcode 0x188 (R240). -/
  | cpyfill (w : EWord)
  /-- CPYROT, opcode 0x189 (R241). -/
  | cpyrot (w : EWord)
  /-- FFR, opcode 0x18A (R168). -/
  | ffr (w : EWord)
  /-- GATH, opcode 0x18B (R255). -/
  | gath (w : EWord)
  /-- INTSECT, opcode 0x18C (R258). -/
  | intsect (w : EWord)
  /-- MMA, opcode 0x18D (R230). -/
  | mma (w : EWord)
  /-- MMAS, opcode 0x18E (R234). -/
  | mmas (w : EWord)
  /-- NETRECV, opcode 0x18F (R268). -/
  | netrecv (w : EWord)
  /-- NETSEND, opcode 0x190 (R267). -/
  | netsend (w : EWord)
  /-- POOLCUT, opcode 0x191 (R216). -/
  | poolcut (w : EWord)
  /-- POOLMOVE, opcode 0x192 (R222). -/
  | poolmove (w : EWord)
  /-- POOLQRY, opcode 0x193 (R225). -/
  | poolqry (w : EWord)
  /-- SCLD, opcode 0x194 (R235). -/
  | scld (w : EWord)
  /-- SPACC, opcode 0x195 (R261). -/
  | spacc (w : EWord)
  /-- SPFLUSH, opcode 0x196 (R262). -/
  | spflush (w : EWord)
  /-- WAITALL, opcode 0x197 (R168). -/
  | waitall (w : EWord)
  /-- WAITANY, opcode 0x198 (R168). -/
  | waitany (w : EWord)
  /-- CFGLOAD, opcode 0x1C0 (R95). -/
  | cfgload (w : GWord)
  /-- COLLAPSE, opcode 0x1C1 (R278). -/
  | collapse (w : GWord)
  /-- CTXREST, opcode 0x1C2 (R355). -/
  | ctxrest (w : EWord)
  /-- CTXSAVE, opcode 0x1C3 (R355). -/
  | ctxsave (w : EWord)
  /-- ERET, opcode 0x1C4 (R347). -/
  | eret (w : GWord)
  /-- GETC, opcode 0x1C5 (R350). -/
  | getc (w : GWord)
  /-- KVAPP, opcode 0x1C6 (R287). -/
  | kvapp (w : MWord)
  /-- KVMAP, opcode 0x1C7 (R286). -/
  | kvmap (w : MWord)
  /-- LAUNCH, opcode 0x1C8 (R367). -/
  | launch (w : EWord)
  /-- LOGREC, opcode 0x1C9 (R280). -/
  | logrec (w : MWord)
  /-- NOP, opcode 0x1CA (R124). -/
  | nop (w : GWord)
  /-- PFXCMP, opcode 0x1CB (R281). -/
  | pfxcmp (w : EWord)
  /-- REPLAY, opcode 0x1CC (R282). -/
  | replay (w : MWord)
  /-- RNG, opcode 0x1CD (R303). -/
  | rng (w : GWord)
  /-- SETC, opcode 0x1CE (R350). -/
  | setc (w : GWord)
  /-- SETC of register 17, `ctl.fclr` (R341, R349). -/
  | setcFclr (w : GWord)
  /-- SKGET, opcode 0x1CF (R274). -/
  | skget (w : GWord)
  /-- SKMIX, opcode 0x1D0 (R274). -/
  | skmix (w : GWord)
  /-- SKSET, opcode 0x1D1 (R274). -/
  | skset (w : GWord)
  /-- SMAXINIT, opcode 0x1D2 (R296). -/
  | smaxinit (w : GWord)
  /-- SMAXUPD, opcode 0x1D3 (R297). -/
  | smaxupd (w : GWord)
  /-- SPECBEG, opcode 0x1D4 (R290). -/
  | specbeg (w : EWord)
  /-- SPECCMT, opcode 0x1D5 (R292). -/
  | speccmt (w : EWord)
  /-- SPECRES, opcode 0x1D6 (R308). -/
  | specres (w : GWord)
  /-- TAKEIN, opcode 0x1D7 (R352). -/
  | takein (w : EWord)
  /-- TRAP, opcode 0x1D8 (R348). -/
  | trap (w : GWord)
  /-- WITHDRAW, opcode 0x1D9 (R369). -/
  | withdraw (w : EWord)
  /-- Step TOKEN_ARRIVAL (R60). -/
  | tokenArrival (core k : Nat)
  /-- Step ILLEGAL (R108). -/
  | illegal (word : Word)
  /-- Step MANAGEMENT_PAGE_WRITE (R108). -/
  | managementPageWrite (cc core elem ctx slot : Nat) (word : Word)
  /-- Step RECONFIGURATION (R64). -/
  | reconfiguration (core elem k : Nat)
  /-- Step ELEMENT_CONTEXT_SWITCH (R59). -/
  | elementContextSwitch (core elem : Nat)
  /-- Step BLOCK_FETCH (R50). -/
  | blockFetch (core : Nat)
  /-- Step BOBBIN_ALLOCATION (R38). -/
  | bobbinAllocation (core ctx : Nat)
  /-- Step TAG_EXHAUST (R39). -/
  | tagExhaust (core ctx : Nat)
  /-- Step MATCH_STALL (R63). -/
  | matchStall (core elem : Nat)
  /-- Step FRAME_READ (R52). -/
  | frameRead (core ctx n d : Nat)
  /-- Step CHANNEL_SLOT_READ (R53). -/
  | channelSlotRead (core ctx n d : Nat)
  /-- Step INSTANCE_COMMIT (R48). -/
  | instanceCommit (core ctx : Nat)
  /-- Step INSTANCE_TRAP (R344). -/
  | instanceTrap (core ctx : Nat)
  /-- Step CONTEXT_END (R132). -/
  | contextEnd (core ctx : Nat)
  /-- Step LOAD_RETURN (R147). -/
  | loadReturn (core ctx k : Nat)
  /-- Step PAGE_IN_REQUEST (R342). -/
  | pageInRequest (core port slot : Nat)
  /-- Step ATOMIC_PERFORM (R152). -/
  | atomicPerform (core ctx k : Nat)
  /-- Step SHOOTDOWN (R159). -/
  | shootdown (core : Nat)
  /-- Step BARRIER_APPLY (R165). -/
  | barrierApply (core ctx k : Nat)
  /-- Step BARWAIT_RELEASE (R164). -/
  | barwaitRelease (core ctx k : Nat)
  /-- Step COMPLETION_TAG_TAKE (R167). -/
  | completionTagTake (core ctx k : Nat)
  /-- Step WAIT_SATISFIED (R168). -/
  | waitSatisfied (core ctx k : Nat)
  /-- Step POOLCUT_APPLY (R218). -/
  | poolcutApply (core ctx k : Nat)
  /-- Step POOL_TRANSITION (R219). -/
  | poolTransition (core : Nat)
  /-- Step POOLMOVE_COMPLETION (R222). -/
  | poolmoveCompletion (core k : Nat)
  /-- Step MATRIX_COMMAND_START (R232). -/
  | matrixCommandStart (core k : Nat)
  /-- Step MATRIX_COMPLETION (R231). -/
  | matrixCompletion (core k : Nat)
  /-- Step CONSUMED_EVENT (R236). -/
  | consumedEvent (core k : Nat)
  /-- Step SCALE_TOKEN_ARRIVAL (R235). -/
  | scaleTokenArrival (core k : Nat)
  /-- Step STREAMER_ACCEPT (R237). -/
  | streamerAccept (core : Nat)
  /-- Step STREAMER_COMPLETION (R243). -/
  | streamerCompletion (core k : Nat)
  /-- Step RATE_WINDOW (R244). -/
  | rateWindow (core ctx : Nat)
  /-- Step GATHER_ENTRY_ISSUE (R256). -/
  | gatherEntryIssue (core k : Nat)
  /-- Step GATHER_RETURN (R256). -/
  | gatherReturn (core k : Nat)
  /-- Step INTSECT_STREAM_SEND (R259). -/
  | intsectStreamSend (core k : Nat)
  /-- Step SPACC_APPLY (R261). -/
  | spaccApply (core ctx k : Nat)
  /-- Step SPFLUSH_COMPLETION (R262). -/
  | spflushCompletion (core k : Nat)
  /-- Step COLL_INSTANCE (R265). -/
  | collInstance (part group epoch : Nat)
  /-- Step COLL_COMPLETION (R266). -/
  | collCompletion (core k : Nat)
  /-- Step NET_COMPLETION (R268). -/
  | netCompletion (core k status : Nat) (data : List Byte)
  /-- Step SEND_ARRIVAL (R268). -/
  | sendArrival (qp : Nat) (data : List Byte)
  /-- Step RDMA_WRITE_ARRIVAL (R269). -/
  | rdmaWriteArrival (qp : Nat) (addr : Word) (data : List Byte)
  /-- Step KVAPP_PERFORM (R287). -/
  | kvappPerform (core ctx k : Nat)
  /-- Step REPLAY_PERFORM (R282). -/
  | replayPerform (core ctx k : Nat)
  /-- Step SPEC_APPLY (R290). -/
  | specApply (core ctx k : Nat)
  /-- Step CHANNEL_ENTRY_ARRIVAL (R335). -/
  | channelEntryArrival (core ctx slot : Nat)
  /-- Step SEAM_CREDIT (R334). -/
  | seamCredit (core ctx slot : Nat)
  /-- Step LINK_FLIT_RETRY (R335). -/
  | linkFlitRetry (link : Nat)
  /-- Step LINK_FAILURE (R396). -/
  | linkFailure (link : Nat)
  /-- Step PART_REPLY (R343). -/
  | partReply (cc part : Nat) (value : Word)
  /-- Step RESUME_RETRY (R252). -/
  | resumeRetry (cc core ctx node : Nat)
  /-- Step RESUME_TRAP (R252). -/
  | resumeTrap (cc core ctx node : Nat)
  /-- Step TAKE_IN (R351). -/
  | takeIn (core ctx : Nat)
  /-- Step TAKE_IN_TIMEOUT (R351). -/
  | takeInTimeout (core ctx : Nat)
  /-- Step PANEL_GROWTH (R351). -/
  | panelGrowth (core ctx : Nat)
  /-- Step CTXSAVE_COMPLETION (R355). -/
  | ctxsaveCompletion (core k : Nat)
  /-- Step CTXREST_COMPLETION (R355). -/
  | ctxrestCompletion (core k : Nat)
  /-- Step SAVED_COMMAND_COMPLETION (R353). -/
  | savedCommandCompletion (part n k status : Nat)
  /-- Step DISPATCH (R364). -/
  | dispatch (part : Nat)
  /-- Step RESUME_RESTORE (R366). -/
  | resumeRestore (part : Nat)
  /-- Step LAUNCH_RESERVE (R367). -/
  | launchReserve (core ctx k : Nat)
  /-- Step Q_DOOR (R360). -/
  | qDoor (cc part q : Nat) (addr : Word)
  /-- Step PART_WDRAW (R369). -/
  | partWdraw (cc part : Nat) (key : Word)
  /-- Step PART_KILL (R372). -/
  | partKill (cc part : Nat) (value : Word)
  /-- Step PART_RESET (R376). -/
  | partReset (cc part : Nat) (value : Word)
  /-- Step PART_CORES_WRITE (R390). -/
  | partCoresWrite (cc part half : Nat) (value : Word)
  /-- Step PART_SHOOT (R391). -/
  | partShoot (cc part : Nat) (value : Word)
  /-- Step SHOOTDOWN_COMPLETE (R391). -/
  | shootdownComplete (part : Nat)
  /-- Step PART_PREQ (R390). -/
  | partPreq (cc part : Nat) (value : Word)
  /-- Step CX_RLIM (R393). -/
  | cxRlim (cc core ctx : Nat) (value : Word)
  /-- Step QP_CFG (R394). -/
  | qpCfg (cc qp : Nat) (value : Word)
  /-- Step NET_LAUNCH (R395). -/
  | netLaunch (qp : Nat) (data : List Byte)
  /-- Step NET_WITHDRAW (R395). -/
  | netWithdraw (qp : Nat) (data : List Byte)
  /-- Step NET_BAD_OP (R395). -/
  | netBadOp (qp : Nat) (data : List Byte)
  /-- Step REFRESH_RETRY (R382). -/
  | refreshRetry (stack hint : Nat)
  /-- Step ROW_REFRESH (R383). -/
  | rowRefresh (stack row : Nat)
  /-- Step PATROL_SCRUB (R383). -/
  | patrolScrub (stack row : Nat) (found : Bool)
  /-- Step CORRECTABLE_ERROR (R384). -/
  | correctableError (stack row : Nat)
  /-- Step UNCORRECTABLE_ERROR (R384). -/
  | uncorrectableError (addr : Nat)
  /-- Step ERROR_WINDOW_END (R384). -/
  | errorWindowEnd (stack : Nat)
  /-- Step MC_DUE (R386). -/
  | mcDue (cc stack : Nat) (value : Word)
  /-- Step MC_CFG (R383). -/
  | mcCfg (cc stack : Nat) (value : Word)
  /-- Step BOOT (R397). -/
  | boot (m : Manifest)
  /-- Step NETWORK_RECOVERY_FRAME (R397). -/
  | networkRecoveryFrame (m : Manifest)
  /-- Step MG_ARB (R398). -/
  | mgArb (cc k : Nat) (mask : Word)
  /-- Step MG_ATTEST (R399). -/
  | mgAttest (cc : Nat) (addr : Word)
  /-- Step ATTEST_COMPLETE (R399). -/
  | attestComplete
  /-- Step MG_RESET (R400). -/
  | mgReset (cc : Nat) (value : Word)
  /-- Step POWER_CAP_STEP (R401). -/
  | powerCapStep (now : Nat)
  /-- Step THERMAL_STOP (R401). -/
  | thermalStop (tj : Nat)
  /-- Step THERMAL_RESTART (R401). -/
  | thermalRestart (tj : Nat)
  /-- Step REGISTER_WRITE (R389). -/
  | registerWrite (cc : Nat) (addr value : Word)
  /-- Step CONTROL_CORE_ACCESS (R322). -/
  | controlCoreAccess (cc part : Nat) (addr : Word) (op : CcOp)
  /-- Step RDMA_READ_REQUEST (R357). -/
  | rdmaReadRequest (qp : Nat) (addr : Word) (len : Nat)
  /-- Step POWER_CAP_LIFT (R401). -/
  | powerCapLift (now : Nat)
  deriving DecidableEq, Repr

end Sys2Proof
end

