-- ==== Sys2Proof/WellFormed.lean ====
section
/-! DEFINITION. Which instruction words CFGLOAD accepts, as far as the word alone decides it (R102-R107): the opcode's
types, modes, immediates, formats, orders, ports and modifiers (BAD_CODE), its reserved bits (RESERVED_BITS) and the
targets its entry allows (BAD_TARGET). What depends on the block or the image is checked in Machine/Cfgload.lean. For the
machine's own steps: which units exist. -/

namespace Sys2Proof

/-- The register-type sets of R102. -/
def RType.isInt : RType → Bool
  | .s32 | .z32 | .s64 | .z64 | .b64 => true
  | _ => false
def RType.isIntV : RType → Bool
  | .s32 | .z32 | .s64 | .z64 | .b64 | .vs32 | .vz32 => true
  | _ => false
def RType.isFlt : RType → Bool
  | .f32 | .bf16 | .vf32 | .vbf16 => true
  | _ => false
def RType.isVec : RType → Bool
  | .vf32 | .vbf16 | .vs32 | .vz32 => true
  | _ => false

/-- Float formats of R103. -/
def Fmt.isFloat : Fmt → Bool
  | .f32 | .bf16 | .f16 | .e4m3 | .e5m2 | .tf8 => true
  | _ => false
/-- Integer formats of R103. -/
def Fmt.isInt : Fmt → Bool
  | .b8 | .b16 | .b32 | .b64 | .s8 | .z8 | .s16 | .z16 => true
  | _ => false

/-- The pairing rule of R103. -/
def pairs (t : RType) (f : Fmt) : Bool :=
  (t.isIntV && f.isInt && !(t.isVec && f == .b64)) || (t.isFlt && f.isFloat) || (t.isVec && f == .line64)

/-- The three codes of a field of `mods` that names a scope (R73). -/
def scopeOk (n : Nat) : Bool := n ≤ 4

/-- Memory format codes (R77), as the `mods` fields and descriptors carry them. -/
def Fmt.ofNat? : Nat → Option Fmt
  | 0 => some .b8 | 1 => some .b16 | 2 => some .b32 | 3 => some .b64 | 4 => some .f32 | 5 => some .bf16
  | 6 => some .f16 | 7 => some .e4m3 | 8 => some .e5m2 | 9 => some .tf8 | 10 => some .s8 | 11 => some .z8
  | 12 => some .s16 | 13 => some .z16 | 14 => some .line64 | _ => none

/-- Register type codes (R76). -/
def RType.ofNat? : Nat → Option RType
  | 0 => some .s32 | 1 => some .z32 | 2 => some .s64 | 3 => some .z64 | 4 => some .b64 | 5 => some .f32
  | 6 => some .bf16 | 8 => some .vf32 | 9 => some .vbf16 | 10 => some .vs32 | 11 => some .vz32 | _ => none

/-- The GATH pair of R255: a scalar type with a format under R103, or a vector type with line64. -/
def gathPairOk (rtype fmt : Nat) : Bool :=
  match RType.ofNat? rtype, Fmt.ofNat? fmt with
  | some t, some f => if t.isVec then f == .line64 else pairs t f
  | _, _ => false

/-- Element formats of a matrix command (R229): both 8-bit, or both 16-bit. -/
def matPairOk (a b : Nat) : Bool :=
  ([7, 8, 9].contains a && [7, 8, 9].contains b) || ([5, 6].contains a && [5, 6].contains b)

/-- The format of an operation field (R68), or a step of the machine. -/
inductive Form where
  | g (w : GWord)
  | m (w : MWord)
  | e (w : EWord)
  | x (w : XWord)
  | step
  deriving DecidableEq, Repr


/-- The word of an instruction. -/
def Instr.form : Instr → Form
  | .abs w | .add w | .and w | .andn w | .bfext w | .bfins w | .bswap w | .clz w | .ctz w | .div w | .lea w
  | .max w | .min w | .mov w | .movhi w | .movi w | .mul w | .mulh w | .neg w | .or w | .popc w | .rem w | .rol w
  | .ror w | .sar w | .sel w | .sext w | .shl w | .shr w | .sub w | .xor w | .zext w | .cmp w | .fcmp w | .isbub w
  | .isstop w | .merge w | .null w | .ordjoin w | .pand w | .pnot w | .por w | .pxor w | .reorder w | .route w
  | .sink w | .steer w | .stop w | .strip w | .tagget w | .tagin w | .taginc w | .tagout w | .tagset w | .tagwin w
  | .fabs w | .fadd w | .fclamp w | .fcpsgn w | .fexp2 w | .flog2 w | .fma w | .fmax w | .fmin w | .fmul w
  | .fneg w | .frcp w | .fround w | .frsq w | .fscale w | .fsqrt w | .fsub w | .cvt w | .qscale w | .vargmax w
  | .vargmin w | .vbcast w | .vextr w | .vins w | .viota w | .vrmax w | .vrmin w | .vrsum w | .vscan w | .vselm w
  | .vshuf w | .vslide w | .vunzip w | .vzip w | .xlat w | .cfgload w | .collapse w | .eret w | .getc w | .nop w
  | .rng w | .setc w | .skget w | .skmix w | .skset w | .smaxinit w | .smaxupd w | .specres w | .trap w
  | .setcFclr w => .g w
  | .aadd w | .aand w | .acas w | .afadd w | .amax w | .amin w | .aor w | .atset w | .axchg w | .axor w | .fence w
  | .ld w | .lds w | .ldx w | .pfetch w | .reside w | .st w | .sts w | .stx w | .widen w | .kvapp w | .kvmap w
  | .logrec w | .replay w => .m w
  | .attsc w | .baradd w | .bararr w | .barinit w | .barwait w | .cclr w | .coll w | .cpy w | .cpyfill w
  | .cpyrot w | .ffr w | .gath w | .intsect w | .mma w | .mmas w | .netrecv w | .netsend w | .poolcut w
  | .poolmove w | .poolqry w | .scld w | .spacc w | .spflush w | .waitall w | .waitany w | .ctxrest w | .ctxsave w
  | .launch w | .pfxcmp w | .specbeg w | .speccmt w | .takein w | .withdraw w => .e w
  | .br w | .bri w | .call w | .calli w | .halt w | .ret w | .yield w => .x w
  | .tokenArrival _ _ | .illegal _ | .managementPageWrite _ _ _ _ _ _ | .reconfiguration _ _ _
  | .elementContextSwitch _ _ | .blockFetch _ | .bobbinAllocation _ _ | .tagExhaust _ _ | .matchStall _ _
  | .frameRead _ _ _ _ | .channelSlotRead _ _ _ _ | .instanceCommit _ _ | .instanceTrap _ _ | .contextEnd _ _
  | .loadReturn _ _ _ | .pageInRequest _ _ _ | .atomicPerform _ _ _ | .shootdown _ | .barrierApply _ _ _
  | .barwaitRelease _ _ _ | .completionTagTake _ _ _ | .waitSatisfied _ _ _ | .poolcutApply _ _ _
  | .poolTransition _ | .poolmoveCompletion _ _ | .matrixCommandStart _ _ | .matrixCompletion _ _
  | .consumedEvent _ _ | .scaleTokenArrival _ _ | .streamerAccept _ | .streamerCompletion _ _ | .rateWindow _ _
  | .gatherEntryIssue _ _ | .gatherReturn _ _ | .intsectStreamSend _ _ | .spaccApply _ _ _ | .spflushCompletion _ _
  | .collInstance _ _ _ | .collCompletion _ _ | .netCompletion _ _ _ _ | .sendArrival _ _ | .rdmaWriteArrival _ _ _
  | .kvappPerform _ _ _ | .replayPerform _ _ _ | .specApply _ _ _ | .channelEntryArrival _ _ _ | .seamCredit _ _ _
  | .linkFlitRetry _ | .linkFailure _ | .partReply _ _ _ | .resumeRetry _ _ _ _ | .resumeTrap _ _ _ _ | .takeIn _ _
  | .takeInTimeout _ _ | .panelGrowth _ _ | .ctxsaveCompletion _ _ | .ctxrestCompletion _ _
  | .savedCommandCompletion _ _ _ _ | .dispatch _ | .resumeRestore _ | .launchReserve _ _ _ | .qDoor _ _ _ _
  | .partWdraw _ _ _ | .partKill _ _ _ | .partReset _ _ _ | .partCoresWrite _ _ _ _ | .partShoot _ _ _
  | .shootdownComplete _ | .partPreq _ _ _ | .cxRlim _ _ _ _ | .qpCfg _ _ _ | .netLaunch _ _ | .netWithdraw _ _
  | .netBadOp _ _ | .refreshRetry _ _ | .rowRefresh _ _ | .patrolScrub _ _ _ | .correctableError _ _
  | .uncorrectableError _ | .errorWindowEnd _ | .mcDue _ _ _ | .mcCfg _ _ _ | .boot _ | .networkRecoveryFrame _
  | .mgArb _ _ _ | .mgAttest _ _ | .attestComplete | .mgReset _ _ | .powerCapStep _ | .thermalStop _
  | .thermalRestart _ | .registerWrite _ _ _ | .controlCoreAccess _ _ _ _ | .rdmaReadRequest _ _ _
  | .powerCapLift _ => .step

/-- The opcode (R100, R101): class in bits 8:6, minor in bits 5:0. -/
def Instr.opcode : Instr → Nat
  | .abs _ => 0x000 | .add _ => 0x001 | .and _ => 0x002 | .andn _ => 0x003 | .bfext _ => 0x004 | .bfins _ => 0x005
  | .bswap _ => 0x006 | .clz _ => 0x007 | .ctz _ => 0x008 | .div _ => 0x009 | .lea _ => 0x00A | .max _ => 0x00B
  | .min _ => 0x00C | .mov _ => 0x00D | .movhi _ => 0x00E | .movi _ => 0x00F | .mul _ => 0x010 | .mulh _ => 0x011
  | .neg _ => 0x012 | .or _ => 0x013 | .popc _ => 0x014 | .rem _ => 0x015 | .rol _ => 0x016 | .ror _ => 0x017
  | .sar _ => 0x018 | .sel _ => 0x019 | .sext _ => 0x01A | .shl _ => 0x01B | .shr _ => 0x01C | .sub _ => 0x01D
  | .xor _ => 0x01E | .zext _ => 0x01F | .cmp _ => 0x040 | .fcmp _ => 0x041 | .isbub _ => 0x042
  | .isstop _ => 0x043 | .merge _ => 0x044 | .null _ => 0x045 | .ordjoin _ => 0x046 | .pand _ => 0x047
  | .pnot _ => 0x048 | .por _ => 0x049 | .pxor _ => 0x04A | .reorder _ => 0x04B | .route _ => 0x04C
  | .sink _ => 0x04D | .steer _ => 0x04E | .stop _ => 0x04F | .strip _ => 0x050 | .br _ => 0x080 | .bri _ => 0x081
  | .call _ => 0x082 | .calli _ => 0x083 | .halt _ => 0x084 | .ret _ => 0x085 | .tagget _ => 0x086
  | .tagin _ => 0x087 | .taginc _ => 0x088 | .tagout _ => 0x089 | .tagset _ => 0x08A | .tagwin _ => 0x08B
  | .yield _ => 0x08C | .fabs _ => 0x0C0 | .fadd _ => 0x0C1 | .fclamp _ => 0x0C2 | .fcpsgn _ => 0x0C3
  | .fexp2 _ => 0x0C4 | .flog2 _ => 0x0C5 | .fma _ => 0x0C6 | .fmax _ => 0x0C7 | .fmin _ => 0x0C8
  | .fmul _ => 0x0C9 | .fneg _ => 0x0CA | .frcp _ => 0x0CB | .fround _ => 0x0CC | .frsq _ => 0x0CD
  | .fscale _ => 0x0CE | .fsqrt _ => 0x0CF | .fsub _ => 0x0D0 | .cvt _ => 0x100 | .qscale _ => 0x101
  | .vargmax _ => 0x102 | .vargmin _ => 0x103 | .vbcast _ => 0x104 | .vextr _ => 0x105 | .vins _ => 0x106
  | .viota _ => 0x107 | .vrmax _ => 0x108 | .vrmin _ => 0x109 | .vrsum _ => 0x10A | .vscan _ => 0x10B
  | .vselm _ => 0x10C | .vshuf _ => 0x10D | .vslide _ => 0x10E | .vunzip _ => 0x10F | .vzip _ => 0x110
  | .aadd _ => 0x140 | .aand _ => 0x141 | .acas _ => 0x142 | .afadd _ => 0x143 | .amax _ => 0x144
  | .amin _ => 0x145 | .aor _ => 0x146 | .atset _ => 0x147 | .axchg _ => 0x148 | .axor _ => 0x149
  | .fence _ => 0x14A | .ld _ => 0x14B | .lds _ => 0x14C | .ldx _ => 0x14D | .pfetch _ => 0x14E
  | .reside _ => 0x14F | .st _ => 0x150 | .sts _ => 0x151 | .stx _ => 0x152 | .widen _ => 0x153 | .xlat _ => 0x154
  | .attsc _ => 0x180 | .baradd _ => 0x181 | .bararr _ => 0x182 | .barinit _ => 0x183 | .barwait _ => 0x184
  | .cclr _ => 0x185 | .coll _ => 0x186 | .cpy _ => 0x187 | .cpyfill _ => 0x188 | .cpyrot _ => 0x189
  | .ffr _ => 0x18A | .gath _ => 0x18B | .intsect _ => 0x18C | .mma _ => 0x18D | .mmas _ => 0x18E
  | .netrecv _ => 0x18F | .netsend _ => 0x190 | .poolcut _ => 0x191 | .poolmove _ => 0x192 | .poolqry _ => 0x193
  | .scld _ => 0x194 | .spacc _ => 0x195 | .spflush _ => 0x196 | .waitall _ => 0x197 | .waitany _ => 0x198
  | .cfgload _ => 0x1C0 | .collapse _ => 0x1C1 | .ctxrest _ => 0x1C2 | .ctxsave _ => 0x1C3 | .eret _ => 0x1C4
  | .getc _ => 0x1C5 | .kvapp _ => 0x1C6 | .kvmap _ => 0x1C7 | .launch _ => 0x1C8 | .logrec _ => 0x1C9
  | .nop _ => 0x1CA | .pfxcmp _ => 0x1CB | .replay _ => 0x1CC | .rng _ => 0x1CD | .setc _ => 0x1CE
  | .setcFclr _ => 0x1CE | .skget _ => 0x1CF | .skmix _ => 0x1D0 | .skset _ => 0x1D1 | .smaxinit _ => 0x1D2
  | .smaxupd _ => 0x1D3 | .specbeg _ => 0x1D4 | .speccmt _ => 0x1D5 | .specres _ => 0x1D6 | .takein _ => 0x1D7
  | .trap _ => 0x1D8 | .withdraw _ => 0x1D9
  | .tokenArrival _ _ | .illegal _ | .managementPageWrite _ _ _ _ _ _ | .reconfiguration _ _ _
  | .elementContextSwitch _ _ | .blockFetch _ | .bobbinAllocation _ _ | .tagExhaust _ _ | .matchStall _ _
  | .frameRead _ _ _ _ | .channelSlotRead _ _ _ _ | .instanceCommit _ _ | .instanceTrap _ _ | .contextEnd _ _
  | .loadReturn _ _ _ | .pageInRequest _ _ _ | .atomicPerform _ _ _ | .shootdown _ | .barrierApply _ _ _
  | .barwaitRelease _ _ _ | .completionTagTake _ _ _ | .waitSatisfied _ _ _ | .poolcutApply _ _ _
  | .poolTransition _ | .poolmoveCompletion _ _ | .matrixCommandStart _ _ | .matrixCompletion _ _
  | .consumedEvent _ _ | .scaleTokenArrival _ _ | .streamerAccept _ | .streamerCompletion _ _ | .rateWindow _ _
  | .gatherEntryIssue _ _ | .gatherReturn _ _ | .intsectStreamSend _ _ | .spaccApply _ _ _ | .spflushCompletion _ _
  | .collInstance _ _ _ | .collCompletion _ _ | .netCompletion _ _ _ _ | .sendArrival _ _ | .rdmaWriteArrival _ _ _
  | .kvappPerform _ _ _ | .replayPerform _ _ _ | .specApply _ _ _ | .channelEntryArrival _ _ _ | .seamCredit _ _ _
  | .linkFlitRetry _ | .linkFailure _ | .partReply _ _ _ | .resumeRetry _ _ _ _ | .resumeTrap _ _ _ _ | .takeIn _ _
  | .takeInTimeout _ _ | .panelGrowth _ _ | .ctxsaveCompletion _ _ | .ctxrestCompletion _ _
  | .savedCommandCompletion _ _ _ _ | .dispatch _ | .resumeRestore _ | .launchReserve _ _ _ | .qDoor _ _ _ _
  | .partWdraw _ _ _ | .partKill _ _ _ | .partReset _ _ _ | .partCoresWrite _ _ _ _ | .partShoot _ _ _
  | .shootdownComplete _ | .partPreq _ _ _ | .cxRlim _ _ _ _ | .qpCfg _ _ _ | .netLaunch _ _ | .netWithdraw _ _
  | .netBadOp _ _ | .refreshRetry _ _ | .rowRefresh _ _ | .patrolScrub _ _ _ | .correctableError _ _
  | .uncorrectableError _ | .errorWindowEnd _ | .mcDue _ _ _ | .mcCfg _ _ _ | .boot _ | .networkRecoveryFrame _
  | .mgArb _ _ _ | .mgAttest _ _ | .attestComplete | .mgReset _ _ | .powerCapStep _ | .thermalStop _
  | .thermalRestart _ | .registerWrite _ _ _ | .controlCoreAccess _ _ _ _ | .rdmaReadRequest _ _ _
  | .powerCapLift _ => 0

/-- A step names units that exist (R7, R17, R40, R375, R388): an element number of 64 stands for the matrix island.
-/
def Instr.unitsOk : Instr → Bool
  | .tokenArrival core _ | .blockFetch core | .shootdown core | .poolTransition core | .poolmoveCompletion core _
  | .matrixCommandStart core _ | .matrixCompletion core _ | .consumedEvent core _ | .scaleTokenArrival core _
  | .streamerAccept core | .streamerCompletion core _ | .gatherEntryIssue core _ | .gatherReturn core _
  | .intsectStreamSend core _ | .spflushCompletion core _ | .collCompletion core _ | .netCompletion core _ _ _
  | .ctxsaveCompletion core _ | .ctxrestCompletion core _ => core ≤ 71
  | .managementPageWrite cc core elem ctx slot _ => cc ≤ 7 && core ≤ 71 && elem ≤ 63 && ctx ≤ 7 && slot ≤ 31
  | .reconfiguration core elem _ | .elementContextSwitch core elem => core ≤ 71 && elem ≤ 63
  | .matchStall core elem => core ≤ 71 && elem ≤ 64
  | .bobbinAllocation core ctx | .tagExhaust core ctx | .frameRead core ctx _ _ | .channelSlotRead core ctx _ _
  | .instanceCommit core ctx | .instanceTrap core ctx | .contextEnd core ctx | .loadReturn core ctx _
  | .atomicPerform core ctx _ | .barrierApply core ctx _ | .barwaitRelease core ctx _
  | .completionTagTake core ctx _ | .waitSatisfied core ctx _ | .poolcutApply core ctx _ | .rateWindow core ctx
  | .spaccApply core ctx _ | .kvappPerform core ctx _ | .replayPerform core ctx _ | .specApply core ctx _
  | .channelEntryArrival core ctx _ | .seamCredit core ctx _ | .takeIn core ctx | .takeInTimeout core ctx
  | .panelGrowth core ctx | .launchReserve core ctx _ => core ≤ 71 && ctx ≤ 7
  | .pageInRequest core port _ => core ≤ 71 && port ≤ 31
  | .collInstance part _ _ | .savedCommandCompletion part _ _ _ | .dispatch part | .resumeRestore part
  | .shootdownComplete part => part ≤ 7
  | .sendArrival qp _ | .rdmaWriteArrival qp _ _ | .netLaunch qp _ | .netWithdraw qp _ | .netBadOp qp _
  | .rdmaReadRequest qp _ _ => qp ≤ 4095
  | .linkFlitRetry link | .linkFailure link => link ≤ 5
  | .partReply cc part _ | .partWdraw cc part _ | .partKill cc part _ | .partReset cc part _
  | .partShoot cc part _ | .partPreq cc part _ | .controlCoreAccess cc part _ _ => cc ≤ 7 && part ≤ 7
  | .resumeRetry cc core ctx node | .resumeTrap cc core ctx node => cc ≤ 7 && core ≤ 71 && ctx ≤ 7 && node ≤ 40
  | .partCoresWrite cc part half _ => cc ≤ 7 && part ≤ 7 && half ≤ 1
  | .qDoor cc part q _ => cc ≤ 7 && part ≤ 7 && q ≤ 15
  | .cxRlim cc core ctx _ => cc ≤ 7 && core ≤ 71 && ctx ≤ 7
  | .qpCfg cc qp _ => cc ≤ 7 && qp ≤ 4095
  | .refreshRetry stack _ | .rowRefresh stack _ | .patrolScrub stack _ _ | .correctableError stack _
  | .errorWindowEnd stack => stack ≤ 11
  | .mcDue cc stack _ | .mcCfg cc stack _ => cc ≤ 7 && stack ≤ 11
  | .mgArb cc k _ => cc ≤ 7 && k ≤ 3
  | .mgAttest cc _ | .mgReset cc _ | .registerWrite cc _ _ => cc ≤ 7
  | _ => true

/-- Is it an instruction, and not a step of the machine? -/
def Instr.isWord (i : Instr) : Bool := i.form != .step

/-- A G word: types, no mode, and what `imm` may be. -/
def gAccept (w : GWord) (types : RType → Bool) (modes : Nat) (imm : Option Bool) : Bool :=
  types w.ty && w.mode.toNat < modes && (imm == none || imm == some w.imm)

/-- The set Any of R102. -/
def anyType (_ : RType) : Bool := true

/-- An E word's port set (R104). -/
def portIn (w : EWord) (ps : List Nat) : Bool := ps.contains w.port.toNat

/-- Only the bits of `mask` may be set in `mods`. -/
def modsWithin (w : EWord) (mask : Nat) : Bool := w.mods.toNat &&& (0x7FFFFF ^^^ mask) == 0

/-- BAD_CODE (R107 step 2): false when the word carries a value the opcode does not accept. -/
def Instr.codeOk : Instr → Bool
  | .add w | .sub w | .and w | .andn w | .or w | .xor w | .mul w | .mulh w | .div w | .rem w | .max w | .min w
  | .shl w | .shr w | .sar w | .rol w | .ror w => gAccept w RType.isIntV 1 none
  | .bfins w => gAccept w RType.isInt 1 none
  | .abs w | .neg w | .clz w | .ctz w | .popc w | .bswap w => gAccept w RType.isIntV 1 (some false)
  | .bfext w => gAccept w RType.isInt 1 (some true) && bits w.value 26 12 == 0
  | .sext w | .zext w => gAccept w RType.isInt 1 (some true) && 1 ≤ w.value.toNat && w.value.toNat ≤ 64
  | .movhi w | .movi w => gAccept w RType.isInt 1 (some true)
  | .lea w => gAccept w (fun t => t == .s64 || t == .z64) 4 none
  | .mov w => gAccept w anyType 1 (some false)
  | .sel w => gAccept w anyType 1 none
  | .cmp w => gAccept w RType.isIntV 6 none
  | .fcmp w => gAccept w RType.isFlt 8 (some false)
  | .isstop w | .stop w => gAccept w anyType 1 (some true) && w.value.toNat ≤ 3
  | .reorder w => gAccept w anyType 1 (some true) && w.value.toNat ≤ 6
  | .merge w | .steer w => gAccept w anyType 1 (some false) && w.pm == .always
  | .isbub w | .null w | .ordjoin w | .pand w | .pnot w | .por w | .pxor w | .route w | .sink w | .strip w
  | .nop w => gAccept w anyType 1 (some false)
  | .tagget w => gAccept w (· == .z64) 1 (some true) && w.value.toNat ≤ 8
  | .tagset w | .taginc w | .tagin w | .tagout w => gAccept w (· == .z64) 1 (some true) && w.value.toNat ≤ 6
  | .tagwin w => gAccept w (· == .z64) 1 (some true) && 1 ≤ w.value.toNat && w.value.toNat ≤ 8
  | .fadd w | .fsub w | .fmul w | .fma w | .fround w => gAccept w RType.isFlt 4 (some false)
  | .fscale w => gAccept w RType.isFlt 4 none
  | .fexp2 w | .flog2 w | .frcp w | .frsq w | .fsqrt w | .fabs w | .fneg w | .fcpsgn w | .fmax w | .fmin w
  | .fclamp w => gAccept w RType.isFlt 1 (some false)
  | .cvt w => gAccept w anyType 8 (some false)
  | .qscale w => gAccept w (fun t => t == .f32 || t == .vf32) 3 (some false)
  | .vargmax w | .vargmin w => gAccept w (fun t => t == .vf32 || t == .vbf16) 1 none
  | .vrsum w | .vscan w => gAccept w RType.isVec 4 (some false)
  | .vrmax w | .vrmin w | .vbcast w | .viota w | .vzip w | .vunzip w => gAccept w RType.isVec 1 (some false)
  | .vextr w | .vins w | .vselm w | .vshuf w | .vslide w => gAccept w RType.isVec 1 none
  | .xlat w => gAccept w (· == .z64) 1 (some false)
  | .cfgload w => gAccept w (· == .b64) 1 none
  | .collapse w | .eret w => gAccept w (· == .b64) 2 (some false)
  | .getc w => gAccept w (· == .b64) 1 (some true) && (w.value.toNat ≤ 16 || w.value == 18)
  | .setc w => gAccept w (· == .b64) 1 (some true) && [4, 6, 7, 8].contains w.value.toNat
  | .setcFclr w => gAccept w (· == .b64) 1 (some true) && w.value == 17
  | .skget w | .skmix w | .skset w => gAccept w (· == .b64) 1 (some true) && w.value.toNat ≤ 15
  | .trap w => gAccept w (· == .z64) 1 (some true) && w.value.toNat ≤ 65535
  | .rng w => gAccept w (· == .vz32) 1 none
  | .smaxinit w | .smaxupd w | .specres w => gAccept w (· == .vf32) 1 (some false)
  | .ld w | .lds w | .ldx w => pairs w.ty w.fmt && w.order.toNat ≤ 1
  | .st w | .sts w | .stx w => pairs w.ty w.fmt && !(w.fmt == .line64 && bit w.order 0)
  | .aadd w | .aand w | .aor w | .axor w | .amax w | .amin w | .axchg w | .acas w =>
    w.ty.isInt && (w.fmt == .b32 || w.fmt == .b64)
  | .afadd w => w.ty == .f32 && w.fmt == .f32
  | .atset w => (w.ty == .z32 || w.ty == .z64) && (w.fmt == .b32 || w.fmt == .b64)
  | .fence w => w.ty == .b64 && w.fmt == .b8 && w.order != 0
  | .widen w => w.fmt == .b8 && w.order == 2
  | .pfetch w | .reside w => w.ty == .z64 && w.fmt == .b8 && w.order == 0
  | .kvmap w => w.ty == .z64 && w.fmt == .b8 && w.order.toNat ≤ 1
  | .replay w => w.ty == .b64 && w.fmt == .b8 && w.order.toNat ≤ 1
  | .kvapp w => (w.ty == .vf32 || w.ty == .vbf16) && (w.fmt == .bf16 || w.fmt == .e4m3 || w.fmt == .e5m2) &&
    (w.order == 0 || w.order == 2)
  | .logrec w => w.ty == .b64 && w.fmt == .b8 && (w.order == 0 || w.order == 2)
  | .mma w | .mmas w | .attsc w => portIn w [32] && scopeOk (bits w.mods 2 0) && matPairOk (bits w.mods 6 3) (bits w.mods 10 7)
  | .scld w => portIn w [32] && scopeOk (bits w.mods 2 0)
  | .cpy w | .cpyfill w | .cpyrot w => portIn w [33] && scopeOk (bits w.mods 2 0)
  | .gath w => portIn w [34, 35, 36, 37] && scopeOk (bits w.mods 10 8) && gathPairOk (bits w.mods 7 4) (bits w.mods 3 0)
  | .intsect w => portIn w [38, 39] && scopeOk (bits w.mods 2 0) && bits w.mods 8 3 != 63
  | .spacc w => portIn w [38, 39] && bits w.mods 9 7 ≤ 5
  | .spflush w => portIn w [38, 39] && bits w.mods 9 7 ≤ 5 && scopeOk (bits w.mods 2 0) &&
    [4, 5, 6, 7, 8, 9].contains (bits w.mods 6 3)
  | .coll w => portIn w [40] && (bits w.mods 2 0 == 3 || bits w.mods 2 0 == 4)
  | .netrecv w | .netsend w => portIn w [40] && scopeOk (bits w.mods 2 0)
  | .poolmove w => portIn w [63]
  | .ctxsave w | .ctxrest w => portIn w [63] && scopeOk (bits w.mods 5 3)
  | .poolcut w => portIn w [63] && !(bit w.mods 2 && bit w.mods 3)
  | .poolqry w => portIn w [63] && (bits w.mods 4 0 ≤ 14 || bits w.mods 4 0 == 31)
  | .speccmt w => portIn w [63] && scopeOk (bits w.mods 4 2)
  | .baradd w | .bararr w | .barinit w | .barwait w | .cclr w | .ffr w | .waitall w | .waitany w | .launch w
  | .pfxcmp w | .specbeg w | .takein w | .withdraw w => portIn w [63]
  | .br w | .yield w => !(w.action == .push && w.field == 7)
  | .bri w => !(w.action == .push && w.field == 7)
  | .call w | .calli w => w.kind == .callEntry && (w.action == .none || w.action == .push) &&
    !(w.action == .push && w.field == 7)
  | .ret w => w.kind == .plain && (w.action == .none || w.action == .pop)
  | .halt w => w.kind == .plain && w.action == .none
  | _ => true

/-- Bits of `mods` that an entry defines. -/
def Instr.modsMask : Instr → Nat
  | .baradd _ | .bararr _ | .barinit _ | .barwait _ => 0x7F
  | .waitall _ | .waitany _ | .poolmove _ => 0x1
  | .poolcut _ => 0xF
  | .poolqry _ => 0x3F
  | .mma w | .mmas w | .attsc w => if bit w.mods 13 then 0x7E7FFF else 0xFFF
  | .scld _ => 0xF
  | .cpy _ => 0xFF
  | .cpyfill _ => 0x7
  | .cpyrot _ => 0x77
  | .gath _ => 0x7FF
  | .intsect _ => 0x1FF
  | .spacc _ => 0x7FFF80
  | .spflush _ => 0x7FFFFF
  | .coll _ | .netrecv _ | .netsend _ => 0x7
  | .launch _ => 0xF
  | .pfxcmp _ => 0xFFFF
  | .specbeg _ => 0x3
  | .speccmt _ => 0x1F
  | .ctxsave _ | .ctxrest _ => 0x3F
  | _ => 0

/-- Instructions whose ctag must be 0 (R104). -/
def Instr.noCtag : Instr → Bool
  | .baradd _ | .bararr _ | .barinit _ | .barwait _ | .cclr _ | .ffr _ | .waitall _ | .waitany _ | .poolcut _
  | .poolqry _ | .launch _ | .pfxcmp _ | .specbeg _ | .speccmt _ | .takein _ | .withdraw _ => true
  | _ => false

/-- RESERVED_BITS (R107 step 3): false when a reserved bit is set. -/
def Instr.bitsOk (i : Instr) : Bool :=
  match i.form with
  | .g w => w.imm || w.value == 0
  | .m w => match i with
    | .fence _ | .widen _ => w.offset == 0
    | _ => true
  | .e w => modsWithin w i.modsMask && (!i.noCtag || w.ctag == 0)
  | .x w => (w.action != .none || w.field == 0) && (match i with
    | .br _ | .yield _ | .call _ => true
    | _ => w.target == 0)
  | .step => true

/-- A target that is a code of its own (R69): channel 63 is the code of no target. -/
def Target.canonical : Target → Bool
  | .chan c => c != 63
  | _ => true

/-- BAD_TARGET as far as the word decides it (R107 step 4): instructions that emit nothing name no target, and the
range form of ROUTE runs upward (R127). -/
def Instr.targetsOk (i : Instr) : Bool :=
  let both (t0 t1 : Target) : Bool := t0.canonical && t1.canonical
  let bare (t0 t1 : Target) : Bool := t0 == .none && t1 == .none
  match i.form with
  | .g w => both w.t0 w.t1 && (match i with
    | .eret _ | .trap _ => bare w.t0 w.t1
    | .route _ => match w.t0, w.t1 with
      | .chan lo, .chan hi => lo.toNat ≤ hi.toNat
      | _, _ => true
    | _ => true)
  | .m w => both w.t0 w.t1 && (match i with
    | .st _ | .sts _ | .stx _ | .pfetch _ | .reside _ | .logrec _ => bare w.t0 w.t1
    | _ => true)
  | .e w => both w.t0 w.t1
  | .x _ | .step => true

/-- A well-formed instruction: CFGLOAD accepts its word as far as the word alone decides it. -/
def Instr.wf (i : Instr) : Bool := i.isWord && i.codeOk && i.bitsOk && i.targetsOk

end Sys2Proof
end

