-- ==== Sys2Proof/Decode.lean ====
section
/-! DEFINITION. Decoding of a 64-bit instruction word (R67-R77, R100, R101) in the order of R107, the encoder written
from the same tables, and the host's view of the decoder. -/

namespace Sys2Proof

/-- Why CFGLOAD refuses a word (R97 codes 9 to 12). -/
inductive DecodeError where
  | badOpcode | badCode | reservedBits | badTarget
  deriving DecidableEq, Repr

/-- The result code of R97. -/
def DecodeError.code : DecodeError → Nat
  | .badOpcode => 9
  | .badCode => 10
  | .reservedBits => 11
  | .badTarget => 12

def PMode.code : PMode → Nat
  | .always => 0
  | .onTrue => 1
  | .onFalse => 2

def PMode.ofCode? : Nat → Option PMode
  | 0 => some .always
  | 1 => some .onTrue
  | 2 => some .onFalse
  | _ => none

/-- R69: index in bits 8:2, slot in bits 1:0. -/
def Target.code : Target → Nat
  | .left i => 4 * i.toNat
  | .right i => 4 * i.toNat + 1
  | .pred i => 4 * i.toNat + 2
  | .write k => 4 * k.toNat + 3
  | .chan c => 4 * (64 + c.toNat) + 3
  | .none => 0x1FF

def Target.ofCode? (c : Nat) : Option Target :=
  let i := c / 4
  match c % 4 with
  | 0 => some (.left (BitVec.ofNat 7 i))
  | 1 => some (.right (BitVec.ofNat 7 i))
  | 2 => some (.pred (BitVec.ofNat 7 i))
  | _ =>
    if i < 32 then some (.write (BitVec.ofNat 5 i))
    else if i < 64 then Option.none
    else if i < 127 then some (.chan (BitVec.ofNat 6 (i - 64)))
    else some .none

def RType.code : RType → Nat
  | .s32 => 0 | .z32 => 1 | .s64 => 2 | .z64 => 3 | .b64 => 4 | .f32 => 5 | .bf16 => 6
  | .vf32 => 8 | .vbf16 => 9 | .vs32 => 10 | .vz32 => 11

def Fmt.code : Fmt → Nat
  | .b8 => 0 | .b16 => 1 | .b32 => 2 | .b64 => 3 | .f32 => 4 | .bf16 => 5 | .f16 => 6 | .e4m3 => 7 | .e5m2 => 8
  | .tf8 => 9 | .s8 => 10 | .z8 => 11 | .s16 => 12 | .z16 => 13 | .line64 => 14

def Scope.code : Scope → Nat
  | .ctx => 0 | .core => 1 | .die => 2 | .pkg => 3 | .sys => 4

def Scope.ofCode? : Nat → Option Scope
  | 0 => some .ctx | 1 => some .core | 2 => some .die | 3 => some .pkg | 4 => some .sys | _ => none

def BlkKind.code : BlkKind → Nat
  | .plain => 0 | .loop => 1 | .callEntry => 2 | .handler => 3

def BlkKind.ofCode : Nat → BlkKind
  | 0 => .plain | 1 => .loop | 2 => .callEntry | _ => .handler

def Action.code : Action → Nat
  | .none => 0 | .push => 1 | .pop => 2 | .increment => 3

def Action.ofCode? : Nat → Option Action
  | 0 => some .none | 1 => some .push | 2 => some .pop | 3 => some .increment | _ => Option.none


/-- The constructor of SETC's opcode: register 17 is the row SETC_FCLR (R349, R341). -/
def mkSetc (w : GWord) : Instr := if w.value == 17 then .setcFclr w else .setc w


/-- The opcodes of format G (R68, R101) and what their words build. -/
def gBuild : Nat → Option (GWord → Instr)
  | 0x000 => some .abs | 0x001 => some .add | 0x002 => some .and | 0x003 => some .andn | 0x004 => some .bfext
  | 0x005 => some .bfins | 0x006 => some .bswap | 0x007 => some .clz | 0x008 => some .ctz | 0x009 => some .div
  | 0x00A => some .lea | 0x00B => some .max | 0x00C => some .min | 0x00D => some .mov | 0x00E => some .movhi
  | 0x00F => some .movi | 0x010 => some .mul | 0x011 => some .mulh | 0x012 => some .neg | 0x013 => some .or
  | 0x014 => some .popc | 0x015 => some .rem | 0x016 => some .rol | 0x017 => some .ror | 0x018 => some .sar
  | 0x019 => some .sel | 0x01A => some .sext | 0x01B => some .shl | 0x01C => some .shr | 0x01D => some .sub
  | 0x01E => some .xor | 0x01F => some .zext | 0x040 => some .cmp | 0x041 => some .fcmp | 0x042 => some .isbub
  | 0x043 => some .isstop | 0x044 => some .merge | 0x045 => some .null | 0x046 => some .ordjoin
  | 0x047 => some .pand | 0x048 => some .pnot | 0x049 => some .por | 0x04A => some .pxor | 0x04B => some .reorder
  | 0x04C => some .route | 0x04D => some .sink | 0x04E => some .steer | 0x04F => some .stop | 0x050 => some .strip
  | 0x086 => some .tagget | 0x087 => some .tagin | 0x088 => some .taginc | 0x089 => some .tagout
  | 0x08A => some .tagset | 0x08B => some .tagwin | 0x0C0 => some .fabs | 0x0C1 => some .fadd
  | 0x0C2 => some .fclamp | 0x0C3 => some .fcpsgn | 0x0C4 => some .fexp2 | 0x0C5 => some .flog2
  | 0x0C6 => some .fma | 0x0C7 => some .fmax | 0x0C8 => some .fmin | 0x0C9 => some .fmul | 0x0CA => some .fneg
  | 0x0CB => some .frcp | 0x0CC => some .fround | 0x0CD => some .frsq | 0x0CE => some .fscale
  | 0x0CF => some .fsqrt | 0x0D0 => some .fsub | 0x100 => some .cvt | 0x101 => some .qscale
  | 0x102 => some .vargmax | 0x103 => some .vargmin | 0x104 => some .vbcast | 0x105 => some .vextr
  | 0x106 => some .vins | 0x107 => some .viota | 0x108 => some .vrmax | 0x109 => some .vrmin | 0x10A => some .vrsum
  | 0x10B => some .vscan | 0x10C => some .vselm | 0x10D => some .vshuf | 0x10E => some .vslide
  | 0x10F => some .vunzip | 0x110 => some .vzip | 0x154 => some .xlat | 0x1C0 => some .cfgload
  | 0x1C1 => some .collapse | 0x1C4 => some .eret | 0x1C5 => some .getc | 0x1CA => some .nop | 0x1CD => some .rng
  | 0x1CE => some mkSetc | 0x1CF => some .skget | 0x1D0 => some .skmix | 0x1D1 => some .skset
  | 0x1D2 => some .smaxinit | 0x1D3 => some .smaxupd | 0x1D6 => some .specres | 0x1D8 => some .trap
  | _ => none

/-- The opcodes of format M (R68, R101) and what their words build. -/
def mBuild : Nat → Option (MWord → Instr)
  | 0x140 => some .aadd | 0x141 => some .aand | 0x142 => some .acas | 0x143 => some .afadd | 0x144 => some .amax
  | 0x145 => some .amin | 0x146 => some .aor | 0x147 => some .atset | 0x148 => some .axchg | 0x149 => some .axor
  | 0x14A => some .fence | 0x14B => some .ld | 0x14C => some .lds | 0x14D => some .ldx | 0x14E => some .pfetch
  | 0x14F => some .reside | 0x150 => some .st | 0x151 => some .sts | 0x152 => some .stx | 0x153 => some .widen
  | 0x1C6 => some .kvapp | 0x1C7 => some .kvmap | 0x1C9 => some .logrec | 0x1CC => some .replay
  | _ => none

/-- The opcodes of format E (R68, R101) and what their words build. -/
def eBuild : Nat → Option (EWord → Instr)
  | 0x180 => some .attsc | 0x181 => some .baradd | 0x182 => some .bararr | 0x183 => some .barinit
  | 0x184 => some .barwait | 0x185 => some .cclr | 0x186 => some .coll | 0x187 => some .cpy
  | 0x188 => some .cpyfill | 0x189 => some .cpyrot | 0x18A => some .ffr | 0x18B => some .gath
  | 0x18C => some .intsect | 0x18D => some .mma | 0x18E => some .mmas | 0x18F => some .netrecv
  | 0x190 => some .netsend | 0x191 => some .poolcut | 0x192 => some .poolmove | 0x193 => some .poolqry
  | 0x194 => some .scld | 0x195 => some .spacc | 0x196 => some .spflush | 0x197 => some .waitall
  | 0x198 => some .waitany | 0x1C2 => some .ctxrest | 0x1C3 => some .ctxsave | 0x1C8 => some .launch
  | 0x1CB => some .pfxcmp | 0x1D4 => some .specbeg | 0x1D5 => some .speccmt | 0x1D7 => some .takein
  | 0x1D9 => some .withdraw
  | _ => none

/-- The opcodes of format X (R68, R101) and what their words build. -/
def xBuild : Nat → Option (XWord → Instr)
  | 0x080 => some .br | 0x081 => some .bri | 0x082 => some .call | 0x083 => some .calli | 0x084 => some .halt
  | 0x085 => some .ret | 0x08C => some .yield
  | _ => none

/-- The target fields T0 and T1 of a word (R67), and whether one of them is a reserved index (R69). -/
def targetsOf (w : Word) : Target × Target × Bool :=
  let t0 := Target.ofCode? (bits w 52 44)
  let t1 := Target.ofCode? (bits w 43 35)
  (t0.getD .none, t1.getD .none, t0.isNone || t1.isNone)

/-- Steps 2 to 4 of R107 on an assembled instruction; `tbad` says that a target field held a reserved index. -/
def finishDecode (i : Instr) (tbad : Bool) : Except DecodeError Instr :=
  if !i.codeOk then .error .badCode
  else if !i.bitsOk then .error .reservedBits
  else if tbad || !i.targetsOk then .error .badTarget
  else .ok i

/-- Format G (R71). -/
def decodeG (mk : GWord → Instr) (w : Word) : Except DecodeError Instr :=
  match PMode.ofCode? (bits w 54 53), RType.ofNat? (bits w 34 31) with
  | some pm, some ty =>
    let (t0, t1, tbad) := targetsOf w
    finishDecode (mk { pm, t0, t1, ty, mode := BitVec.ofNat 3 (bits w 30 28), imm := bit w 27,
                       value := BitVec.ofNat 27 (bits w 26 0) }) tbad
  | _, _ => .error .badCode

/-- Format M (R72). -/
def decodeM (mk : MWord → Instr) (w : Word) : Except DecodeError Instr :=
  match PMode.ofCode? (bits w 54 53), RType.ofNat? (bits w 34 31), Fmt.ofNat? (bits w 30 27),
    Scope.ofCode? (bits w 21 19) with
  | some pm, some ty, some fmt, some scope =>
    let (t0, t1, tbad) := targetsOf w
    finishDecode (mk { pm, t0, t1, ty, fmt, lsid := BitVec.ofNat 5 (bits w 26 22), scope,
                       order := BitVec.ofNat 2 (bits w 18 17), offset := BitVec.ofNat 17 (bits w 16 0) }) tbad
  | _, _, _, _ => .error .badCode

/-- Format E (R74). -/
def decodeE (mk : EWord → Instr) (w : Word) : Except DecodeError Instr :=
  match PMode.ofCode? (bits w 54 53) with
  | some pm =>
    let (t0, t1, tbad) := targetsOf w
    finishDecode (mk { pm, t0, t1, port := BitVec.ofNat 6 (bits w 34 29), ctag := BitVec.ofNat 6 (bits w 28 23),
                       mods := BitVec.ofNat 23 (bits w 22 0) }) tbad
  | none => .error .badCode

/-- Format X (R75): both targets must be 0x1FF (R70). -/
def decodeX (mk : XWord → Instr) (w : Word) : Except DecodeError Instr :=
  match PMode.ofCode? (bits w 54 53), Action.ofCode? (bits w 32 30) with
  | some pm, some action =>
    finishDecode (mk { pm, kind := BlkKind.ofCode (bits w 34 33), action, field := BitVec.ofNat 3 (bits w 29 27),
                       target := BitVec.ofNat 27 (bits w 26 0) }) (bits w 52 35 != 0x3FFFF)
  | _, _ => .error .badCode

/-- Decoding of one instruction word, total, refusing by the name of the first check of R107 that fails. -/
def decodeWord (w : Word) : Except DecodeError Instr :=
  let op := bits w 63 55
  match gBuild op with
  | some mk => decodeG mk w
  | none => match mBuild op with
    | some mk => decodeM mk w
    | none => match eBuild op with
      | some mk => decodeE mk w
      | none => match xBuild op with
        | some mk => decodeX mk w
        | none => .error .badOpcode

/-- The predicate mode and target fields above the operation field (R67). -/
def encodeHead (op : Nat) (pm : PMode) (t0 t1 : Nat) : Nat :=
  op * 2 ^ 55 + pm.code * 2 ^ 53 + t0 * 2 ^ 44 + t1 * 2 ^ 35

/-- The word of an instruction (R67, R71-R75); a step of the machine has none and gives 0. -/
def encode (i : Instr) : Word :=
  BitVec.ofNat 64 <| match i.form with
  | .g w => encodeHead i.opcode w.pm w.t0.code w.t1.code + w.ty.code * 2 ^ 31 + w.mode.toNat * 2 ^ 28 +
      w.imm.toNat * 2 ^ 27 + w.value.toNat
  | .m w => encodeHead i.opcode w.pm w.t0.code w.t1.code + w.ty.code * 2 ^ 31 + w.fmt.code * 2 ^ 27 +
      w.lsid.toNat * 2 ^ 22 + w.scope.code * 2 ^ 19 + w.order.toNat * 2 ^ 17 + w.offset.toNat
  | .e w => encodeHead i.opcode w.pm w.t0.code w.t1.code + w.port.toNat * 2 ^ 29 + w.ctag.toNat * 2 ^ 23 +
      w.mods.toNat
  | .x w => encodeHead i.opcode w.pm 0x1FF 0x1FF + w.kind.code * 2 ^ 33 + w.action.code * 2 ^ 30 +
      w.field.toNat * 2 ^ 27 + w.target.toNat
  | .step => 0

/-- A word as the bytes that hold it in an image (R2: little-endian), lowest address first. -/
def wordBytes (w : Word) : List Byte :=
  (List.range 8).map fun k => BitVec.ofNat 8 (w.toNat >>> (8 * k))

/-- The bytes of an instruction read back as a word. -/
def bytesToNat : List Byte → Nat
  | [] => 0
  | b :: bs => b.toNat + 256 * bytesToNat bs

/-- Decoding from the bytes that an image holds, and the bytes that follow the instruction. -/
def decode (bs : List Byte) : Option (Instr × List Byte) :=
  if bs.length < 8 then none
  else match decodeWord (BitVec.ofNat 64 (bytesToNat (bs.take 8))) with
    | .ok i => some (i, bs.drop 8)
    | .error _ => none

/-- The instruction that the decoder reads from a word whose bits are `w`; bits above `nbits` are 0. -/
def decodeTableWord (nbits w : Nat) : Option Instr :=
  (decode (wordBytes (BitVec.ofNat 64 (w % 2 ^ nbits)))).map (·.1)

end Sys2Proof
end

