-- ==== Sys2Proof/Config.lean ====
section
/-! DEFINITION. What one implementation fixes and the spec does not: the byte an unlisted address reads as, and the
free values and the contents of fuses, which are opaque so that no proof can rest on them. -/

namespace Sys2Proof.Config

/-- What a byte of memory that nothing has written reads as. DESIGN CHOICE (log 1), unsafe: the spec gives RAM no
contents after power-on. -/
def unlistedByte : Byte := 0

/-- The silicon revision in `mg.id` bits 23:16 (R400): the spec names the field and no value (log 6). -/
opaque siliconRevision : BitVec 8

/-- The fused hashes of the manifest keys: of the Ed25519 key (0) and of the ML-DSA-65 key (1) (R397, log 6). -/
opaque fusedKeyHash : Nat → BitVec 384

/-- The fused 256-bit seed (R398, log 6). -/
opaque fusedSeed : BitVec 256

/-- The 32 random bytes that a hedged ML-DSA-65 signature of FIPS 204 takes, by a free value's number (R399, logs 6 and 8). -/
opaque signingRandom : Nat → BitVec 256

/-- The set of a CACHE line, before it is taken modulo the number of sets, by the bank count of CACHE, its first bank and
the line: R214 says only that the mapping depends on the two (log 10). -/
opaque cacheSet : Nat → Nat → Nat → Nat

/-- Bytes of a save image whose encoding the spec does not give (R354), by the number of the save and the offset (log 14). -/
opaque saveFill : Nat → Nat → Byte

/-- The 64 KiB frames that a row of a stack lies in (R384): the spec does not say how rows fall on frames (log 15). -/
opaque rowFrames : Nat → Nat → List Nat

/-- Hash function `k` of the filters of R383, which the spec does not name: the bit of a row, before it is taken modulo
2^20 (log 15). -/
opaque bloomHash : Nat → Nat → Nat

/-- Where the spec gives two outcomes and leaves the choice open (R239, R240: overlapping writes of one command, and a
source byte that the command has written): a free value by its number and the 16-byte granule (log 8). -/
opaque eitherOf : Nat → Nat → Bool

/-- The order in which the lines of an accumulator tile that overlaps an operand tile are written (R232): a free value by its
number and the line (log 16). -/
opaque lineRank : Nat → Nat → Nat

end Sys2Proof.Config
end

