-- ==== Sys2Proof/Machine/State.lean ====
section
/-! DEFINITION. The state of the whole DX72 as plain data (INVENTORY.md, State), what a step can stop with, and the
state after reset. -/

namespace Sys2Proof.Machine

/-- Why the machine stops with a fault. The machine's own faults (R338) are fault records and traps, which are next
states; this type only names moves that are no move of the machine. -/
inductive Fault where
  /-- Raised by `step` for an agenda entry that names a unit the package does not have (R7, R17, R40, R375).
  Safe: no such event exists on the hardware. -/
  | noSuchUnit
  deriving DecidableEq, Repr

/-- Why an instruction is refused. -/
inductive Refusal where
  /-- Raised by `exec` for an instruction without a meaning. Safe. -/
  | notModelled (mnemonic : String)
  deriving DecidableEq, Repr

/-- Memory by physical address (R15): strictly rising addresses, no byte equal to what an unlisted one reads as. -/
abbrev Memory := List Host.Cell

/-- Token kinds (R26). -/
inductive Kind where
  | data | null | stop (level : Fin 4) | chaff | fault
  deriving DecidableEq, Repr

/-- A value: a scalar or a vector (R27). -/
inductive Val where
  | sc (x : Word)
  | vec (x : Vec)
  deriving DecidableEq, Repr

/-- A token (R26). -/
structure Tok where
  tag : Word
  kind : Kind
  val : Val
  deriving DecidableEq, Repr

/-- Operand positions of an instruction (R69). -/
inductive Pos where
  | left | right | pred
  deriving DecidableEq, Repr

/-- Which block instance: a core's context, its strand or its handler strand (R345), and the sequence number. -/
structure InstRef where
  core : Nat
  ctx : Nat
  hdl : Bool
  seq : Nat
  deriving DecidableEq, Repr

/-- The operand set of one firing (R57): where, for which instance, at which instruction index, under which tag, in which
block, and the tokens that stood in its operand positions. -/
structure Firing where
  core : Nat
  elem : Nat
  ctx : Nat
  hdl : Bool
  seq : Nat
  idx : Nat
  tag : Word
  blk : Nat
  l : Option Tok
  r : Option Tok
  p : Option Tok
  deriving DecidableEq, Repr

/-- A fault record (R339); flags bit 0 (valid) is implied. -/
structure FRec where
  tag : Word
  addr : Word
  kind : Nat
  lsid : Nat
  node : Nat
  repaired : Bool
  refused : Bool
  repair : Bool
  frozen : Bool
  sseq : Nat
  hdl : Bool
  seq : Nat
  index : Nat
  bno : Nat
  cgen : Nat
  detail : Word
  deriving DecidableEq, Repr

/-- An entry of a selvage port's replay buffer (R340): port, slot, context, the access kind as R357 codes it, the key
under which its page-in request has been posted (R342: core, context, port, slot), and the record. -/
structure RSlot where
  port : Nat
  slot : Nat
  ctx : Nat
  src : Nat
  key : Option (Nat × Nat × Nat × Nat)
  fr : FRec
  deriving DecidableEq, Repr

/-- A node's fault register for a context (R249, R341): record number, record, and the order in which the engine accepted
the command (0 at a selvage port or gather unit). -/
structure FReg where
  node : Nat
  ctx : Nat
  num : Nat
  fr : FRec
  ord : Nat
  deriving DecidableEq, Repr

/-- An entry of a matching store (R60): key, token, the sender's instance, the order of
arrival (R63); `base` gives the FRAME byte addresses of the two lines of an entry of the overflow area (R62); `held` marks a
token that a REORDER holds (R126). -/
structure Ent where
  ctx : Nat
  slot : Nat
  pos : Pos
  tok : Tok
  hdl : Bool
  own : Nat
  arr : Nat
  base : Option (Nat × Nat)
  held : Bool
  deriving DecidableEq, Repr

/-- Where a token in the fabric is bound: an operand position on an element, a frame-write descriptor, or a channel
with its place in the order of R48 (frame reads before instructions, then index, then T0 before T1). -/
inductive Dest where
  | pos (elem slot : Nat) (p : Pos)
  | write (k : Nat)
  | chan (c : Nat) (order : Nat)
  deriving DecidableEq, Repr

/-- A token in the fabric (R42). Sources 0-63 are elements, 64 and above the islands and the frame reads; `out` numbers
the firing whose output slot it still stands in (R40). -/
structure Flight where
  src : Nat
  ctx : Nat
  hdl : Bool
  seq : Nat
  dest : Dest
  tok : Tok
  out : Option Nat
  deriving DecidableEq, Repr

/-- A reconfiguration token waiting on an element (R64): the words it writes into the context's page, and the block whose
words they are when block fetch or dispatch sent it. -/
structure Reconf where
  ctx : Nat
  words : List (Nat × Word)
  blk : Option Nat
  deriving DecidableEq, Repr

/-- An element (R40, R59-R63): matching store, overflow area, present context, firings in a row, stall count,
instruction pages, the block whose words each context's page holds, waiting reconfiguration tokens, and the number of its
latest firing, which names the output slot of its results. -/
structure Elem where
  store : List Ent
  ovf : List Ent
  present : Nat
  run : Nat
  stall : Nat
  pages : List (List Word)
  blks : List Nat
  reconf : List Reconf
  serial : Nat
  deriving DecidableEq, Repr

/-- A hardware barrier (R163). -/
structure Barrier where
  count : BitVec 32
  fired : Bool
  deriving DecidableEq, Repr

/-- Completion tag states (R167). -/
inductive CtagSt where
  | free | busy | done
  deriving DecidableEq, Repr

/-- The mark of a completion (R238). -/
inductive Mark where
  | none | chaff | fault (num : Nat)
  deriving DecidableEq, Repr

/-- The owner of a completion tag (R167). -/
structure Owner where
  ctx : Nat
  hdl : Bool
  seq : Nat
  idx : Nat
  deriving DecidableEq, Repr

/-- A completion tag (R167, R238): state, owner, mark, and the scope at which it was released. -/
structure Ctag where
  st : CtagSt
  owner : Option Owner
  mark : Mark
  scope : Nat
  deriving DecidableEq, Repr

/-- Bank counts of the pool's roles (R212). -/
structure Split where
  frame : Nat
  pad : Nat
  tile : Nat
  cache : Nat
  deriving DecidableEq, Repr

/-- A CACHE line (R320, R161): line number (physical address div 64), its bytes, which are dirty, the RESIDE mark, and what
`State.rels` said of its bytes when it was read (R323). -/
structure CLine where
  line : Nat
  bytes : List Byte
  dirty : Word
  resident : Bool
  rels : List (Nat × Nat × Nat)
  deriving DecidableEq, Repr

/-- A translation cache entry (R138). -/
structure TlbE where
  vbase : Nat
  size : Nat
  pbase : Nat
  w : Bool
  deriving DecidableEq, Repr

/-- A cut whose test has passed and whose transition has not run (R218, R219). -/
structure Cut where
  dst : Split
  flush : Bool
  reloc : Bool
  deriving DecidableEq, Repr

/-- How far an engine command has come. `sent`: on the island's channel; `accepted`: taken by the island; `started`:
running, or its writes are on their way (R326); `consumed`: its operand buffers are read (R236); `issued`: a gather
entry's row block is read (R256); `finished`: complete, kept only for a consumed event that is still to come. -/
inductive CmdSt where
  | sent | accepted | started | consumed | issued | finished
  deriving DecidableEq, Repr

/-- An engine command that has been issued and has not finished (R331), with the island state it carries. `ctag` and `ctc`
are the tags it holds; `ord` the order in which a matrix command became complete (R232), or in which another command was
accepted (R249); `scale` its scale token (R234); `a` and `b` bytes it has read; `j p q m` an intersect walk (R259), or
what the completion of a command whose writes are on their way needs; `opened` the cycle a gather entry was opened and
`gseq` the request's number (R256); `pas` the bytes of a gather request; `got` bytes of its sources that it has read before
the rest (R326). -/
structure Cmd where
  port : Nat
  i : Instr
  f : Firing
  ctag : Option Nat
  ctc : Option Nat
  scope : Nat
  st : CmdSt
  ord : Nat
  scale : Option Tok
  a : List Byte
  b : List Byte
  j : Nat
  p : Nat
  q : Nat
  m : Nat
  opened : Nat
  gseq : Nat
  pas : List Nat
  got : List (Nat × Byte)
  frozen : Bool
  orphan : Bool
  status : Nat
  deriving DecidableEq, Repr

/-- The stage of an operation that has fired and not finished. `held`: re-tried as a whole (a busy tag R167, a soft-token
register that an older writer may still write R273, a full replay buffer R250); `frozen`: a failing access under STOP
(R252); `load`: issued, with the bytes it covers (R147) and those of them that it has read (R326); `perform`: applied once
every older instance has committed (R152, R165); `wait`: a wait of R136, R155, R164 or R168; `cut`: a POOLCUT past its
first tests (R218). -/
inductive Stage where
  | held
  | frozen (node : Nat)
  | load (pas : List Nat) (got : List (Nat × Byte))
  | perform
  | wait
  | cut
  deriving DecidableEq, Repr

/-- An operation of an instance that has fired and not finished. `sseq` numbers a POOLCUT among the pending cuts, tells
a BARWAIT that it has been let go (R164), and an operation that has outlived the squash of its instance (R331). -/
structure Pend where
  i : Instr
  f : Firing
  st : Stage
  sseq : Nat
  deriving DecidableEq, Repr

/-- A store buffered at its port (R146): its LSID, the bytes that are still to become visible, the lines that it fills with
zeros as a whole (R381), the bytes a LOGREC copies at commit (R280), scope, whether it is a release, whether it is the
release part of a FENCE (R155), and whether all of it is visible (R152). -/
structure BStore where
  idx : Nat
  lsid : Nat
  bytes : List (Nat × Byte)
  zero : List Nat
  copySrc : List Nat
  copyDst : List Nat
  scope : Scope
  rel : Bool
  fence : Bool
  shown : Bool
  deriving DecidableEq, Repr

/-- What an instance does when it commits, besides R48 (R169, R273, R309, R350, R352). -/
inductive Post where
  | setc (reg : Nat) (v : Word)
  | fclr
  | sk (r : Nat) (v : Vec)
  | clearTag (c : Nat) (owner : Option Owner)
  | specfb
  | takeIn (quads : Nat)
  deriving DecidableEq, Repr

/-- The exit an instance has taken (R46): its index, whether it has completed, the block it starts, the new tag, the
link stack it leaves (R131), the dynamic field whose allocation it waits for (R38), and whether it is a HALT or an
ERET (`some skip`). -/
structure Exit where
  idx : Nat
  done : Bool
  start : Option Nat
  tag : Word
  links : List Nat
  alloc : Option Nat
  halt : Bool
  eret : Option Bool
  deriving DecidableEq, Repr

/-- A block instance in flight (R50); `acq` are its FENCEs whose acquire part has been performed (R155); `begun` tells that
the conditions of R47 held and its commit has begun, so that its stores become visible one after the other (R48, R326). -/
structure Inst where
  seq : Nat
  hdl : Bool
  blk : Nat
  tag : Word
  links : List Nat
  marked : Option Nat
  reads : List Nat
  writes : List (Nat × Tok)
  chans : List (Nat × Nat × Tok)
  counted : BitVec 32
  fired : List Nat
  acq : List Nat
  stores : List BStore
  post : List Post
  exit : Option Exit
  begun : Bool
  deriving DecidableEq, Repr

/-- A fetch request of a completed exit (R50). -/
structure Want where
  blk : Nat
  tag : Word
  seq : Nat
  links : List Nat
  deriving DecidableEq, Repr

/-- The instance a handler serves (R344, R347): its block, tag, link stack, and its completed exit. -/
structure Trapped where
  seq : Nat
  blk : Nat
  tag : Word
  links : List Nat
  num : Nat
  exit : Option Exit
  deriving DecidableEq, Repr

/-- A kept result (R152, R165): which firing, and the tokens it emitted to T0 and T1. -/
structure Kept where
  hdl : Bool
  seq : Nat
  idx : Nat
  out : List (Kind × Val)
  deriving DecidableEq, Repr

/-- Status of an ordinary frame slot (R51). -/
structure SlotSt where
  present : Bool
  kind : Kind
  vec : Bool
  deriving DecidableEq, Repr

/-- The FIFO of a channel-bound slot (R53, R334): depth, FRAME base of its entries, head position, the kinds and forms
of its entries, entries in transit from another core, the sender's window and the credits on their way back, the core
of the sender, the scope at which a read acquires and whether a WIDEN feeds the channel (R156, R333). -/
structure Fifo where
  slot : Nat
  depth : Nat
  base : Nat
  head : Nat
  ents : List (Kind × Bool)
  transit : List (Kind × Val)
  window : Nat
  credits : Nat
  src : Option Nat
  scope : Nat
  widened : Bool
  deriving DecidableEq, Repr

/-- A REORDER group (R126): the block and index of the instruction, the tag with the field cleared, the next value, and the
values passed for each in-flight instance. The tokens that it holds are entries of the matching store. -/
structure Group where
  hdl : Bool
  blk : Nat
  idx : Nat
  tag : Word
  next : Nat
  passed : List (Nat × Nat)
  deriving DecidableEq, Repr

/-- Control registers of a context that hold state (R349). -/
structure Ctl where
  ctagmask : Word
  cancel : Bool
  smode : BitVec 2
  hintdrop : Word
  kvclip : Word
  specfb : Word
  rpend : Word
  rlim : Word
  priv : Bool
  tcause : Word
  tseq : Word
  ttag : Word
  tblk : Word
  inHandler : Bool
  pending : Bool
  deriving DecidableEq, Repr

/-- A panel (R44): its north-west quad, its shape in quads, the variant in force, the launched count, and whether the
context took itself in (R351). -/
structure Panel where
  row : Nat
  col : Nat
  rows : Nat
  cols : Nat
  variant : Nat
  launched : Nat
  selfIn : Bool
  deriving DecidableEq, Repr

/-- What the launch record gave a context (R358, R364). -/
structure Lau where
  part : Nat
  handle : Nat
  image : List Word
  prio : Nat
  preempt : Bool
  excl : Bool
  key : Word
  when : Nat
  members : List (Nat × Nat)
  deriving DecidableEq, Repr

/-- The life of a context: free, running, its HALT committed (R132), failed (R346), or killed while its issued commands
still run (R372). -/
inductive Phase where
  | free | running | halting | failed | killed
  deriving DecidableEq, Repr

/-- A speculation slot (R290). -/
structure Spec where
  isOpen : Bool
  w : Nat
  deriving DecidableEq, Repr

/-- A pending take-in or save (R351, R353): the quad limit (0 for a save) and the cycle it began. -/
structure TakeIn where
  quads : Nat
  began : Nat
  bySelf : Bool
  deriving DecidableEq, Repr

/-- What a byte was to the accesses of a strand that come before a place (R147, R325): the accesses from `lo` up to `hi`, as
sequence numbers and places, that still read byte `pa` read `val`, since the access at `hi` has been performed before them. -/
structure Past where
  hdl : Bool
  lo : Nat × Nat
  hi : Nat × Nat
  pa : Nat
  val : Byte
  deriving DecidableEq, Repr

/-- A context (R43); `left` holds committed instances of which tokens, operations or commands remain (R57), `held` gives
the block that each core quad of its panel holds (R44), `gone` the room left on each channel whose receiver has ended. -/
structure Ctx where
  phase : Phase
  cgen : BitVec 8
  lau : Lau
  panel : Option Panel
  fp : Nat
  slots : List SlotSt
  fifos : List Fifo
  ctl : Ctl
  rlimUsed : Nat
  rlimStart : Nat
  sks : List Vec
  specs : List Spec
  bobNext : List Nat
  bobLive : List (Nat × Nat)
  bobWait : Nat
  recTab : List (Nat × FRec)
  nextSeq : Nat
  want : Option Want
  insts : List Inst
  links : List Nat
  hNext : Nat
  hWant : Option Want
  hInsts : List Inst
  trapped : Option Trapped
  pend : List Pend
  kept : List Kept
  groups : List Group
  gseq : List Nat
  left : List Inst
  past : List Past
  held : List (Nat × Nat)
  gone : List (Nat × Nat)
  takeIn : Option TakeIn
  deriving DecidableEq, Repr

/-- Writes of an engine command that have been made and have not all reached their coherence points (R326, R404): those of
command `job`, which runs, or of one that completed at a scope narrower than PKG (`job` 0, R315). `reach` is the scope in
which every party sees them at once: the core (1), its die (2), or no party yet (4), while the command runs. `zero` are the
lines that one access fills with zeros (R381). -/
structure Late where
  reach : Nat
  job : Nat
  bytes : List (Nat × Byte)
  zero : List Nat
  deriving DecidableEq, Repr

/-- A core (R16, R17). -/
structure Core where
  cycle : Word
  xgen : BitVec 8
  barriers : List Barrier
  ctags : List Ctag
  split : Split
  poolLast : Nat
  cacheHw : Nat
  padMarks : List Nat
  tileMarks : List Nat
  cutting : Option Cut
  cache : List CLine
  late : List Late
  tlb : List TlbE
  spent : List TlbE
  rbuf : List RSlot
  fregs : List FReg
  frozen : List (Nat × Nat)
  elems : List Elem
  fabric : List Flight
  cmds : List Cmd
  scales : List (Nat × Tok)
  scaleFlights : List (Tok × Cmd)
  ordLast : Nat
  matStall : Nat
  fetchLast : Nat
  cxs : List Ctx
  deriving DecidableEq, Repr

/-- A launch record (R358). -/
structure LRec where
  handle : Nat
  prio : Nat
  quads : Nat
  flags : Nat
  gcount : Nat
  gmember : Nat
  gid : Nat
  key : Word
  tags : Word
  pmask : Nat
  vals : List Word
  deriving DecidableEq, Repr

/-- A unit in a launch queue (R361): its records in member order, and the dispatcher cycle it entered. -/
structure QUnit where
  recs : List LRec
  entered : Nat
  deriving DecidableEq, Repr

/-- A launch queue (R361): core set, enable bit, units, assembly buffer, reserved entries of LAUNCHes, doorbell
statuses by control core, and records whose check waits for a release (R360): the writer, which is a control core or 8
plus a queue pair, the queue it named, and the record's bytes. -/
structure Queue where
  cores : BitVec 72
  enabled : Bool
  units : List QUnit
  asm : List LRec
  resv : List (LRec × InstRef)
  door : List Nat
  waiting : List (Nat × Nat × List Byte)
  deriving DecidableEq, Repr

/-- An installed image (R95, R98): handle, the copy, the instance that allocated it and has not committed, the
instances that marked it for release. -/
structure Image where
  handle : Nat
  words : List Word
  alloc : Option InstRef
  rel : List InstRef
  deriving DecidableEq, Repr

/-- A saved context (R353-R356): its number among the saved ones, where it was, the physical address of each 64-byte line
of its save area (none in the save pool), the context, the completion tags it held, its replay buffer records with their
places in the image, its fault registers, the pending commands that do not go on, its frame's bytes, the bytes of each
FIFO from the head, and when it was saved. The commands of port 40 that go on stay with the core, under context number 8 +
`id`. -/
structure Saved where
  id : Nat
  core : Nat
  ctx : Nat
  area : List Nat
  cx : Ctx
  tags : List (Nat × Ctag)
  recs : List (Nat × RSlot)
  fregs : List FReg
  cmds : List Cmd
  frame : List Byte
  fifoBytes : List (List Byte)
  time : Nat
  deriving DecidableEq, Repr

/-- An entry of a violation log (R357). -/
structure VEnt where
  pa : Nat
  source : Nat
  core : Nat
  ctx : Nat
  node : Nat
  count : Nat
  deriving DecidableEq, Repr

/-- A shootdown in progress or waiting (R390, R391): page base, size, the cores still to do it, the accesses still to be
performed, and the entries that each core removed. -/
structure Shoot where
  base : Nat
  size : Nat
  left : List Nat
  drain : List (InstRef × Nat)
  gone : List (Nat × TlbE)
  deriving DecidableEq, Repr

/-- A partition (R375, R390). -/
structure Part where
  cores : BitVec 72
  owner : BitVec 8
  lock : Bool
  resetBusy : Bool
  privw : BitVec 8
  ttb : Nat
  shoots : List Shoot
  wdraw : List Word
  preq : Nat
  phead : Nat
  ptail : Nat
  flog : List (Nat × Nat × FRec)
  flogIdx : Nat
  vlog : List VEnt
  vlogIdx : Nat
  vcount : BitVec 32
  queues : List Queue
  images : List Image
  pool : List Saved
  ranges : List (Nat × Nat)
  deriving DecidableEq, Repr

/-- A frame due for retirement or retired (R386): frame, channel, cause. -/
structure DueF where
  frame : Nat
  chan : Nat
  cause : Nat
  deriving DecidableEq, Repr

/-- A memory controller (R382-R386): registers, retirement log, due frames, error counts of the window, Bloom-filter
rows: the bits set in its two filters. -/
structure MemCtl where
  cfg : Word
  cecnt : Word
  uecnt : Word
  rlog : List DueF
  scrub : Word
  due : List DueF
  counts : List (Nat × Nat)
  fast32 : List Nat
  fast64 : List Nat
  deriving DecidableEq, Repr

/-- A queue pair (R394). -/
structure QP where
  num : Nat
  cfg : Word
  remote : Word
  gidLo : Word
  gidHi : Word
  mac : Word
  deriving DecidableEq, Repr

/-- A Swedin link register (R396). -/
structure Link where
  retries : BitVec 32
  failed : Bool
  deriving DecidableEq, Repr

/-- What an Ethernet port has sent (R267, R268, R395): queue pair, op, bytes. -/
structure NetMsg where
  qp : Nat
  op : Nat
  remote : Word
  key : Nat
  data : List Byte
  deriving DecidableEq, Repr

/-- A last-level cache line (R380, R381): line number, held in a zero tag, dirty. -/
structure LLine where
  line : Nat
  zero : Bool
  dirty : Bool
  deriving DecidableEq, Repr

/-- The device block (R397-R401). -/
structure Dev where
  admin : BitVec 8
  stage : Nat
  cause : Nat
  recovery : Bool
  arb : List Word
  attBusy : Bool
  attErr : Bool
  attAddr : Nat
  meas : List (BitVec 384)
  pwNow : Nat
  pwCap : Nat
  pwTj : Nat
  capped : Bool
  thermal : Bool
  mhz : Nat
  deriving DecidableEq, Repr

/-- A coming move. `fire`: an element fires the instruction that R58 picks; `leave`: its oldest result leaves its output
slot (R40); `cycle`: one cycle of a core passes (R20); `drain`: granule `g` of a late write reaches its coherence point
(R326); `part`: a waiting load reads the granule of byte `g` of its span, and `sample`: an engine command the granule of
byte `pa` of its sources, before the rest (R326); `reveal`: a granule of the next store of a committing instance becomes
visible (R48, R326); `event`: a step of the machine, with its outside data; `retry`: a held operation is tried again;
`evict`: a CACHE line is given up (R320: which one is not architectural); `evictLlc`: a last-level cache line is given up
(R380). -/
inductive Act where
  | fire (core elem : Nat)
  | leave (core elem : Nat)
  | cycle (core : Nat)
  | drain (core k g : Nat)
  | part (core ctx k g : Nat)
  | sample (core k pa : Nat)
  | reveal (core ctx g : Nat)
  | event (i : Instr)
  | retry (core ctx k : Nat)
  | evict (core line : Nat)
  | evictLlc (line : Nat)
  deriving DecidableEq, Repr

/-- The state of the package. `rels` lists the bytes whose last write was a release at DIE or wider: address, scope, the
core that wrote (R323, R327). `ccResv` holds the reservation of each control core, address and size (R322). `agenda`,
`sel` and `draw` are the model's own: the coming moves, the operand set of the instruction being fired, and how many free
values have been taken (logs 2 and 8). -/
structure State where
  mem : Memory
  cores : List Core
  parts : List Part
  mcs : List MemCtl
  qps : List QP
  links : List Link
  llc : List LLine
  rels : List (Nat × Nat × Nat)
  bad : List Nat
  dev : Dev
  dcyc : Nat
  netTx : List NetMsg
  ccOut : List (List Byte)
  ccResv : List (Option (Nat × Nat))
  agenda : List Act
  sel : Option Firing
  draw : Nat
  deriving DecidableEq, Repr

/-- An element after reset (R59: context 0 is present). -/
def Elem.reset : Elem :=
  { store := [], ovf := [], present := 0, run := 0, stall := 0, pages := List.replicate 8 (List.replicate 32 0),
    blks := List.replicate 8 0, reconf := [], serial := 0 }

/-- Control registers at dispatch (R349). -/
def Ctl.reset : Ctl :=
  { ctagmask := 0, cancel := false, smode := 0, hintdrop := 0, kvclip := 0, specfb := 0, rpend := 0, rlim := 0,
    priv := false, tcause := 0, tseq := 0, ttag := 0, tblk := 0, inHandler := false, pending := false }

/-- A context that nothing has been dispatched into (R273, R290, R36, R256 at dispatch; the rest log 5). -/
def Ctx.reset : Ctx :=
  { phase := .free, cgen := 0,
    lau := { part := 0, handle := 0, image := [], prio := 0, preempt := false, excl := false, key := 0, when := 0,
             members := [] },
    panel := none, fp := 0, slots := [], fifos := [], ctl := Ctl.reset, rlimUsed := 0, rlimStart := 0,
    sks := List.replicate 16 0, specs := List.replicate 4 ⟨false, 0⟩, bobNext := List.replicate 7 0, bobLive := [],
    bobWait := 0, recTab := [], nextSeq := 0, want := none, insts := [], links := [], hNext := 0, hWant := none,
    hInsts := [], trapped := none, pend := [], kept := [], groups := [], gseq := List.replicate 4 0,
    left := [], past := [], held := [], gone := [], takeIn := none }

/-- The pool split after reset (R213). -/
def Split.reset : Split := { frame := 8, pad := 40, tile := 32, cache := 16 }

/-- A core after reset (R20, R159, R163, R167, R213, R224, R59). -/
def Core.reset : Core :=
  { cycle := 0, xgen := 0, barriers := List.replicate 128 ⟨0, false⟩,
    ctags := List.replicate 64 ⟨.free, none, .none, 0⟩, split := Split.reset, poolLast := 0, cacheHw := 0,
    padMarks := [], tileMarks := [], cutting := none, cache := [], late := [], tlb := [], spent := [],
    rbuf := [], fregs := [], frozen := [],
    elems := List.replicate 64 Elem.reset, fabric := [], cmds := [], scales := [], scaleFlights := [], ordLast := 0,
    matStall := 0, fetchLast := 0, cxs := List.replicate 8 Ctx.reset }

/-- A launch queue after reset (log 5). -/
def Queue.reset : Queue :=
  { cores := 0, enabled := false, units := [], asm := [], resv := [], door := List.replicate 8 0, waiting := [] }

/-- A partition after boot (R390: `part.owner` is 0x01; its memory ranges, which no register sets, are all HBM and the
whole capacity tier: log 13; the rest log 5). -/
def Part.reset : Part :=
  { cores := 0, owner := 1, lock := false, resetBusy := false, privw := 0, ttb := 0, shoots := [],
    wdraw := List.replicate 8 0, preq := 0, phead := 0, ptail := 0, flog := [], flogIdx := 0, vlog := [], vlogIdx := 0,
    vcount := 0, queues := List.replicate 16 Queue.reset, images := [], pool := [],
    ranges := [(0, 0x9000000000), (0x100000000000, 0x10000000000)] }

/-- A memory controller after reset (R384: threshold 3; the rest log 5). -/
def MemCtl.reset : MemCtl :=
  { cfg := 0x300, cecnt := 0, uecnt := 0, rlog := [], scrub := 1, due := [], counts := [], fast32 := [], fast64 := [] }

/-- The device block after reset (R400, R10: 2.1 GHz; the rest log 5). -/
def Dev.reset : Dev :=
  { admin := 1, stage := 0, cause := 0, recovery := false, arb := List.replicate 4 0, attBusy := false, attErr := false,
    attAddr := 0, meas := List.replicate 4 0, pwNow := 0, pwCap := 0, pwTj := 0, capped := false, thermal := false,
    mhz := 2100 }

/-- The package after reset. -/
def State.reset : State :=
  { mem := [], cores := List.replicate 72 Core.reset, parts := List.replicate 8 Part.reset,
    mcs := List.replicate 12 MemCtl.reset, qps := [], links := List.replicate 6 ⟨0, false⟩, llc := [], rels := [], bad := [],
    dev := Dev.reset, dcyc := 0, netTx := [], ccOut := List.replicate 8 [], ccResv := List.replicate 8 none,
    agenda := [], sel := none, draw := 0 }

end Sys2Proof.Machine
end

