-- ==== Sys2Proof/Machine/Image.lean ====
section
/-! DEFINITION. Reading a Prele image (R78-R88): header fields, block records, descriptors, channel entries, variants,
which operand positions are fed (R120), and the checks of a word that need its block (R70, R107, R120, R133, R156). -/

namespace Sys2Proof.Machine

/-- Byte `k` of an image held as its little-endian dwords. -/
def imgByte (img : List Word) (k : Nat) : Nat := ((img.getD (k / 8) 0).toNat >>> (8 * (k % 8))) % 256

/-- The `n` bytes at offset `k` as a little-endian number (R2). -/
def imgNat (img : List Word) (k : Nat) : Nat → Nat
  | 0 => 0
  | n + 1 => imgByte img k + 256 * imgNat img (k + 1) n

/-- Header fields of R83. -/
def imgNblocks (img : List Word) : Nat := imgNat img 6 2
def imgScope (img : List Word) : Nat := imgByte img 8
def imgNfields (img : List Word) : Nat := imgByte img 9
def imgNchannels (img : List Word) : Nat := imgByte img 10
def imgNvariants (img : List Word) : Nat := imgByte img 11
def imgNslots (img : List Word) : Nat := imgNat img 12 2
def imgHandler (img : List Word) : Nat := imgNat img 14 2
def imgTagoff (img : List Word) : Nat := imgNat img 16 4
def imgChanoff (img : List Word) : Nat := imgNat img 20 4
def imgBlockoff (img : List Word) : Nat := imgNat img 24 4
def imgPatoff (img : List Word) : Nat := imgNat img 28 4
def imgPlaceoff (img : List Word) : Nat := imgNat img 32 4
def imgNpatterns (img : List Word) : Nat := imgNat img 36 4
def imgDataoff (img : List Word) : Nat := imgNat img 40 4
def imgDatalen (img : List Word) : Nat := imgNat img 44 4
def imgLength (img : List Word) : Nat := imgNat img 48 4
def imgInoff (img : List Word) : Nat := imgNat img 52 4
def imgNinch (img : List Word) : Nat := imgByte img 56

/-- Width of tag field `f` and whether it is dynamic (R84). -/
def fieldWidth (img : List Word) (f : Nat) : Nat := imgByte img (imgTagoff img + 8 * f)
def fieldDynamic (img : List Word) (f : Nat) : Bool := imgByte img (imgTagoff img + 8 * f + 1) % 2 == 1

/-- A channel entry (R85). -/
structure ChanEnt where
  chan : Nat
  flags : Nat
  depth : Nat
  dslot : Nat
  dscope : Nat
  qblock : Nat
  dimage : Nat
  deriving DecidableEq, Repr

def chanEnt (img : List Word) (k : Nat) : ChanEnt :=
  let o := imgChanoff img + 16 * k
  { chan := imgByte img o, flags := imgByte img (o + 1), depth := imgNat img (o + 2) 2, dslot := imgByte img (o + 4),
    dscope := imgByte img (o + 5), qblock := imgNat img (o + 6) 2, dimage := imgNat img (o + 8) 2 }

/-- The channel list, and the entry of one channel. -/
def chanList (img : List Word) : List ChanEnt := (List.range (imgNchannels img)).map (chanEnt img)
def chanFind (img : List Word) (c : Nat) : Option ChanEnt := (chanList img).find? (·.chan == c)

/-- The in-list (R86). -/
def inList (img : List Word) : List Nat := (List.range (imgNinch img)).map fun k => imgByte img (imgInoff img + k)

/-- The two header words of a block record (R79, R80). -/
structure Blk where
  off : Nat
  magic : Nat
  icount : Nat
  nreads : Nat
  nwrites : Nat
  kind : Nat
  first : Bool
  blockno : Nat
  smask : Nat
  nexits : Nat
  nchan : Nat
  deriving DecidableEq, Repr

def blkOf (off h0 h1 : Nat) : Blk :=
  { off, magic := h0 >>> 56, icount := (h0 >>> 49) % 128 + 1, nreads := (h0 >>> 43) % 64,
    nwrites := (h0 >>> 37) % 64, kind := (h0 >>> 35) % 4, first := h0.testBit 34, blockno := h0 % 65536,
    smask := h1 >>> 32, nexits := (h1 >>> 16) % 128 + 1, nchan := h1 % 65536 }

def blkRead (img : List Word) (off : Nat) : Blk := blkOf off (imgNat img off 8) (imgNat img (off + 8) 8)

/-- The number of the record word that holds instruction 0, and the record's size in bytes (R78). -/
def Blk.codeWord (b : Blk) : Nat := 2 + (b.nreads + 1) / 2 + (b.nwrites + 3) / 4
def Blk.size (b : Blk) : Nat := (8 * (b.codeWord + b.icount) + 15) / 16 * 16

/-- Offsets of the block records, which follow one another from block record 0 (R78, R83). -/
def blkOffsFrom (img : List Word) (off : Nat) : Nat → List Nat
  | 0 => []
  | n + 1 => off :: blkOffsFrom img (off + (blkRead img off).size) n

def blkOffs (img : List Word) : List Nat := blkOffsFrom img (imgBlockoff img) (imgNblocks img)

def blkAt (img : List Word) (b : Nat) : Blk := blkRead img ((blkOffs img).getD b 0)

/-- The block whose record starts at an image offset. -/
def blkAtOff (img : List Word) (off : Int) : Option Nat :=
  if off < 0 then none else (blkOffs img).findIdx? (· == off.toNat)

/-- The block marked first (R79). -/
def blkFirst (img : List Word) : Nat :=
  ((List.range (imgNblocks img)).find? fun b => (blkAt img b).first).getD 0

/-- Frame-read descriptor `k` (R81). -/
structure RdDesc where
  slot : Nat
  last : Bool
  t0 : Target
  t1 : Target
  deriving DecidableEq, Repr

def rdRaw (img : List Word) (b : Blk) (k : Nat) : Nat := imgNat img (b.off + 16 + 4 * k) 4

def rdDesc (img : List Word) (b : Blk) (k : Nat) : RdDesc :=
  let x := rdRaw img b k
  { slot := x % 256, last := x.testBit 8, t0 := (Target.ofCode? ((x >>> 18) % 512)).getD .none,
    t1 := (Target.ofCode? ((x >>> 9) % 512)).getD .none }

def rdDescs (img : List Word) (b : Blk) : List RdDesc := (List.range b.nreads).map (rdDesc img b)

/-- Frame-write descriptor `k` (R82): its 16 bits, and the slots in descriptor order. -/
def wrRaw (img : List Word) (b : Blk) (k : Nat) : Nat := imgNat img (b.off + 16 + 8 * ((b.nreads + 1) / 2) + 2 * k) 2
def wrSlots (img : List Word) (b : Blk) : List Nat := (List.range b.nwrites).map fun k => wrRaw img b k % 256

/-- The word of instruction `i`, and all words of the block. -/
def insWord (img : List Word) (b : Blk) (i : Nat) : Word := BitVec.ofNat 64 (imgNat img (b.off + 8 * (b.codeWord + i)) 8)
def insWords (img : List Word) (b : Blk) : List Word := (List.range b.icount).map (insWord img b)

/-- Opcode of a word (R67). -/
def wordOp (w : Word) : Nat := bits w 63 55

/-- The target fields of an instruction word (R67, R69); a word with a reserved opcode is no instruction and has none. -/
def wordTargets (w : Word) : List Target :=
  let op := wordOp w
  if (gBuild op).isSome || (mBuild op).isSome || (eBuild op).isSome || (xBuild op).isSome then
    let (t0, t1, _) := targetsOf w
    [t0, t1]
  else []

def Target.names (t : Target) (i : Nat) (p : Pos) : Bool :=
  match t, p with
  | .left j, .left => j.toNat == i
  | .right j, .right => j.toNat == i
  | .pred j, .pred => j.toNat == i
  | _, _ => false

/-- Is this operand position fed (R120)? -/
def fed (img : List Word) (b : Blk) (i : Nat) (p : Pos) : Bool :=
  (rdDescs img b).any (fun d => Target.names d.t0 i p || Target.names d.t1 i p) ||
  (insWords img b).any (fun w => (wordTargets w).any fun t => Target.names t i p)

/-- Opcodes of the one-operand instructions of R120 (with NOP by R124, R199, R274 and R296) and of the exits. -/
def oneOperandOps : List Nat :=
  [0x000, 0x012, 0x007, 0x008, 0x014, 0x006, 0x00D, 0x00F, 0x00E, 0x004, 0x01A, 0x01F, 0x043, 0x042, 0x048, 0x045,
   0x04D, 0x050, 0x04F, 0x086, 0x08A, 0x088, 0x087, 0x089, 0x08B, 0x1CA,
   0x0C0, 0x0CA, 0x0C4, 0x0C5, 0x0CB, 0x0CD, 0x0CF, 0x0CC, 0x101, 0x104, 0x107, 0x108, 0x109, 0x10A, 0x10B,
   0x1D1, 0x1D0, 0x1CF, 0x1D2]
def exitOps : List Nat := [0x080, 0x081, 0x082, 0x083, 0x084, 0x085, 0x08C]

/-- Is an opcode assigned (R101)? -/
def opKnown (op : Nat) : Bool := (gBuild op).isSome || (mBuild op).isSome || (eBuild op).isSome || (xBuild op).isSome

/-- Is a target field (its 9 bits) one that R69 and R70 accept in this block? The fields of a word whose opcode is reserved are
not examined (R107). Of a word that a management write patched, the block's other words are those of its record in the image,
also where pages have been written since; `fed` takes them so as well (DESIGN CHOICE, log 109). -/
def targetR70 (img : List Word) (b : Blk) (code : Nat) : Bool :=
  match Target.ofCode? code with
  | none => false
  | some t => match t with
    | .none => true
    | .write k => k.toNat < b.nwrites
    | .chan c => (chanFind img c.toNat).isSome
    | .left i => i.toNat < b.icount
    | .right i => i.toNat < b.icount &&
        (let w := insWord img b i.toNat
         !((gBuild (wordOp w)).isSome && bit w 27))
    | .pred i => i.toNat < b.icount &&
        (let w := insWord img b i.toNat
         !opKnown (wordOp w) || !(bits w 54 53 == 0) || wordOp w == 0x04E || wordOp w == 0x044)

/-- Is a target field one that R69, R70 and R120 accept in this block? R120 lets nothing name the right operand of an
instruction that has none. -/
def targetCodeOk (img : List Word) (b : Blk) (code : Nat) : Bool :=
  targetR70 img b code && match Target.ofCode? code with
    | some (.right i) =>
      let w := insWord img b i.toNat
      let op := wordOp w
      !(oneOperandOps.contains op || exitOps.contains op || (op == 0x1C1 && bits w 30 28 == 0))
    | _ => true

/-- Values of BAD_CODE that depend on the image (R126, R133, R156, R258). -/
def imageCodeOk (img : List Word) (i : Instr) (ts : List Target) : Bool :=
  match i with
  | .tagget w => w.value.toNat < imgNfields img || w.value == 7 || w.value == 8
  | .tagset w | .taginc w | .tagin w | .tagout w | .reorder w => w.value.toNat < imgNfields img
  | .widen w => imgScope img ≤ w.scope.code && ts.all fun t => match t with
    | .chan c => match chanFind img c.toNat with
      | some e => e.dscope ≤ w.scope.code
      | none => true
    | _ => true
  | .intsect w => (chanFind img (bits w.mods 8 3)).isSome
  | _ => true

/-- The channels strictly inside the range of a ROUTE are declared (R70, R127). -/
def routeOk (img : List Word) (i : Instr) : Bool :=
  match i with
  | .route w => match w.t0, w.t1 with
    | .chan lo, .chan hi =>
      (List.range (hi.toNat - lo.toNat)).all fun k => (chanFind img (lo.toNat + k)).isSome
    | _, _ => true
  | _ => true

/-- A word without its targets, and without the bits that step 3 of R107 looks at in WIDEN and INTSECT: what the checks of
step 2 look at. -/
def wordForCode (w : Word) : Word :=
  let v := w ||| BitVec.ofNat 64 (0x3FFFF * 2 ^ 35)
  if wordOp w == 0x153 then BitVec.ofNat 64 (v.toNat / 2 ^ 17 * 2 ^ 17)
  else if wordOp w == 0x18C then BitVec.ofNat 64 (v.toNat / 2 ^ 23 * 2 ^ 23 + v.toNat % 2 ^ 9)
  else v

/-- The checks of R107 on a word of a block: the instruction, or the result code of R97. -/
def wordCheck (img : List Word) (b : Blk) (w : Word) : Except Nat Instr :=
  let early := match decodeWord (wordForCode w) with
    | .ok i => imageCodeOk img i (wordTargets w)
    | .error _ => true
  match decodeWord w with
  | .error .badOpcode => .error 9
  | .error .badCode => .error 10
  | .error e => if early then .error e.code else .error 10
  | .ok i =>
    if !early then .error 10
    else if !(targetCodeOk img b (bits w 52 44) && targetCodeOk img b (bits w 43 35) && routeOk img i) then .error 12
    else .ok i

/-- Does a direct exit name no record start, or a record of another kind than its word says (R97 code 15)? -/
def directBad (img : List Word) (b : Blk) (w : Word) : Bool :=
  let op := wordOp w
  (op == 0x080 || op == 0x082 || op == 0x08C) &&
    match blkAtOff img ((b.off : Int) + 16 * sval 27 (bits w 26 0)) with
    | some t => (blkAt img t).kind != bits w 34 33
    | none => true

/-- Does an exit or ERET break code 15 (R97, R105, R130, R347)? -/
def exitBad (img : List Word) (b : Blk) (i : Nat) (w : Word) : Bool :=
  let op := wordOp w
  if op == 0x080 || op == 0x082 || op == 0x08C then directBad img b w
  else if op == 0x081 || op == 0x083 then !fed img b i .left
  else op == 0x1C4 && b.kind != 3

/-- Is it a COLLAPSE.smp whose right position is not fed (R277)? -/
def sampleBad (img : List Word) (b : Blk) (i : Nat) (w : Word) : Bool :=
  wordOp w == 0x1C1 && bits w 30 28 == 1 && !fed img b i .right

/-- A word as an element takes it at instruction `i`: one that CFGLOAD would refuse fails (R107, R108, R277), an exit of code 15
among them (DEDUCED, log 37). -/
def elemWord (img : List Word) (b : Blk) (i : Nat) (w : Word) : Except Nat Instr :=
  if sampleBad img b i w then .error 10 else if exitBad img b i w then .error 15 else wordCheck img b w

/-- Placement variant `v` (R88): quad count, panel rows and columns, the quad of each block. -/
def variantOff (img : List Word) (v : Nat) : Nat := imgPlaceoff img + v * ((8 + imgNblocks img + 7) / 8 * 8)
def variantQuads (img : List Word) (v : Nat) : Nat := imgByte img (variantOff img v)
def variantRows (img : List Word) (v : Nat) : Nat := imgByte img (variantOff img v + 1)
def variantCols (img : List Word) (v : Nat) : Nat := imgByte img (variantOff img v + 2)
def variantQuadOf (img : List Word) (v b : Nat) : Nat := imgByte img (variantOff img v + 8 + b)

/-- The variant of a quad count. -/
def variantOfCount (img : List Word) (n : Nat) : Option Nat :=
  (List.range (imgNvariants img)).find? fun v => variantQuads img v == n

/-- The lowest-numbered block that a variant assigns to a quad (R87). -/
def firstBlockOnQuad (img : List Word) (v q : Nat) : Option Nat :=
  (List.range (imgNblocks img)).find? fun b => variantQuadOf img v b == q

/-- The page that holds instructions 32p to 32p + 31 of a block (R41, R87). -/
def blockPage (img : List Word) (b p : Nat) : List Word :=
  let k := blkAt img b
  (List.range 32).map fun j => if 32 * p + j < k.icount then insWord img k (32 * p + j) else 0

end Sys2Proof.Machine
end

