-- ==== Sys2Proof/Machine/Memory.lean ====
section
/-! DEFINITION. Memory: the canonical list of bytes, the physical address map (R15, R215, R377, R379), FRAME
presence on window writes (R56), pool marks and FRAME allocation (R224), CACHE (R320, R321), the last-level cache marks
(R380, R381), translation (R138, R392) and the checks of R140. -/

namespace Sys2Proof.Machine

/-! ## Bytes -/

/-- One byte of memory. The list is sorted, so the search stops at the first larger address. -/
def Memory.get : Memory → Nat → Byte
  | [], _ => Config.unlistedByte
  | (a, b) :: m, k => if k < a then Config.unlistedByte else if k = a then b else Memory.get m k

/-- Write one byte, keeping the canonical form. -/
def Memory.put : Memory → Nat → Byte → Memory
  | [], k, v => if v = Config.unlistedByte then [] else [(k, v)]
  | (a, b) :: m, k, v =>
    if k < a then (if v = Config.unlistedByte then (a, b) :: m else (k, v) :: (a, b) :: m)
    else if k = a then (if v = Config.unlistedByte then m else (a, v) :: m)
    else (a, b) :: Memory.put m k v

/-- The canonical form above an address: rising addresses from `lo` on, no byte equal to what an unlisted one reads
as. -/
def Memory.wfFrom (lo : Nat) : Memory → Bool
  | [] => true
  | (a, b) :: m => decide (lo ≤ a) && decide (b ≠ Config.unlistedByte) && Memory.wfFrom (a + 1) m

/-- The canonical form. -/
def Memory.wf (m : Memory) : Bool := Memory.wfFrom 0 m

/-- Writes in list order, so the last write of an address stays. -/
def Memory.putAll (m : Memory) (l : List (Nat × Byte)) : Memory := l.foldl (fun m x => Memory.put m x.1 x.2) m

/-- Bytes from `lo` up to `hi` read as unlisted from now on. -/
def Memory.clear (m : Memory) (lo hi : Nat) : Memory := m.filter fun x => x.1 < lo || hi ≤ x.1

/-- `n` bytes from an address, lowest first. -/
def Memory.read (m : Memory) (a n : Nat) : List Byte := (List.range n).map fun k => Memory.get m (a + k)

/-- A number as `n` little-endian bytes (R2). -/
def natBytes (n x : Nat) : List Byte := (List.range n).map fun k => BitVec.ofNat 8 (x >>> (8 * k))

/-- Bytes placed at consecutive addresses. -/
def place (a : Nat) (bs : List Byte) : List (Nat × Byte) := bs.mapIdx fun k b => (a + k, b)

/-! ## The physical map -/

/-- Window base of a core and the physical address of a byte of its roles (R15, R215). -/
def windowBase (c : Nat) : Nat := 0x200000000000 + c * 0x4000000
def frameAddr (c a : Nat) : Nat := windowBase c + a
def padAddr (c a : Nat) : Nat := windowBase c + 0x800000 + a
def tileAddr (c a : Nat) : Nat := windowBase c + 0x1800000 + a

/-- The pool's roles with an address space (R214). -/
inductive Role where
  | frame | pad | tile
  deriving DecidableEq, Repr

/-- What a physical address names (R15, R215, R377, R379). -/
inductive Region where
  | hbm
  | cap
  | win (core : Nat) (r : Role) (off : Nat)
  | regs
  | hole
  deriving DecidableEq, Repr

def region (pa : Nat) : Region :=
  if pa < 0x9000000000 then .hbm
  else if 0x100000000000 ≤ pa ∧ pa < 0x110000000000 then .cap
  else if 0x200000000000 ≤ pa ∧ pa < 0x200000000000 + 72 * 0x4000000 then
    let o := (pa - 0x200000000000) % 0x4000000
    let c := (pa - 0x200000000000) / 0x4000000
    if o < 0x800000 then .win c .frame o
    else if o < 0x1800000 then .win c .pad (o - 0x800000)
    else .win c .tile (o - 0x1800000)
  else if 0x300000000000 ≤ pa ∧ pa < 0x400000000000 then .regs
  else .hole

/-- The die of a core (R7). -/
def dieOf (c : Nat) : Nat := if c < 20 then 0 else if c < 40 then 1 else if c < 56 then 2 else 3

/-- The local index of a core on its die (R7). -/
def localCore (c : Nat) : Nat := if c < 20 then c else if c < 40 then c - 20 else if c < 56 then c - 40 else c - 56

/-- The first HBM stack of a die (R11). -/
def firstStack (die : Nat) : Nat := if die = 0 then 0 else if die = 1 then 2 else if die = 2 then 4 else 8

/-- Stack and channel of a die-local pseudo-channel (R11). -/
def dieChannel (die p : Nat) : Nat × Nat := (firstStack die + p / 160, p % 160)

/-- The die-local pseudo-channels that a core owns (R12): the first, and how many. -/
def ownedRun (c : Nat) : Nat × Nat := if c < 40 then (16 * localCore c, 16) else (40 * localCore c, 40)

/-- Does a core own a pseudo-channel of a stack (R12)? -/
def ownsChannel (c stack chan : Nat) : Bool :=
  (List.range (ownedRun c).2).any fun j => dieChannel (dieOf c) ((ownedRun c).1 + j) == (stack, chan)

/-- The core that owns the pseudo-channel of an HBM byte (R12, R377). -/
def channelCore (stack chan : Nat) : Option Nat := (List.range 72).find? fun c => ownsChannel c stack chan

/-- Where an HBM address falls (R377): stack, pseudo-channel, frame within the stack. -/
def stackOf (pa : Nat) : Nat := pa / 0xC00000000
def frameOf (pa : Nat) : Nat := pa % 0xC00000000 / 0x10000
def chanOf (pa : Nat) : Nat := frameOf pa % 160
def localOf (pa : Nat) : Nat := frameOf pa / 160 * 0x10000 + pa % 0xC00000000 % 0x10000

/-- The die of an HBM stack (R11). -/
def dieOfStack (s : Nat) : Nat := if s < 2 then 0 else if s < 4 then 1 else if s < 8 then 2 else 3

/-- The compute die that holds a byte: its HBM stack's (R11) or its core's; none for the capacity tier. -/
def homeDie (pa : Nat) : Option Nat :=
  match region pa with
  | .hbm => some (dieOfStack (stackOf pa))
  | .win c _ _ => some (dieOf c)
  | _ => none

/-- The Swedin link between two dies, in the order of R9. -/
def linkNum (a b : Nat) : Option Nat :=
  match min a b, max a b with
  | 0, 2 => some 0
  | 0, 3 => some 1
  | 1, 2 => some 2
  | 1, 3 => some 3
  | 0, 1 => some 4
  | 2, 3 => some 5
  | _, _ => none

/-- Bytes behind CACHE: HBM and the capacity tier (R320). -/
def cacheable (pa : Nat) : Bool :=
  match region pa with
  | .hbm | .cap => true
  | _ => false

/-- Bytes of a bank (R212), and the banks, first bank and present size of a role (R212, R214). -/
def bankBytes : Nat := 0x40000
def Split.banks (p : Split) : Role → Nat
  | .frame => p.frame
  | .pad => p.pad
  | .tile => p.tile
def Split.first (p : Split) : Role → Nat
  | .frame => 0
  | .pad => p.frame
  | .tile => p.frame + p.pad
def Split.size (p : Split) (r : Role) : Nat := p.banks r * bankBytes

/-- The first bank of CACHE (R212). -/
def Split.cacheFirst (p : Split) : Nat := p.frame + p.pad + p.tile

/-- Where the pool holds a byte of a role: bank, line within the bank, byte of the line (R214); nowhere in a role of no
banks. -/
def Split.bankOf (p : Split) (r : Role) (a : Nat) : Option (Nat × Nat × Nat) :=
  let n := p.banks r
  if n = 0 then none else some (p.first r + a / 64 % n, a / 64 / n, a % 64)

/-! ## Accessors of the state -/

def State.core (s : State) (c : Nat) : Core := s.cores.getD c Core.reset
def State.setCore (s : State) (c : Nat) (k : Core) : State := { s with cores := s.cores.set c k }
def State.cx (s : State) (c x : Nat) : Ctx := (s.core c).cxs.getD x Ctx.reset
def State.setCx (s : State) (c x : Nat) (v : Ctx) : State :=
  s.setCore c { s.core c with cxs := (s.core c).cxs.set x v }
def State.elem (s : State) (c e : Nat) : Elem := (s.core c).elems.getD e Elem.reset
def State.setElem (s : State) (c e : Nat) (v : Elem) : State :=
  s.setCore c { s.core c with elems := (s.core c).elems.set e v }
def State.part (s : State) (p : Nat) : Part := s.parts.getD p Part.reset
def State.setPart (s : State) (p : Nat) (v : Part) : State := { s with parts := s.parts.set p v }

/-- The partition a core belongs to (R375). -/
def State.partOfCore (s : State) (c : Nat) : Option Nat := s.parts.findIdx? fun p => p.cores.toNat.testBit c

/-- Has the link between two dies failed (R396)? -/
def State.linkFailed (s : State) (a b : Nat) : Bool :=
  match linkNum a b with
  | some n => (s.links.getD n ⟨0, false⟩).failed
  | none => false

/-- Do some bytes lie beyond a failed link, seen from a core (R396)? Accesses to them stall. -/
def State.linkDown (s : State) (c : Nat) (pas : List Nat) : Bool :=
  s.links.any (·.failed) && pas.any fun pa => match homeDie pa with
    | some d => s.linkFailed (dieOf c) d
    | none => false

/-! ## Writes at the coherence point -/

/-- The slots of a context after a window write of FRAME byte `o` (R56). -/
def Ctx.windowWrite (v : Ctx) (slots : List SlotSt) (o : Nat) : List SlotSt :=
  let n := (o - v.fp) / 64
  let wide := decide (8 ≤ (o - v.fp) % 64)
  if v.fp ≤ o ∧ o < v.fp + 64 * v.slots.length ∧ !v.fifos.any (·.slot == n) then
    slots.modify n fun st =>
      { present := true, kind := .data, vec := if st.present then st.vec || wide else wide }
  else slots

/-- The FRAME bytes of core `c` among these addresses. -/
def frameBytes (c : Nat) (pas : List Nat) : List Nat :=
  pas.filterMap fun pa => match region pa with
    | .win d .frame o => if d = c then some o else none
    | _ => none

/-- The last write of an address in a list of writes. -/
def lastWrite (l : List (Nat × Byte)) (pa : Nat) : Option Byte := (l.reverse.find? (·.1 == pa)).map (·.2)

/-! ## The last-level cache (R6, R10, R380, R381): 64 slices of 24 MiB on four base dies -/

/-- Slice, set and base die of a capacity-tier line, by its number (physical address div 64). -/
def llcSlice (line : Nat) : Nat := (line - 0x4000000000) % 64
def llcSet (line : Nat) : Nat := (line - 0x4000000000) / 64 % 24576
def llcDie (line : Nat) : Nat := llcSlice line / 16

/-- Ways of a set, for data and again for zero tags. -/
def llcWays : Nat := 16

/-- Do two lines compete for a way: one slice, one set, both data or both zero tags? -/
def LLine.rival (a b : LLine) : Bool :=
  llcSlice a.line == llcSlice b.line && llcSet a.line == llcSet b.line && a.zero == b.zero

/-- A line enters the last-level cache in place of itself; a full set gives up the line of that kind held longest. DESIGN
CHOICE (log 10): the victim is not architectural. Its bytes are those of memory, so writing it back changes none. -/
def llcEnter (llc : List LLine) (l : LLine) : List LLine :=
  let rest := llc.filter (·.line != l.line)
  let set := rest.filter l.rival
  l :: (if set.length < llcWays then rest else match set.getLast? with
    | some v => rest.filter (·.line != v.line)
    | none => rest)

def State.llcFind (s : State) (line : Nat) : Option LLine := s.llc.find? (·.line == line)

/-- The lines that a write covers with zeros as a whole (R381). -/
def zeroLines (l : List (Nat × Byte)) : List Nat :=
  ((l.map (·.1 / 64)).eraseDups).filter fun n => (List.range 64).all fun k => lastWrite l (64 * n + k) == some 0

/-- The last-level cache holds the line of a capacity-tier write, dirty; a write that covers a whole line with zeros makes
a zero line, one of `zero`, and any other write moves the line into a data way (R381). -/
def llcWrite (zero : List Nat) (llc : List LLine) (line : Nat) : List LLine :=
  match region (64 * line) with
  | .cap => llcEnter llc ⟨line, zero.contains line, true⟩
  | _ => llc

/-- The last-level cache takes a capacity-tier line (R161, R380). -/
def State.llcTake (s : State) (pa : Nat) : State :=
  match region pa with
  | .cap => if (s.llcFind (pa / 64)).isSome then s else { s with llc := llcEnter s.llc ⟨pa / 64, false, false⟩ }
  | _ => s

/-- Is an address inside its role's present size? Addresses outside the windows are. -/
def State.inSize (s : State) (pa : Nat) : Bool :=
  match region pa with
  | .win c r o => decide (o < (s.core c).split.size r)
  | _ => true

/-- Is it a write that a running command makes, which nothing orders against another (R243)? -/
def Late.runs (l : Late) : Bool := l.job != 0

/-- What is left of a late write without the bytes that `p` picks. -/
def Late.without (l : Late) (p : Nat → Bool) : Option Late :=
  let rest := l.bytes.filter fun x => !p x.1
  if rest.isEmpty then none else some { l with bytes := rest }

/-- The late writes of a core after a write of some bytes: what a completed command wrote there comes before it in the
coherence order, and so never reaches the coherence point (R325). -/
def Core.overtaken (k : Core) (l : List (Nat × Byte)) : List Late :=
  k.late.filterMap fun w => if w.runs then some w else w.without fun pa => l.any (·.1 == pa)

/-- Writes performed at their coherence points, in list order (R320): the bytes, the presence of frame slots (R56), the
last-level cache, where `zero` are the lines that these bytes finish covering with zeros (R381). A write to a role byte that
lies beyond the present size is discarded (R219). What a release wrote is overwritten (R327), and a control core's
reservation of a byte written is gone (R322; log 102). -/
def State.store (s : State) (l : List (Nat × Byte)) (zero : List Nat := []) : State :=
  let l := l.filter fun x => s.inSize x.1
  let mem := Memory.putAll s.mem l
  let lines := ((l.filter fun x => 0x100000000000 ≤ x.1).map (·.1 / 64)).eraseDups
  let zero := if lines.isEmpty then []
    else zeroLines l ++ zero.filter fun n => (Memory.read mem (64 * n) 64).all (· == 0)
  { s with
    mem,
    rels := s.rels.filter fun r => !l.any (·.1 == r.1),
    ccResv := s.ccResv.map fun r => r.filter fun r => !l.any fun x => r.1 ≤ x.1 && x.1 < r.1 + r.2,
    cores := s.cores.mapIdx fun c k =>
      { k with
        late := k.overtaken l,
        cxs := k.cxs.map fun v => { v with slots := (frameBytes c (l.map (·.1))).foldl v.windowWrite v.slots } },
    llc := lines.foldl (llcWrite zero) s.llc }

/-- The PAD lines of core `c` that hold one of these bytes. -/
def padLines (c : Nat) (pas : List Nat) : List Nat :=
  pas.filterMap fun pa => match region pa with
    | .win d .pad o => if d = c then some (o / 64) else none
    | _ => none

/-- The TILE lines of core `c` that hold one of these bytes. -/
def tileLinesOf (c : Nat) (pas : List Nat) : List Nat :=
  pas.filterMap fun pa => match region pa with
    | .win d .tile o => if d = c then some (o / 64) else none
    | _ => none

/-- The marks with those of more lines. -/
def addMarks (marks lines : List Nat) : List Nat :=
  lines.foldl (fun l x => if l.contains x then l else x :: l) marks

/-- Marks of PAD and TILE lines that a checked write makes (R224). -/
def State.markLines (s : State) (pas : List Nat) : State :=
  { s with
    cores := s.cores.mapIdx fun c k =>
      { k with padMarks := addMarks k.padMarks (padLines c pas), tileMarks := addMarks k.tileMarks (tileLinesOf c pas) } }

/-! ## FRAME allocation (R62, R224) -/

/-- Everything allocated in FRAME: base and size of frames, channel FIFOs and overflow entries. -/
def Core.frameAllocs (k : Core) : List (Nat × Nat) :=
  k.cxs.flatMap (fun v => (if v.slots.isEmpty then [] else [(v.fp, 64 * v.slots.length)]) ++
    v.fifos.map (fun q => (q.base, 64 * q.depth))) ++
  k.elems.flatMap (fun e => e.ovf.flatMap fun t => match t.base with
    | some b => [(b.1, 64), (b.2, 64)]
    | none => [])

/-- `pool.flive` and `pool.fhw`, which is frame_extent (R224). -/
def Core.frameLive (k : Core) : Nat := (k.frameAllocs.map (·.2)).sum
def Core.frameExtent (k : Core) : Nat := (k.frameAllocs.map fun a => a.1 + a.2).foldl max 0

def spanFree (al : List (Nat × Nat)) (base size : Nat) : Bool := al.all fun a => base + size ≤ a.1 || a.1 + a.2 ≤ base

/-- The lowest free place for `size` bytes. DESIGN CHOICE (log 9): the spec does not say which free lines are taken. -/
def Core.frameFit (k : Core) (extra : List (Nat × Nat)) (size : Nat) : Option Nat :=
  let al := k.frameAllocs ++ extra
  let cands := (0 :: al.map fun a => (a.1 + a.2 + 63) / 64 * 64).filter fun b =>
    spanFree al b size && b + size ≤ k.split.size .frame
  cands.foldl (fun m b => match m with
    | none => some b
    | some x => some (min x b)) none

/-- The two lines of a new entry of an overflow area, which need not be neighbours (R62). -/
def Core.ovfLines (k : Core) : Option (Nat × Nat) :=
  (k.frameFit [] 64).bind fun a => (k.frameFit [(a, 64)] 64).map fun b => (a, b)

/-! ## CACHE (R320, R321, R161) -/

def Core.findLine (k : Core) (line : Nat) : Option CLine := k.cache.find? (·.line == line)

/-- Dirty bytes of a line, as writes. -/
def CLine.dirtyBytes (l : CLine) : List (Nat × Byte) :=
  (List.range 64).filterMap fun k => if bit l.dirty k then some (64 * l.line + k, l.bytes.getD k 0) else none

/-- Write back the dirty bytes of the lines that `p` picks; they stay held, clean. -/
def State.writeBack (s : State) (c : Nat) (p : CLine → Bool) : State :=
  let out := ((s.core c).cache.filter p).flatMap CLine.dirtyBytes
  let s := s.store out
  let k := s.core c
  s.setCore c { k with cache := k.cache.map fun l => if p l then { l with dirty := 0 } else l }

/-- Drop the lines that `p` picks. -/
def State.dropLines (s : State) (c : Nat) (p : CLine → Bool) : State :=
  let k := s.core c
  s.setCore c { k with cache := k.cache.filter fun l => !p l }

/-- The release part of R320: every dirty byte is written back. -/
def State.cacheRelease (s : State) (c : Nat) : State := s.writeBack c fun _ => true
/-- The acquire part of R320: write back, then invalidate. -/
def State.cacheAcquire (s : State) (c : Nat) : State := (s.cacheRelease c).dropLines c fun _ => true

/-- A scope of DIE or wider (R320). -/
def wideScope (code : Nat) : Bool := 2 ≤ code

/-- Give up one line (an eviction, R320): dirty bytes reach memory. -/
def State.evictLine (s : State) (c line : Nat) : State :=
  (s.writeBack c (·.line == line)).dropLines c (·.line == line)

/-- Sets of the CACHE role: 16 ways of 64 bytes (R214). -/
def Split.cacheSets (p : Split) : Nat := p.cache * 4096 / 16

/-- The set of a line. The spec says only that the mapping depends on nC and the first bank (R214): a free value. -/
def Split.cacheSet (p : Split) (line : Nat) : Nat := Config.cacheSet p.cache p.cacheFirst line % p.cacheSets

/-- The lines that CACHE holds in the set of a line. -/
def Core.setLines (k : Core) (line : Nat) : List CLine :=
  k.cache.filter fun l => k.split.cacheSet l.line == k.split.cacheSet line

/-- May a held line be given up: it is not resident, or every line of its set is (R161)? -/
def Core.mayEvict (k : Core) (line : Nat) : Bool :=
  let set := k.setLines line
  !(set.any fun l => l.line == line && l.resident) || (16 ≤ set.length && set.all (·.resident))

/-- Do dirty bytes of a core's CACHE lie beyond a failed link (R396)? Their write-back stalls. -/
def State.dirtyStalls (s : State) (c : Nat) : Bool :=
  s.links.any (·.failed) && s.linkDown c ((s.core c).cache.flatMap fun l => l.dirtyBytes.map (·.1))

/-- Is a line clean, or its home within reach (R396)? -/
def State.lineMovable (s : State) (c : Nat) (l : CLine) : Bool := l.dirty == 0 || !s.linkDown c [64 * l.line]

/-- The move `evict`: a held line that may be given up is, when its dirty bytes can be written back (R161, R320, R396). -/
def State.evictHeld (s : State) (c line : Nat) : State :=
  match (s.core c).findLine line with
  | some l => if (s.core c).mayEvict line && s.lineMovable c l then s.evictLine c line else s
  | none => s

/-- Room for one more line: in a full set the line held longest that may go and can be written back. DESIGN CHOICE
(log 10): the spec leaves the victim open. -/
def State.cacheRoom (s : State) (c line : Nat) : State :=
  let k := s.core c
  let set := k.setLines line
  if set.length < 16 then s
  else match set.reverse.find? fun l => k.mayEvict l.line && s.lineMovable c l with
    | some l => s.evictLine c l.line
    | none => s

/-- Is a late write of core `o` seen at once by core `c` (R315)? -/
def Late.seenBy (l : Late) (o c : Nat) : Bool :=
  match l.reach with
  | 1 => o == c
  | 2 => dieOf o == dieOf c
  | _ => false

/-- The latest late write of a byte that a core sees as made. -/
def State.lateByte (s : State) (c pa : Nat) : Option Byte :=
  ((s.cores.mapIdx fun o k => (o, k)).filter fun e => !e.2.late.isEmpty).foldl (fun m e =>
    m.or (lastWrite ((e.2.late.filter fun l => l.seenBy e.1 c).flatMap (·.bytes)) pa)) none

/-- What a core sees of a byte at its coherence point: a late write of its scope stands for what reaches it later (R315). -/
def State.pointByte (s : State) (c pa : Nat) : Byte := (s.lateByte c pa).getD (Memory.get s.mem pa)

/-- Does a read of a byte at its coherence point meet an uncorrectable error (R140, R384)? Not when the last-level cache
holds the line, since no memory is read then (R381). -/
def State.isBad (s : State) (pa : Nat) : Bool := s.bad.contains (pa / 64) && (s.llcFind (pa / 64)).isNone

/-- Allocate a line, its bytes read at the coherence point (R320); nothing when CACHE has no banks, when memory does not give
the line's bytes (R384), or when no way of the set is free because the write-backs that would free one stall (R396). -/
def State.cacheFill (s : State) (c line : Nat) : State :=
  let k := s.core c
  if k.split.cache = 0 || (k.findLine line).isSome || s.isBad (64 * line) then s
  else
    let s := s.cacheRoom c line
    let k := s.core c
    if 16 ≤ (k.setLines line).length then s
    else
      let l : CLine := ⟨line, (List.range 64).map fun j => s.pointByte c (64 * line + j), 0, false,
        s.rels.filter fun r => r.1 / 64 == line⟩
      let cache := l :: k.cache
      s.setCore c { k with cache, cacheHw := max k.cacheHw (64 * cache.length) }

/-- What a load of core `c` reads: the CACHE line where one is held, else the coherence point (R320). -/
def State.readCached (s : State) (c pa : Nat) : Byte :=
  if cacheable pa then
    match (s.core c).findLine (pa / 64) with
    | some l => l.bytes.getD (pa % 64) 0
    | none => s.pointByte c pa
  else Memory.get s.mem pa

/-- What an island of core `c` reads: a dirty byte of its CACHE, else the coherence point (R321). -/
def State.readIsland (s : State) (c pa : Nat) : Byte :=
  if cacheable pa then
    match (s.core c).findLine (pa / 64) with
    | some l => if bit l.dirty (pa % 64) then l.bytes.getD (pa % 64) 0 else s.pointByte c pa
    | none => s.pointByte c pa
  else Memory.get s.mem pa

/-- One byte written into a line that CACHE holds: held dirty, or written through, after which it is dirty no more. -/
def CLine.put (ln : CLine) (x : Nat × Byte) (dirty : Bool) : CLine :=
  if x.1 / 64 = ln.line then
    let m : Word := BitVec.ofNat 64 (2 ^ (x.1 % 64))
    { ln with bytes := ln.bytes.set (x.1 % 64) x.2, dirty := if dirty then ln.dirty ||| m else ln.dirty &&& ~~~m,
              rels := ln.rels.filter (·.1 != x.1) }
  else ln

/-- Put bytes into the lines that CACHE holds, dirty or written through. -/
def State.cachePut (s : State) (c : Nat) (l : List (Nat × Byte)) (dirty : Bool) : State :=
  let k := s.core c
  let hit := l.filter fun x => cacheable x.1 && (k.findLine (x.1 / 64)).isSome
  if hit.isEmpty then s
  else
    let cache := k.cache.map fun ln => hit.foldl (fun ln x => CLine.put ln x dirty) ln
    s.setCore c { k with cache }

/-- A write by an island of core `c`: at the coherence point, and into a line that CACHE holds (R321). -/
def State.storeIsland (s : State) (c : Nat) (l : List (Nat × Byte)) (zero : List Nat := []) : State :=
  (s.store l zero).cachePut c l false

/-- The bytes of a late write of core `c` that `p` picks reach their coherence point (R321). The write is no longer among the
late ones. -/
def State.lateOut (s : State) (c : Nat) (l : Late) (p : Nat → Bool) : State :=
  s.storeIsland c (l.bytes.filter fun x => p x.1) (l.zero.filter fun n => l.bytes.all fun x => x.1 / 64 != n || p x.1)

/-- Some bytes of the `n`-th late write of core `c` reach their coherence point: those that `p` picks. -/
def State.lateWrite (s : State) (c n : Nat) (p : Nat → Bool) : State :=
  let k := s.core c
  match k.late[n]? with
  | none => s
  | some l =>
    let late := match l.without p with
      | some r => k.late.set n r
      | none => k.late.eraseIdx n
    (s.setCore c { k with late }).lateOut c l p

/-- The writes of completed commands that touch some bytes reach memory there before another access to them does (R325). -/
def State.settleBytes (s : State) (pas : List Nat) : State :=
  (List.range s.cores.length).foldl (fun s c =>
    let k := s.core c
    let hit := k.late.filter fun l => !l.runs && l.bytes.any fun x => pas.contains x.1
    if hit.isEmpty then s
    else
      let late := k.late.filterMap fun l => if l.runs then some l else l.without pas.contains
      hit.foldl (fun s l => s.lateOut c l pas.contains) (s.setCore c { k with late })) s

/-- A committed store of core `c` at a scope (R320): CTX and CORE stores of cacheable bytes are held dirty when CACHE
has banks; DIE and wider update a held line and are written through. -/
def State.storeStrand (s : State) (c scope : Nat) (l : List (Nat × Byte)) (zero : List Nat := []) : State :=
  if wideScope scope || (s.core c).split.cache = 0 then s.storeIsland c l zero
  else
    let s := (s.settleBytes (l.map (·.1))).store (l.filter fun x => !cacheable x.1)
    l.foldl (fun s x =>
      if !cacheable x.1 then s
      else
        let s := s.cacheFill c (x.1 / 64)
        if ((s.core c).findLine (x.1 / 64)).isSome then s.cachePut c [x] true else s.store [x]) s

/-- Before an atomic: its line's dirty bytes are written back and the line is invalidated (R320). -/
def State.cacheForAtomic (s : State) (c : Nat) (pas : List Nat) : State :=
  pas.foldl (fun s pa => s.evictLine c (pa / 64)) s

/-! ## Translation -/

/-- The levels of R392: the lowest index bit, the number of index bits, whether a leaf is allowed. -/
def walkLevels : List (Nat × Nat × Bool) := [(39, 9, false), (30, 9, true), (21, 9, true), (16, 5, true)]

/-- How a translation fails. -/
inductive XErr where
  | notPresent
  | memError (pa : Nat)
  deriving DecidableEq, Repr

/-- Does a load of a core read a byte in memory: none of its CACHE lines holds it (R320)? -/
def State.readsMemory (s : State) (c pa : Nat) : Bool := !(cacheable pa && ((s.core c).findLine (pa / 64)).isSome)

/-- The bytes of a load that fail with an uncorrectable error. -/
def State.badByte (s : State) (c : Nat) (pas : List Nat) : Option Nat :=
  pas.find? fun pa => s.isBad pa && s.readsMemory c pa

/-- Does a read of a byte by an island of core `c` meet an uncorrectable error: one at its coherence point, when no dirty byte
of the core's CACHE stands for it (R321, R384)? -/
def State.badIsland (s : State) (c pa : Nat) : Bool :=
  s.isBad pa && !(cacheable pa && ((s.core c).findLine (pa / 64)).any fun l => bit l.dirty (pa % 64))

/-- The walk of R392 from one table on. -/
def State.walk (s : State) (va table : Nat) : List (Nat × Nat × Bool) → Except XErr TlbE
  | [] => .error .notPresent
  | (lo, n, leafOk) :: rest =>
    let ea := table + 8 * ((va >>> lo) % 2 ^ n)
    if s.isBad ea then .error (.memError ea)
    else
      let e := bytesToNat (Memory.read s.mem ea 8)
      let base := (e >>> 8) % 2 ^ 44 * 256
      let leaf := e.testBit 1
      let reserved := (e >>> 52) != 0 || (e >>> 3) % 32 != 0 || (!leaf && e.testBit 2)
      if !e.testBit 0 || reserved then .error .notPresent
      else if leaf then
        if !leafOk || base % 2 ^ lo != 0 then .error .notPresent
        else .ok ⟨va / 2 ^ lo * 2 ^ lo, 2 ^ lo, base, e.testBit 2⟩
      else s.walk va base rest

/-- The translation of a virtual address at a core: the translation cache, else the walk (R138, R392). -/
def State.lookup (s : State) (c va : Nat) : Except XErr TlbE :=
  match (s.core c).tlb.find? fun e => e.vbase ≤ va && va < e.vbase + e.size with
  | some e => .ok e
  | none =>
    if va >>> 48 != 0 then .error .notPresent
    else match s.partOfCore c with
      | none => .error .notPresent
      | some p => s.walk va (s.part p).ttb walkLevels

/-- Does an address miss the translation cache, so that the tables are walked (R392)? -/
def State.walks (s : State) (c va : Nat) : Bool :=
  !((s.core c).tlb.any fun e => e.vbase ≤ va && va < e.vbase + e.size) && va >>> 48 == 0 && (s.partOfCore c).isSome

/-- Translate these addresses: each one that misses is walked, whatever the walk finds, as an acquire at PKG (R392), which
acts on CACHE (R320); a translation enters the translation cache of 2,048 entries. The oldest of a full one goes (DESIGN
CHOICE, log 104), and is remembered until a shootdown of its page, since accesses may have been checked under it (R391). -/
def State.fillTlb (s : State) (c : Nat) (vas : List Nat) : State :=
  vas.foldl (fun s va =>
    if !s.walks c va then s
    else
      let s := s.cacheAcquire c
      match s.lookup c va with
      | .ok e =>
        let k := s.core c
        s.setCore c { k with tlb := e :: k.tlb.take 2047, spent := (k.tlb.drop 2047 ++ k.spent).eraseDups }
      | .error _ => s) s

/-- The table entries that a walk from one table on reads. -/
def State.walkReads (s : State) (va table : Nat) : List (Nat × Nat × Bool) → List Nat
  | [] => []
  | (lo, n, leafOk) :: rest =>
    let ea := table + 8 * ((va >>> lo) % 2 ^ n)
    let e := bytesToNat (Memory.read s.mem ea 8)
    ea :: if e.testBit 0 && !e.testBit 1 && !(leafOk && rest.isEmpty) then s.walkReads va ((e >>> 8) % 2 ^ 44 * 256) rest
      else []

/-- Would the translation of some address stall: its walk reads a table, or writes CACHE back, across a failed link
(R396)? -/
def State.walkStalls (s : State) (c : Nat) (vas : List Nat) : Bool :=
  s.links.any (·.failed) && match s.partOfCore c with
    | none => false
    | some p => vas.any fun va =>
      s.walks c va && (s.dirtyStalls c || s.linkDown c (s.walkReads va (s.part p).ttb walkLevels))

/-- Is a physical address inside a partition, and inside the map (R140, R215, R375)? -/
def State.owned (s : State) (p pa : Nat) : Bool :=
  match region pa with
  | .hbm | .cap => (s.part p).ranges.any fun r => r.1 ≤ pa && pa < r.1 + r.2
  | .win c r o => (s.part p).cores.toNat.testBit c && decide (o < (s.core c).split.size r)
  | _ => false

def State.ownedBy (s : State) (c pa : Nat) : Bool :=
  match s.partOfCore c with
  | some p => s.owned p pa
  | none => false

/-! ## The checks of R140 -/

/-- A failed check: the code of R140 and the address that the record holds (R339). -/
structure AccErr where
  code : Nat
  addr : Nat
  deriving DecidableEq, Repr

/-- What an access does: a `load` may read CACHE, an `island` read only its dirty bytes (R321); a `probe` is a read that is
checked now and made later, so that it meets no data error yet. -/
inductive AKind where
  | load | island | store | atomic | probe
  deriving DecidableEq, Repr

def AKind.writes : AKind → Bool
  | .load | .island | .probe => false
  | .store | .atomic => true

/-- The violation-log source of R357. -/
def AKind.source : AKind → Nat
  | .load | .island | .probe => 0
  | .store => 1
  | .atomic => 2

/-- Does an access that reads a byte meet an uncorrectable error (R140, R384)? -/
def State.failsAt (s : State) (c : Nat) (k : AKind) (pa : Nat) : Bool :=
  match k with
  | .store | .probe => false
  | .load => s.isBad pa && s.readsMemory c pa
  | .island => s.badIsland c pa
  | .atomic => s.isBad pa

/-- The two physical checks: VIOLATION, then MEM_ERROR for what is read. -/
def State.checkPhys (s : State) (c : Nat) (k : AKind) (pas : List Nat) : Except AccErr (List Nat) :=
  match pas.find? fun pa => !s.ownedBy c pa with
  | some pa => .error ⟨6, pa⟩
  | none => match pas.find? (s.failsAt c k) with
    | some pa => .error ⟨7, pa⟩
    | none => .ok pas

/-- Checks 4 to 7 of a span of virtual addresses; each names the lowest byte that fails it (R139). -/
def State.checkVirt (s : State) (c : Nat) (k : AKind) (vas : List Nat) : Except AccErr (List Nat) :=
  let tr := vas.map fun va => (va, s.lookup c va)
  match tr.find? fun t => match t.2 with
    | .error .notPresent => true
    | _ => false with
  | some t => .error ⟨4, t.1⟩
  | none =>
    match (if k.writes then tr.find? (fun t => match t.2 with
      | .ok e => !e.w
      | .error _ => false) else none) with
    | some t => .error ⟨5, t.1⟩
    | none =>
      let pas := tr.filterMap fun t => match t.2 with
        | .ok e => some (e.pbase + (t.1 - e.vbase))
        | .error _ => none
      match pas.find? fun pa => !s.ownedBy c pa with
      | some pa => .error ⟨6, pa⟩
      | none => match tr.findSome? fun t => match t.2 with
          | .error (.memError pa) => some pa
          | .error .notPresent => none
          | .ok e =>
            let pa := e.pbase + (t.1 - e.vbase)
            if s.failsAt c k pa then some pa else none with
        | some pa => .error ⟨7, pa⟩
        | none => .ok pas

/-- Is an address a physical-address token (R138)? The operand's bits 63:62 say so, not those of a sum (see `effAddr`). -/
def isPaToken (a : Nat) : Bool := a >>> 62 == 3

/-- Effective address (R139). A virtual address whose sum has bits 63:62 = 0b11 stays virtual, because the operand decides
(R138): 2^64 is added to it to say so. -/
def effAddr (a : Nat) (off : Int) : Nat :=
  if isPaToken a then a / 2 ^ 52 * 2 ^ 52 + wrap 52 (a % 2 ^ 52 + off)
  else
    let x := wrap 64 (a + off)
    if isPaToken x then x + 2 ^ 64 else x

/-- All checks of R140 on a span of `n` bytes from `ea`, aligned to `al`. A PROTECTION through a token without write
permission names the token, whose page has no virtual address here (DESIGN CHOICE, log 105). -/
def State.check (s : State) (c : Nat) (k : AKind) (ea n al : Nat) : Except AccErr (List Nat) :=
  if ea % al ≠ 0 then .error ⟨1, ea % 2 ^ 64⟩
  else if isPaToken ea then
    let pas := (List.range n).map fun j => (ea + j) % 2 ^ 52
    if (ea >>> 54) % 256 ≠ (s.core c).xgen.toNat then .error ⟨3, ea % 2 ^ 52⟩
    else if k.writes && !ea.testBit 53 then .error ⟨5, ea⟩
    else s.checkPhys c k pas
  else s.checkVirt c k ((List.range n).map fun j => (ea + j) % 2 ^ 64)

/-- The checks of LDS and STS: alignment and PAD_RANGE (R139, R140). -/
def State.checkPad (s : State) (c : Nat) (ea n al : Nat) : Except AccErr (List Nat) :=
  if ea % al ≠ 0 then .error ⟨1, ea % 2 ^ 64⟩
  else
    let sz := (s.core c).split.size .pad
    match (List.range n).find? fun j => sz ≤ (ea + j) % 2 ^ 64 with
    | some j => .error ⟨2, (ea + j) % 2 ^ 64⟩
    | none => .ok ((List.range n).map fun j => padAddr c (ea + j))

/-- The virtual addresses whose translations a check uses. -/
def touched (ea n : Nat) : List Nat :=
  if isPaToken ea then [] else (List.range n).map fun j => (ea + j) % 2 ^ 64

/-- The same for an access that must be aligned to `al`: a misaligned one is not translated (R140). -/
def vasIf (ea al n : Nat) : List Nat := if ea % al ≠ 0 then [] else touched ea n

/-! ## Uncorrectable errors (R384, R386) -/

def State.mc (s : State) (st : Nat) : MemCtl := s.mcs.getD st MemCtl.reset
def State.setMc (s : State) (st : Nat) (v : MemCtl) : State := { s with mcs := s.mcs.set st v }

/-- A frame becomes due for retirement; it is not entered twice, nor while 64 are held (R384, R386). -/
def MemCtl.addDue (v : MemCtl) (frame cause : Nat) : MemCtl :=
  if 64 ≤ v.due.length || v.due.any (·.frame == frame) then v
  else { v with due := v.due ++ [⟨frame, frame % 160, cause⟩] }

/-- An access meets an uncorrectable error at an HBM byte: it is counted, and the frame is due at once (R384). -/
def State.noteUe (s : State) (pa : Nat) : State :=
  match region pa with
  | .hbm =>
    let v := s.mc (stackOf pa)
    s.setMc (stackOf pa) ({ v with uecnt := v.uecnt + 1 }.addDue (frameOf pa) 2)
  | _ => s

/-- A new entry of a partition's violation log (R357): a ring of 64. -/
def State.logViolation (s : State) (p : Nat) (e : VEnt) : State :=
  let v := s.part p
  let n := v.vcount + 1
  let i := if v.vlog.isEmpty then 0 else (v.vlogIdx + 1) % 64
  let e := { e with count := n.toNat }
  s.setPart p { v with vcount := n, vlogIdx := i,
                       vlog := if i < v.vlog.length then v.vlog.set i e else v.vlog ++ [e] }

end Sys2Proof.Machine
end

