-- ==== Sys2Proof/Machine/Ops.lean ====
section
/-! DEFINITION. The operations that the meanings share: tokens and their kinds (R26-R30), emission (R68-R70), strands
and the window (R50), completion tags (R167), fault records (R339-R341), the outcome of a failed access (R141), squash
and trap, which is how this machine takes an exception (R49, R344-R346), the return from one (R347), the end of a
context (R132). -/

namespace Sys2Proof.Machine

abbrev Out := Host.Outcome State Fault Refusal

/-! ## Values and kinds -/

/-- The scalar reading of a value (R27): a vector gives its bits 63:0. -/
def Val.scalar : Val → Word
  | .sc x => x
  | .vec v => BitVec.ofNat 64 v.toNat

/-- The 512 bits of a value; a scalar reads as zero above bit 63. -/
def Val.wide : Val → Nat
  | .sc x => x.toNat
  | .vec v => v.toNat

def Val.isVec : Val → Bool
  | .sc _ => false
  | .vec _ => true

/-- Lane `i` of `w` bits (R27): a scalar gives its low bits in every lane. -/
def Val.lane (v : Val) (w i : Nat) : Nat :=
  match v with
  | .sc x => x.toNat % 2 ^ w
  | .vec y => (y.toNat >>> (w * i)) % 2 ^ w

/-- A vector from its lanes, lane 0 lowest (R27). -/
def lanesNat (w : Nat) : List Nat → Nat
  | [] => 0
  | x :: xs => x % 2 ^ w + 2 ^ w * lanesNat w xs
def vecOf (w : Nat) (xs : List Nat) : Vec := BitVec.ofNat 512 (lanesNat w xs)

/-- A scalar value from a number. -/
def scNat (n : Nat) : Val := .sc (BitVec.ofNat 64 n)

def Kind.isFault : Kind → Bool
  | .fault => true
  | _ => false


def b2n (b : Bool) : Nat := if b then 1 else 0

/-- Code of a kind wherever it is stored (R26). -/
def Kind.code : Kind → Nat
  | .data => 0
  | .null => 1
  | .stop j => 2 + j.val
  | .chaff => 6
  | .fault => 7

def Kind.ofCode : Nat → Kind
  | 0 => .data | 1 => .null | 2 => .stop 0 | 3 => .stop 1 | 4 => .stop 2 | 5 => .stop 3 | 6 => .chaff | _ => .fault

/-- The FAULT in the lowest slot (R28). -/
def lowestFault : List (Option Tok) → Option Val
  | [] => none
  | some t :: ts => if t.kind.isFault then some t.val else lowestFault ts
  | none :: ts => lowestFault ts

/-- The STOP of the highest level, the left one on equal levels (R28). -/
def highestStop : List (Option Tok) → Option (Fin 4 × Val)
  | [] => none
  | some ⟨_, .stop j, v⟩ :: ts =>
    match highestStop ts with
    | some (k, u) => if j < k then some (k, u) else some (j, v)
    | none => some (j, v)
  | _ :: ts => highestStop ts

def hasKind (k : Kind) (ts : List (Option Tok)) : Bool := ts.any fun t => match t with
  | some t => t.kind == k
  | none => false

/-- The kind rule of R28: `none` when the operands are DATA only, else the kind and value of the result. -/
def combine (ts : List (Option Tok)) : Option (Kind × Val) :=
  match lowestFault ts with
  | some v => some (.fault, v)
  | none =>
    if hasKind .chaff ts then some (.chaff, .sc 0)
    else match highestStop ts with
      | some (j, v) => some (.stop j, v)
      | none => if hasKind .null ts then some (.null, .sc 0) else none

/-- The truth of a token at a predicate position (R116). -/
def truth (t : Tok) : Bool := t.kind == .data && t.val.scalar != 0

/-- What the predicate lets an instruction do (R29): fire, absorb its operands, or emit a kind in their place. -/
inductive Gate where
  | fire
  | absorb
  | emit (k : Kind) (v : Val)
  deriving DecidableEq, Repr

def gate (pm : PMode) (f : Firing) : Gate :=
  match pm, f.p with
  | .always, _ => .fire
  | _, none => .fire
  | m, some p => match p.kind with
    | .fault => .emit .fault ((lowestFault [f.l, f.r, some p]).getD p.val)
    | .chaff => match lowestFault [f.l, f.r] with
      | some v => .emit .fault v
      | none => .emit .chaff (.sc 0)
    | _ => if truth p == (m == .onTrue) then .fire else .absorb

/-- What a firing comes to under R28 and R29: the entry's own effect, nothing, or a kind emitted in its place. -/
inductive Plan where
  | run
  | absorb
  | emit (k : Kind) (v : Val)
  deriving DecidableEq, Repr

/-- R29, then R28 over the operands that the instruction reads. -/
def plan (pm : PMode) (f : Firing) (operands : List (Option Tok)) : Plan :=
  match gate pm f with
  | .absorb => .absorb
  | .emit k v => .emit k v
  | .fire => match combine operands with
    | some (k, v) => .emit k v
    | none => .run

/-! ## Where things are -/

/-- The quad of an element, and the element at a position of a quad (R40). -/
def quadOf (e : Nat) : Nat := 4 * (e / 8 / 2) + e % 8 / 2
def elemAt (quad pos : Nat) : Nat := 8 * (2 * (quad / 4) + pos / 2) + 2 * (quad % 4) + pos % 2
/-- The position of an element within its quad (R40). -/
def posOf (e : Nat) : Nat := 2 * (e / 8 % 2) + e % 8 % 2

/-- The selvage port of an element (R137). -/
def portOf (e : Nat) : Nat := 4 * (e / 8) + e % 8 / 2

/-- The core quad of a panel's quad `q`, numbered in row-major order within the panel (R88). -/
def Panel.quad (p : Panel) (q : Nat) : Nat :=
  if p.cols = 0 then 0 else 4 * (p.row + q / p.cols) + (p.col + q % p.cols)

/-- The quad that holds a block (R44). -/
def Ctx.quadOfBlock (v : Ctx) (b : Nat) : Nat :=
  match v.panel with
  | some p => p.quad (variantQuadOf v.lau.image p.variant b)
  | none => 0

/-- The in-flight instances of the strand or of the handler strand, oldest first. -/
def Ctx.strand (v : Ctx) (hdl : Bool) : List Inst := if hdl then v.hInsts else v.insts
def Ctx.setStrand (v : Ctx) (hdl : Bool) (l : List Inst) : Ctx :=
  if hdl then { v with hInsts := l } else { v with insts := l }

def Ctx.inst (v : Ctx) (hdl : Bool) (seq : Nat) : Option Inst := (v.strand hdl).find? (·.seq == seq)

def State.modInst (s : State) (c x : Nat) (hdl : Bool) (seq : Nat) (g : Inst → Inst) : State :=
  let v := s.cx c x
  s.setCx c x (v.setStrand hdl ((v.strand hdl).map fun i => if i.seq == seq then g i else i))

/-- The firing's own instance, while it is in flight. -/
def State.instOf (s : State) (f : Firing) : Option Inst := (s.cx f.core f.ctx).inst f.hdl f.seq
def State.modOwn (s : State) (f : Firing) (g : Inst → Inst) : State := s.modInst f.core f.ctx f.hdl f.seq g

/-- Instances of the strand older than the firing's (R136). -/
def State.older (s : State) (f : Firing) : List Inst :=
  ((s.cx f.core f.ctx).strand f.hdl).filter fun i => i.seq < f.seq

/-- Has every older instance of the strand committed? -/
def State.oldest (s : State) (f : Firing) : Bool := (s.older f).isEmpty

/-! ## Fault records -/

/-- The record that a number names (R340). -/
def State.record (s : State) (c x num : Nat) : Option FRec :=
  if 0x8000 ≤ num then ((s.cx c x).recTab.find? (·.1 == num - 0x8000)).map (·.2)
  else ((s.core c).rbuf.find? fun r => r.port == num / 32 && r.slot == num % 32 && r.ctx == x).map (·.fr)

/-- Release a record; a fault register that names it is cleared, but for a REPAIR record (R340, R341). -/
def State.releaseRec (s : State) (c x num : Nat) : State :=
  let k := s.core c
  let fregs := k.fregs.filter fun g => !(g.ctx == x && g.num == num && !g.fr.repair)
  let k := { k with fregs }
  let s := s.setCore c (if 0x8000 ≤ num then k
    else { k with rbuf := k.rbuf.filter fun r => !(r.port == num / 32 && r.slot == num % 32 && r.ctx == x) })
  if 0x8000 ≤ num then
    let v := s.cx c x
    s.setCx c x { v with recTab := v.recTab.filter (·.1 != num - 0x8000) }
  else s

/-- Numbers of the records of one instance. -/
def State.recsOf (s : State) (c x : Nat) (hdl : Bool) (seq : Nat) : List (Nat × FRec) :=
  (((s.core c).rbuf.filter fun r => r.ctx == x && r.fr.hdl == hdl && r.fr.seq == seq).map
    fun r => (32 * r.port + r.slot, r.fr)) ++
  (((s.cx c x).recTab.filter fun r => r.2.hdl == hdl && r.2.seq == seq).map fun r => (0x8000 + r.1, r.2))

/-- Is a fault older in stream order than another (R249): the order of their commands at an engine, then the order within
the command or at a gather unit, then strand order? -/
def FReg.older (a b : FReg) : Bool :=
  let key (g : FReg) : List Nat := [g.ord, g.fr.sseq, g.fr.seq, g.fr.lsid]
  key a < key b

/-- A fault arrives at a node's register (R249, R341): it replaces a younger one, never an older one. -/
def State.noteFault (s : State) (c x num : Nat) (r : FRec) (ord : Nat := 0) : State :=
  let k := s.core c
  let new : FReg := ⟨r.node, x, num, r, ord⟩
  match k.fregs.find? fun g => g.node == r.node && g.ctx == x with
  | none => s.setCore c { k with fregs := new :: k.fregs }
  | some g =>
    if new.older g then
      s.setCore c { k with fregs := new :: k.fregs.filter fun g => !(g.node == r.node && g.ctx == x) }
    else s

/-- Is the page-in ring of a partition full (R390)? -/
def Part.ringFull (p : Part) : Bool := (p.phead + 1) % 256 == p.ptail

/-- Does a record have a page-in request that is still to be posted (R342)? -/
def RSlot.asks (r : RSlot) : Bool := r.fr.kind == 4 && r.key.isNone

/-- Does a port accept nothing: its replay buffer is full (R250), or a request of its waits for room in the page-in ring
(R390)? -/
def State.portFull (s : State) (c port : Nat) : Bool :=
  let mine := (s.core c).rbuf.filter (·.port == port)
  32 ≤ mine.length || (mine.any RSlot.asks && match s.partOfCore c with
    | some p => (s.part p).ringFull
    | none => false)

/-- The lowest free slot of a port's replay buffer. DESIGN CHOICE (log 11): the spec names no order. -/
def Core.freeSlot (k : Core) (port : Nat) : Nat :=
  ((List.range 32).find? fun n => !k.rbuf.any fun r => r.port == port && r.slot == n).getD 0

/-- Enter a record into a port's replay buffer: its number (R340). A command whose context has ended makes none. -/
def State.portRecord (s : State) (c x port : Nat) (r : FRec) (src : Nat := 0) (ord : Nat := 0) : State × Nat :=
  if 8 ≤ x then (s, 0) else
  let k := s.core c
  let n := k.freeSlot port
  let s := s.setCore c { k with rbuf := ⟨port, n, x, src, none, r⟩ :: k.rbuf }
  (s.noteFault c x (32 * port + n) r ord, 32 * port + n)

/-- Enter a record of kinds 8 to 12 into the context's record table: entries 0-7 for the strand, 8-15 for the handler
strand; an instance that holds an entry keeps it (R340). -/
def State.tableRecord (s : State) (c x : Nat) (r : FRec) : State × Nat :=
  let v := s.cx c x
  match v.recTab.find? fun e => e.2.hdl == r.hdl && e.2.seq == r.seq with
  | some e => (s, 0x8000 + e.1)
  | none =>
    let lo := if r.hdl then 8 else 0
    let n := ((List.range 8).find? fun k => !v.recTab.any (·.1 == lo + k)).getD 0 + lo
    (s.setCx c x { v with recTab := (n, r) :: v.recTab }, 0x8000 + n)

/-- A record for a firing (R339). -/
def State.newRec (s : State) (f : Firing) (kind node lsid : Nat) (addr detail : Word) (sseq : Nat) : FRec :=
  { tag := f.tag, addr, kind, lsid, node, repaired := false, refused := false, repair := false, frozen := false, sseq,
    hdl := f.hdl, seq := f.seq, index := f.idx, bno := f.blk,
    cgen := (s.cx f.core f.ctx).cgen.toNat, detail }

/-- The value of a FAULT token (R26). -/
def faultVal (num : Nat) : Val := .sc (BitVec.ofNat 64 (num % 65536))

/-- The 64 bytes of a record (R339), as a number. -/
def FRec.encode (r : FRec) : Nat :=
  r.tag.toNat + r.addr.toNat <<< 64 + (r.kind % 256) <<< 128 + (r.lsid % 256) <<< 136 + (r.node % 256) <<< 144 +
  (1 + (if r.repaired then 2 else 0) + (if r.refused then 4 else 0) + (if r.repair then 8 else 0) +
    (if r.frozen then 16 else 0)) <<< 152 +
  (r.sseq % 2 ^ 32) <<< 160 + (r.seq % 2 ^ 63 + if r.hdl then 2 ^ 63 else 0) <<< 192 + (r.index % 65536) <<< 256 +
  (r.bno % 65536) <<< 272 + (r.cgen % 256) <<< 288 + r.detail.toNat <<< 320

/-! ## Failure of a context (R346) -/

/-- Enter a record into the partition's fault log, a ring of 64 (R375). -/
def State.logFault (s : State) (p c x : Nat) (r : FRec) : State :=
  let v := s.part p
  let i := if v.flog.isEmpty then 0 else (v.flogIdx + 1) % 64
  s.setPart p { v with flogIdx := i, flog := if i < v.flog.length then v.flog.set i (c, x, r) else v.flog ++ [(c, x, r)] }

/-- A context fails: it fetches nothing more, and its fault is logged (R346). -/
def State.failCtx (s : State) (c x num : Nat) : State :=
  let v := s.cx c x
  if v.phase = .failed then s
  else
    let s := s.setCx c x { v with phase := .failed, want := none, hWant := none }
    match s.record c x num with
    | some r => s.logFault v.lau.part c x r
    | none => s

/-- Mark an in-flight instance as faulted (R30). The first mark stays; an instance whose commit has begun takes none (R47). A
mark in the handler strand fails the context (R346). -/
def State.markInst (s : State) (c x : Nat) (hdl : Bool) (seq num : Nat) : State :=
  match (s.cx c x).inst hdl seq with
  | none => s
  | some i =>
    if i.begun then s else
    let s := if i.marked.isNone then s.modInst c x hdl seq fun i => { i with marked := some num } else s
    if hdl then s.failCtx c x num else s

def State.mark (s : State) (f : Firing) (v : Val) : State :=
  s.markInst f.core f.ctx f.hdl f.seq (v.scalar.toNat % 65536)

/-! ## Emission -/

/-- Where a target of a firing leads (R41, R69); `order` places a channel token in the order of R48. -/
def destOf (elem idx : Nat) (t : Target) (order : Nat) : Option Dest :=
  let q := quadOf elem
  let at_ (i : BitVec 7) (p : Pos) : Option Dest := some (.pos (elemAt q (i.toNat / 32)) (i.toNat % 32) p)
  match t with
  | .left i => at_ i .left
  | .right i => at_ i .right
  | .pred i => at_ i .pred
  | .write k => some (.write k.toNat)
  | .chan c => some (.chan c.toNat (1000 + 2 * idx + order))
  | .none => none

/-- Sources of the fabric beyond the elements: islands and engines by port number, the selvage ports, frame reads. -/
def srcIsland (port : Nat) : Nat := 64 + port
def srcPort (elem : Nat) : Nat := 128 + portOf elem
def srcFrame : Nat := 160

/-- Does a token cross the panel's input ports (R244): a frame-read delivery or the result of an island, which a selvage
port is too (R16)? -/
def Flight.outside (fl : Flight) : Bool := 64 ≤ fl.src

/-- The tokens that a core's fabric holds beyond the first `n` come from `src`, not from an element's output slot. -/
def State.relabel (s : State) (c n src : Nat) : State :=
  let k := s.core c
  s.setCore c { k with fabric := k.fabric.take n ++ (k.fabric.drop n).map fun fl => { fl with src, out := none } }

/-- Put a token into the fabric. -/
def State.addFlight (s : State) (c : Nat) (fl : Flight) : State :=
  let k := s.core c
  s.setCore c { k with fabric := k.fabric ++ [fl] }

/-- Send one token of a firing to one target, from the output slot of its element's latest firing (R40); to no target it
is dropped, except that a FAULT marks the instance (R121, R30). -/
def State.sendTok (s : State) (f : Firing) (t : Target) (order : Nat) (tok : Tok) : State :=
  match destOf f.elem f.idx t order with
  | some d => s.addFlight f.core ⟨f.elem, f.ctx, f.hdl, f.seq, d, tok, some (s.elem f.core f.elem).serial⟩
  | none => if tok.kind.isFault then s.mark f tok.val else s

/-- One token for each target, T0 before T1. -/
def State.sendBoth (s : State) (f : Firing) (t0 t1 : Target) (a b : Tok) : State :=
  (s.sendTok f t0 0 a).sendTok f t1 1 b

/-- A result goes to T0 and then to T1 (R68). A FAULT of an instruction without a target marks its instance (R30). -/
def State.emitTok (s : State) (f : Firing) (t0 t1 : Target) (tok : Tok) : State :=
  if t0 = .none ∧ t1 = .none then (if tok.kind.isFault then s.mark f tok.val else s)
  else
    let s := if t0 = .none then s else s.sendTok f t0 0 tok
    if t1 = .none then s else s.sendTok f t1 1 tok

/-- Emit a kind and value under the firing's tag. -/
def State.emit (s : State) (f : Firing) (t0 t1 : Target) (k : Kind) (v : Val) : State :=
  s.emitTok f t0 t1 ⟨f.tag, k, v⟩

/-- Emit a result that comes from a source other than the element (R244). -/
def State.emitFrom (s : State) (src : Nat) (f : Firing) (t0 t1 : Target) (k : Kind) (v : Val) : State :=
  (s.emit f t0 t1 k v).relabel f.core (s.core f.core).fabric.length src

/-- Operands that reach an instruction which absorbs them: a FAULT among them marks the instance (R30). -/
def State.absorb (s : State) (f : Firing) (ts : List (Option Tok)) : State :=
  match lowestFault ts with
  | some v => s.mark f v
  | none => s

/-- The targets of a word. -/
def instrTargets (i : Instr) : Target × Target :=
  match i.form with
  | .g w => (w.t0, w.t1)
  | .m w => (w.t0, w.t1)
  | .e w => (w.t0, w.t1)
  | .x _ | .step => (.none, .none)

/-- Run `g` on the firing that the element handed over; an instruction that no element fired has no operands and leaves
the state as it is. -/
def withSel (s : State) (g : Firing → Out) : Out :=
  match s.sel with
  | some f => g f
  | none => .next s

/-- The shape that most instructions share: R28 and R29 decide, and `run` gives the state after the entry's own
effect. -/
def fireAs (s : State) (pm : PMode) (t0 t1 : Target) (ops : Firing → List (Option Tok)) (run : Firing → State) : Out :=
  withSel s fun f =>
    match plan pm f (ops f) with
    | .run => .next (run f)
    | .absorb => .next (s.absorb f (ops f))
    | .emit k v => .next (s.emit f t0 t1 k v)

/-- The values at the operand positions. -/
def Firing.lval (f : Firing) : Val := (f.l.map (·.val)).getD (.sc 0)
def Firing.rval (f : Firing) : Val := (f.r.map (·.val)).getD (.sc 0)
def Firing.pval (f : Firing) : Val := (f.p.map (·.val)).getD (.sc 0)

/-! ## Waiting operations and kept results -/

def State.addPend (s : State) (p : Pend) : State :=
  let v := s.cx p.f.core p.f.ctx
  s.setCx p.f.core p.f.ctx { v with pend := v.pend ++ [p] }

/-- Take the `k`-th waiting operation out. -/
def State.dropPend (s : State) (c x k : Nat) : State :=
  let v := s.cx c x
  s.setCx c x { v with pend := v.pend.eraseIdx k }

/-- An instruction that cannot act yet is tried again as a whole later (R167, R250, R273). -/
def State.hold (s : State) (i : Instr) (f : Firing) : State := s.addPend ⟨i, f, .held, 0⟩

/-- Has the firing's instance committed? -/
def Ctx.committed (v : Ctx) (hdl : Bool) (seq : Nat) : Bool :=
  seq < (((v.strand hdl).head?).map (·.seq)).getD (if hdl then v.hNext else v.nextSeq)

/-- Is a waiting operation that is applied once every older instance has committed due (R165)? One that has outlived its
instance waits until the older ones, which are fetched again, have committed too. -/
def State.due (s : State) (q : Pend) : Bool :=
  let v := s.cx q.f.core q.f.ctx
  s.oldest q.f && (q.sseq != 1 || q.f.seq ≤ (((v.strand q.f.hdl).head?).map (·.seq)).getD v.nextSeq)

/-- A waiting operation that has outlived its instance goes on with the firing of the instance's replay, which does not
apply it again (R165, R331). -/
def State.adopt (s : State) (i : Instr) (f : Firing) : Option State :=
  let v := s.cx f.core f.ctx
  let mine (q : Pend) : Bool := q.sseq == 1 && q.st == .perform && q.f.hdl == f.hdl && q.f.seq == f.seq &&
    q.f.idx == f.idx && q.i == i
  if v.pend.any mine then
    let go (q : Pend) : Pend :=
      if mine q then { q with sseq := 0, f := { f with l := q.f.l, r := q.f.r, p := q.f.p } } else q
    some (s.setCx f.core f.ctx { v with pend := v.pend.map go })
  else none

/-- The operation of `due` emits, unless its instance was squashed. -/
def State.emitDue (s : State) (q : Pend) (t0 t1 : Target) (k : Kind) (v : Val) : State :=
  if q.sseq = 1 then s else s.emit q.f t0 t1 k v

/-- Keep the result of an operation for a replay of its instance, unless that has committed (R152, R165). -/
def State.keep (s : State) (f : Firing) (out : List (Kind × Val)) : State :=
  let v := s.cx f.core f.ctx
  if v.committed f.hdl f.seq then s else
  let rest := v.kept.filter fun k => !(k.hdl == f.hdl && k.seq == f.seq && k.idx == f.idx)
  s.setCx f.core f.ctx { v with kept := ⟨f.hdl, f.seq, f.idx, out⟩ :: rest }

/-- The result kept for this firing. -/
def State.keptOf (s : State) (f : Firing) : Option Kept :=
  (s.cx f.core f.ctx).kept.find? fun k => k.hdl == f.hdl && k.seq == f.seq && k.idx == f.idx

/-- Count an LSID (R47 condition 3). -/
def State.countLsid (s : State) (f : Firing) (lsid : Nat) : State :=
  s.modOwn f fun i => { i with counted := i.counted ||| BitVec.ofNat 32 (2 ^ lsid) }

/-! ## Effects at commit -/

/-- The value that a writable register takes (R349). -/
def Ctl.write (l : Ctl) (n : Nat) (v : Word) : Ctl :=
  match n with
  | 4 => { l with smode := if v.toNat % 4 = 3 then 0 else BitVec.ofNat 2 v.toNat }
  | 6 => { l with hintdrop := v }
  | 7 => { l with kvclip := v }
  | 8 => { l with specfb := v }
  | _ => l

/-- Every fault register of a context is cleared (R341). -/
def State.clearFregs (s : State) (c x : Nat) : State :=
  let k := s.core c
  s.setCore c { k with fregs := k.fregs.filter (·.ctx != x) }

/-- A take-in or save of a context begins (R351 step 1). -/
def State.beginTakeIn (s : State) (c x quads : Nat) (bySelf : Bool) : State :=
  let v := s.cx c x
  s.setCx c x { v with takeIn := some ⟨quads, (s.core c).cycle.toNat, bySelf⟩, ctl := { v.ctl with pending := true } }

/-- One of the effects that an instance has when it commits, besides R48 (R169, R273, R309, R350, R352). A completion tag
is cleared only while its owner is the one observed. -/
def State.applyPost (s : State) (c x : Nat) (p : Post) : State :=
  let v := s.cx c x
  match p with
  | .setc n w => s.setCx c x { v with ctl := Ctl.write v.ctl n w }
  | .fclr => s.clearFregs c x
  | .sk r w => s.setCx c x { v with sks := v.sks.set r w }
  | .clearTag t owner =>
    let k := s.core c
    if (k.ctags.getD t ⟨.free, none, .none, 0⟩).owner = owner then
      s.setCore c { k with ctags := k.ctags.set t ⟨.free, none, .none, 0⟩ }
    else s
  | .specfb => s.setCx c x { v with ctl := { v.ctl with specfb := v.ctl.specfb + 1 } }
  | .takeIn n => if v.takeIn.isSome then s else s.beginTakeIn c x n true

/-- An effect of the firing's instance that is due when it commits, at once when it has. -/
def State.addPost (s : State) (f : Firing) (p : Post) : State :=
  if (s.instOf f).isSome then s.modOwn f fun i => { i with post := i.post ++ [p] }
  else s.applyPost f.core f.ctx p

/-! ## The outcome of a failed access (R141) -/

/-- Codes of scopes in `mods` fields and words; 0b000 read as PKG where an entry says so. -/
def scopeOrPkg (n : Nat) : Nat := if n = 0 then 3 else n

/-- Freeze a node for a context (R252): entries are (node, context). -/
def State.freeze (s : State) (c node x : Nat) : State :=
  let k := s.core c
  s.setCore c { k with frozen := if k.frozen.contains (node, x) then k.frozen else (node, x) :: k.frozen }

def State.isFrozen (s : State) (c node x : Nat) : Bool := (s.core c).frozen.contains (node, x)

/-- The record of a failed access, in the replay buffer of a port (R249, R250, R340). -/
def State.accessRecord (s : State) (f : Firing) (port node lsid : Nat) (e : AccErr) (sseq : Nat) (k : AKind)
    (ord : Nat := 0) : State × Nat :=
  let mode := (s.cx f.core f.ctx).ctl.smode
  let r := s.newRec f e.code node lsid (BitVec.ofNat 64 e.addr) 0 sseq
  let r := { r with repair := mode == 1 && e.code == 4, frozen := mode == 2 }
  let s := if e.code = 7 then s.noteUe e.addr else s
  let source := if 32 ≤ node then (if k.writes then 4 else 3) else k.source
  let s := if e.code = 6 then
      match s.partOfCore f.core with
      | some p => s.logViolation p ⟨e.addr, source, f.core, f.ctx, node, 0⟩
      | none => s
    else s
  s.portRecord f.core f.ctx port r source ord

/-- What a failed check comes to (R141): the node freezes, the access yields CHAFF, or it yields FAULT. -/
inductive AccOut where
  | frozen
  | chaff
  | fault (num : Nat)
  deriving DecidableEq, Repr

def State.accessFails (s : State) (f : Firing) (port node lsid : Nat) (e : AccErr) (sseq : Nat) (k : AKind)
    (ord : Nat := 0) : State × AccOut :=
  let mode := (s.cx f.core f.ctx).ctl.smode
  let (s, num) := s.accessRecord f port node lsid e sseq k ord
  if mode == 2 then (s.freeze f.core node f.ctx, .frozen)
  else if mode == 1 && e.code == 4 then
    let v := s.cx f.core f.ctx
    (s.setCx f.core f.ctx { v with ctl := { v.ctl with rpend := v.ctl.rpend + 1 } }, .chaff)
  else (s, .fault num)

/-! ## The rate limiter (R244) -/

def Ctx.rlimN (v : Ctx) : Nat := bits v.ctl.rlim 15 0
def Ctx.rlimW (v : Ctx) : Nat := if bits v.ctl.rlim 31 16 = 0 then 65536 else bits v.ctl.rlim 31 16

/-- May a token cross the panel's input ports in this window? -/
def Ctx.rateOk (v : Ctx) : Bool := Ctx.rlimN v == 0 || v.rlimUsed < Ctx.rlimN v

/-- A token crosses them. -/
def State.rateTake (s : State) (c x : Nat) : State :=
  let v := s.cx c x
  if Ctx.rlimN v = 0 then s else s.setCx c x { v with rlimUsed := v.rlimUsed + 1 }

/-! ## Completion tags (R167) -/

def Core.ctag (k : Core) (t : Nat) : Ctag := k.ctags.getD t ⟨.free, none, .none, 0⟩
def State.setCtag (s : State) (c t : Nat) (v : Ctag) : State :=
  let k := s.core c
  s.setCore c { k with ctags := k.ctags.set t v }

def Firing.owner (f : Firing) : Owner := ⟨f.ctx, f.hdl, f.seq, f.idx⟩

/-- Is a tag granted to the firing's context? -/
def State.granted (s : State) (f : Firing) (t : Nat) : Bool := bit (s.cx f.core f.ctx).ctl.ctagmask t

/-- Is a waiting WAITALL or WAITANY that looks at tag `t` already satisfied (R168)? Until it has reported, the tag is not
taken again: R167 lets a command wait for a BUSY tag and gives no order towards a wait (DESIGN CHOICE, log 112). -/
def Core.waitMet (k : Core) (t : Nat) : Bool :=
  let isDone (m : Word) (n : Nat) : Bool := bit m n && (k.ctag n).st == .done
  k.cxs.any fun v => v.pend.any fun (q : Pend) =>
    let m := v.ctl.ctagmask &&& q.f.lval.scalar
    bit m t && match q.i with
      | .waitall _ => (List.range 64).all fun n => !bit m n || isDone m n
      | .waitany _ => (List.range 64).any fun n => isDone m n
      | _ => false

/-- What issuing a command with a tag comes to (R167). -/
inductive Take where
  | noTag
  | suppress
  | busy
  | free
  deriving DecidableEq, Repr

def State.takeTag (s : State) (f : Firing) (t : Nat) : Take :=
  if !s.granted f t then .noTag
  else
    let v := (s.core f.core).ctag t
    if v.owner = some f.owner ∧ v.st ≠ .free then .suppress
    else if v.st = .busy || (s.core f.core).waitMet t then .busy
    else .free

/-- The tag is BUSY with this owner, unmarked. -/
def State.claimTag (s : State) (f : Firing) (t scope : Nat) : State :=
  s.setCtag f.core t ⟨.busy, some f.owner, .none, scope⟩

/-- Completion: the tag is DONE with a mark, a release at its scope (R167, R238, R320). -/
def State.finishTag (s : State) (c : Nat) (t : Option Nat) (m : Mark) : State :=
  match t with
  | none => s
  | some t =>
    let v := (s.core c).ctag t
    s.setCtag c t { v with st := .done, mark := m }

/-- The result of a command whose instance was squashed is discarded; a result under a held tag is kept for a replay
(R49, R167, R231). -/
def State.cmdEmit (s : State) (cmd : Cmd) (k : Kind) (v : Val) : State :=
  let (t0, t1) := instrTargets cmd.i
  let holds (t : Option Nat) : Bool := t.any fun t => ((s.core cmd.f.core).ctag t).owner == some cmd.f.owner
  let own := holds cmd.ctag || holds cmd.ctc
  let s := if own then s.keep cmd.f [(k, v)] else s
  if cmd.orphan then s else s.emitFrom (srcIsland cmd.port) cmd.f t0 t1 k v

/-! ## Squash, trap, return (R49, R344-R347) -/

/-- Is a token one that the squash of some instances discards (R49, R135)? `dead` are the squashed sequence numbers and
tags; `own` is the sender, `ownTag` its tag while it is in flight. -/
def tokenDies (dead : List (Nat × Word)) (own : Nat) (ownTag : Option Word) (tag : Word) : Bool :=
  dead.any fun d => d.1 == own || (d.2 == tag && ownTag != some tag)

/-- REORDER groups after a squash (R126): the next value returns to the lowest value that was passed for a token of a
squashed instance. -/
def Group.squash (g : Group) (dead : List Nat) : Group :=
  { g with passed := g.passed.filter fun p => !dead.contains p.1,
           next := (((g.passed.filter fun p => dead.contains p.1).map (·.2)).min?).getD g.next }

/-- Operations of a strand that the squash of their instance does not cancel once they have fired (R331). A POOLCUT that
has not begun its transition is withdrawn (R218). -/
def outlives (i : Instr) : Bool :=
  match i with
  | .barinit _ | .baradd _ | .bararr _ | .spacc _ | .specbeg _ | .speccmt _ | .aadd _ | .aand _ | .acas _ | .afadd _
  | .amax _ | .amin _ | .aor _ | .atset _ | .axchg _ | .axor _ | .kvapp _ => true
  | _ => false

/-- The waiting operation after the squash of its instance: it goes on without it, or is gone. -/
def Pend.outlive (q : Pend) : Option Pend :=
  if !q.f.hdl && q.st == .perform && outlives q.i then some { q with sseq := 1 } else none

/-- The completion tags that SPACCs of some instances hold and that wait at a frozen unit go back to FREE, since such an
SPACC is dropped (R167, R252). -/
def State.freeDropped (s : State) (c x : Nat) (hdl : Bool) (seqs : List Nat) : State :=
  let v := s.cx c x
  let tags := (v.pend.filter fun q => q.f.hdl == hdl && seqs.contains q.f.seq && q.outlive.isNone).filterMap fun q =>
    match q.i with
    | .spacc w => if ((s.core c).ctag w.ctag.toNat).owner == some q.f.owner then some w.ctag.toNat else none
    | _ => none
  tags.foldl (fun s t => s.setCtag c t ⟨.free, none, .none, 0⟩) s

/-- What is left, after the squash of the instances from `first` on, of what `past` holds for older accesses: no access of
those instances comes before another any more. -/
def Past.cut (hdl : Bool) (first : Nat) (e : Past) : Option Past :=
  if e.hdl != hdl || e.hi.1 < first then some e
  else if e.lo.1 < first then some { e with hi := (first, 0) }
  else none

/-- Squash the instances of a strand that `p` picks: their tokens, buffered stores, frame writes, channel tokens,
waiting operations and reservations go; issued commands stay, and so do the operations of R331 (R49, R98, R218, R367). -/
def State.squash (s : State) (c x : Nat) (hdl : Bool) (p : Inst → Bool) : State :=
  let v := s.cx c x
  let gone := (v.strand hdl).filter p
  let dead := gone.map fun i => (i.seq, i.tag)
  let seqs := gone.map (·.seq)
  let tagOf (n : Nat) : Option Word :=
    ((v.strand hdl ++ v.left.filter (·.hdl == hdl)).find? (·.seq == n)).map (·.tag)
  let deadEnt (e : Ent) : Bool := e.ctx == x && e.hdl == hdl && tokenDies dead e.own (tagOf e.own) e.tok.tag
  let deadFl (e : Flight) : Bool := e.ctx == x && e.hdl == hdl && tokenDies dead e.seq (tagOf e.seq) e.tok.tag
  let k := s.core c
  let k := { k with
    elems := k.elems.map fun e => { e with store := e.store.filter (!deadEnt ·), ovf := e.ovf.filter (!deadEnt ·) },
    fabric := k.fabric.filter (!deadFl ·),
    cmds := k.cmds.map fun m =>
      if m.f.ctx == x && m.f.hdl == hdl && seqs.contains m.f.seq then { m with orphan := true } else m }
  let s := s.setCore c k
  let s := s.freeDropped c x hdl seqs
  let v := s.cx c x
  let left := (v.strand hdl).filter fun i => !p i
  let v := v.setStrand hdl left
  let v := { v with
    pend := v.pend.filterMap fun q => if q.f.hdl == hdl && seqs.contains q.f.seq then q.outlive else some q,
    groups := v.groups.map (fun g => if g.hdl == hdl then g.squash seqs else g),
    bobWait := if gone.any fun i => i.exit.any (·.alloc.isSome) then 0 else v.bobWait }
  let first := seqs.foldl min (if hdl then v.hNext else v.nextSeq)
  let v := if gone.isEmpty then v
    else
      let v := { v with past := v.past.filterMap (Past.cut hdl first) }
      if hdl then { v with hNext := first, hWant := none } else { v with nextSeq := first, want := none }
  let s := s.setCx c x v
  let mine (r : InstRef) : Bool := r.core == c && r.ctx == x && r.hdl == hdl && seqs.contains r.seq
  { s with parts := s.parts.map fun pt =>
      { pt with images := (pt.images.filter fun im => match im.alloc with
                  | some r => !mine r
                  | none => true).map fun im => { im with rel := im.rel.filter fun r => !mine r },
                queues := pt.queues.map fun q => { q with resv := q.resv.filter fun r => !mine r.2 } } }

/-- Release the records of squashed or trapping instances, but for REPAIR records and `keepNum` (R340, R344). -/
def State.releaseInstRecs (s : State) (c x : Nat) (hdl : Bool) (seqs : List Nat) (keepNum : Option Nat) : State :=
  let nums := seqs.flatMap fun q => (s.recsOf c x hdl q).filterMap fun r =>
    if r.2.repair || keepNum == some r.1 then none else some r.1
  nums.foldl (fun s n => s.releaseRec c x n) s

/-- A fetch request of a handler instance 0: tag (context, depth 0), sequence number 0, empty link stack (R345). -/
def handlerWant (x blk : Nat) : Want := ⟨blk, BitVec.ofNat 64 (x * 2 ^ 61), 0, []⟩

/-- Taking the exception: the marked oldest instance of the strand traps (R49, R344). The younger instances are squashed;
the cause, sequence number, tag and block registers are written; the handler starts, or the context fails. -/
def State.trap (s : State) (c x : Nat) (i : Inst) : State :=
  let num := i.marked.getD 0
  let v := s.cx c x
  let seqs := v.insts.map (·.seq)
  let s := s.squash c x false fun _ => true
  let s := s.releaseInstRecs c x false seqs (some num)
  let r := s.record c x num
  let ex := match i.exit with
    | some e => if e.done then some e else none
    | none => none
  let kindN := (r.map (·.kind)).getD 0
  let nodeN := (r.map (·.node)).getD 0
  let index := (r.map (·.index)).getD 0
  let next := match ex with
    | some e => e.start.getD 0xFFFF
    | none => 0xFFFF
  let v := s.cx c x
  let ctl := { v.ctl with
    tcause := BitVec.ofNat 64 (kindN + nodeN <<< 8 + num <<< 16 + (if ex.isSome then 2 ^ 32 else 0)),
    tseq := BitVec.ofNat 64 i.seq,
    ttag := i.tag,
    tblk := BitVec.ofNat 64 (i.blk + index <<< 16 + next <<< 32) }
  let v : Ctx := { v with
    ctl, want := none, nextSeq := i.seq, left := v.left.filter (!·.hdl), trapped := some ⟨i.seq, i.blk, i.tag, i.links, num, ex⟩ }
  if imgHandler v.lau.image == 0xFFFF || v.ctl.inHandler then (s.setCx c x v).failCtx c x num
  else
    s.setCx c x { v with ctl := { v.ctl with inHandler := true }, hNext := 0, links := i.links,
                         hWant := some (handlerWant x (imgHandler v.lau.image)) }

/-- A member of a channel group has another place (R85): the others know it there. -/
def State.renameMember (s : State) (old new : Nat × Nat) : State :=
  let re (v : Ctx) : Ctx :=
    if v.lau.members.contains old then
      { v with lau := { v.lau with members := v.lau.members.map fun m => if m = old then new else m } }
    else v
  { s with cores := s.cores.map fun k => { k with cxs := k.cxs.map re },
           parts := s.parts.map fun p => { p with pool := p.pool.map fun e => { e with cx := re e.cx } } }

/-- The context number of what outlives its context: a member of a channel group that has ended, a command that a squash
did not cancel (R49) and that R132 does not wait for. -/
def homeless : Nat := 65536

/-- The room of a channel towards a FIFO (R47, R53): its free entries, or, from another core, the window that the sender
holds and the credits under way to it (R334). -/
def Fifo.room (q : Fifo) (remote : Bool) : Nat := if remote then q.window + q.credits else q.depth - q.ents.length

/-- A receiver ends: each sender of its group keeps the room that was left, and what it sends is lost (R132, R334;
DEDUCED, log 21). -/
def State.closeChannels (s : State) (c x : Nat) : State :=
  let fifos := (s.cx c x).fifos
  let close (core : Nat) (v : Ctx) : Ctx :=
    match v.lau.members.findIdx? (· == (c, x)) with
    | none => v
    | some me =>
      let l := (chanList v.lau.image).filterMap fun e =>
        if e.dimage == me then (fifos.find? (·.slot == e.dslot)).map fun q => (e.chan, q.room (core != c)) else none
      { v with gone := l ++ v.gone }
  { s with cores := s.cores.mapIdx fun n k => { k with cxs := k.cxs.map (close n) },
           parts := s.parts.map fun p => { p with pool := p.pool.map fun e => { e with cx := close e.core e.cx } } }

/-- Free what a context holds: frame, panel, tags, bobbin state, pages' owner (R132). Its incarnation stays (R342). -/
def State.freeCtx (s : State) (c x : Nat) : State :=
  let s := s.closeChannels c x
  let v := s.cx c x
  let k := s.core c
  let mask := v.ctl.ctagmask
  let others := (k.cxs.mapIdx fun n o => (n, o)).filter fun o => o.1 != x && o.2.phase != .free
  let shared (t : Nat) : Bool := others.any fun o => bit o.2.ctl.ctagmask t
  let k := { k with
    ctags := k.ctags.mapIdx fun t g => if bit mask t && !shared t then ⟨.free, none, .none, 0⟩ else g,
    rbuf := k.rbuf.filter (·.ctx != x),
    fregs := k.fregs.filter fun g => g.ctx != x || g.fr.repair,
    frozen := k.frozen.filter (·.2 != x),
    fabric := k.fabric.filter (·.ctx != x),
    scales := k.scales.filter fun t => bits t.2.tag 63 61 != x,
    scaleFlights := k.scaleFlights.filter fun t => t.2.f.ctx != x,
    elems := k.elems.map fun e => { e with store := e.store.filter (·.ctx != x), ovf := e.ovf.filter (·.ctx != x),
                                           reconf := e.reconf.filter (·.ctx != x) } }
  let s := (s.setCore c k).setCx c x { Ctx.reset with cgen := v.cgen }
  s.renameMember (c, x) (c, homeless)

/-- The return from the exception: ERET takes effect when its instance commits (R347). The marking record is released
and the handler left; then the trapped instance is fetched again, or skipped, or the context ends. -/
def State.eret (s : State) (c x : Nat) (skip : Bool) : State :=
  let v := s.cx c x
  match v.trapped with
  | none => s
  | some t =>
    let s := s.releaseRec c x t.num
    let s := s.squash c x true fun _ => true
    let v := s.cx c x
    let v := { v with ctl := { v.ctl with inHandler := false }, trapped := none, hWant := none, hNext := 0,
                      kept := v.kept.filter (!·.hdl) }
    let k := s.core c
    let s := s.setCore c { k with ctags := k.ctags.map fun g => match g.owner with
      | some o => if o.ctx == x && o.hdl then { g with owner := none } else g
      | none => g }
    if !skip then s.setCx c x { v with want := some ⟨t.blk, t.tag, t.seq, t.links⟩, nextSeq := t.seq }
    else
      let v := { v with kept := v.kept.filter fun k => !(k.hdl == false && k.seq == t.seq) }
      match t.exit with
      | some ⟨_, true, some b, tag, links, _, _, _⟩ =>
        s.setCx c x { v with want := some ⟨b, tag, t.seq + 1, links⟩, nextSeq := t.seq + 1, links }
      | _ => s.setCx c x { v with phase := .halting, want := none }

/-- A context fault of kinds 8 to 12 made by a node for a firing (R338, R340): the record and its number. -/
def State.ctxFault (s : State) (f : Firing) (kind node : Nat) (detail : Word) : State × Nat :=
  let r := s.newRec f kind node 0 0 detail 0
  let (s, num) := s.tableRecord f.core f.ctx r
  (s.noteFault f.core f.ctx num r, num)

end Sys2Proof.Machine
end

