-- ==== Sys2Proof/Machine/Num.lean ====
section
/-! DEFINITION. Number formats and the rounding function (R174-R189): exact values, decoding, round(x, F, mode, sat),
IEEE arithmetic on exact values, and the correctly rounded functions of R188. -/

namespace Sys2Proof.Machine

/-- Rounding modes (R200). -/
inductive RM where
  | rne | rtz | rup | rdn
  deriving DecidableEq, Repr

def rmOf : Nat → RM
  | 0 => .rne | 1 => .rtz | 2 => .rup | _ => .rdn

/-- Float formats (R174). -/
inductive FF where
  | f32 | bf16 | f16 | e4m3 | e5m2 | tf8
  deriving DecidableEq, Repr

/-- The float format of a memory format (R103). -/
def FF.ofFmt : Fmt → Option FF
  | .f32 => some .f32 | .bf16 => some .bf16 | .f16 => some .f16 | .e4m3 => some .e4m3 | .e5m2 => some .e5m2
  | .tf8 => some .tf8 | _ => none

/-- Width, fraction bits, bias (R175). -/
def FF.width : FF → Nat
  | .f32 => 32 | .bf16 | .f16 => 16 | _ => 8
def FF.fbits : FF → Nat
  | .f32 => 23 | .bf16 => 7 | .f16 => 10 | .e4m3 => 3 | .e5m2 => 2 | .tf8 => 0
def FF.bias : FF → Nat
  | .f32 | .bf16 => 127 | .f16 | .e5m2 => 15 | .e4m3 => 7 | .tf8 => 0
/-- Code of the largest finite value (R176, R178). -/
def FF.maxCode : FF → Nat
  | .f32 => 0x7F7FFFFF | .bf16 => 0x7F7F | .f16 => 0x7BFF | .e4m3 => 0x7E | .e5m2 => 0x7B | .tf8 => 0x7F
def FF.hasInf : FF → Bool
  | .e4m3 | .tf8 => false
  | _ => true
/-- Code of +infinity, for formats that have it (R176). -/
def FF.infCode : FF → Nat
  | .f32 => 0x7F800000 | .bf16 => 0x7F80 | .f16 => 0x7C00 | .e5m2 => 0x7C | .e4m3 => 0x7F | .tf8 => 0x80
/-- Default NaN (R176, R178). -/
def FF.defNan : FF → Nat
  | .f32 => 0x7FC00000 | .bf16 => 0x7FC0 | .f16 => 0x7E00 | .e4m3 => 0x7F | .e5m2 => 0x7E | .tf8 => 0x80

/-- An operand value: NaN with its sign and its fraction aligned at the top of 23 bits, infinity, or the exact
`(-1)^neg * m * 2^e`. -/
inductive Num where
  | nan (neg : Bool) (frac : Nat)
  | inf (neg : Bool)
  | fin (neg : Bool) (m : Nat) (e : Int)
  deriving DecidableEq, Repr

/-- The magnitude of a tf8 body in units of 2^-22 (R178). -/
def tf8Mag (body : Nat) : Nat :=
  if body = 0 then 0
  else
    let m := Nat.log2 body
    let z := 6 - m
    let eb := min 2 m
    let fb := m - eb
    let e := if eb = 0 then 0 else ((body >>> fb) % 2 ^ eb) <<< (2 - eb)
    let fr := body % 2 ^ fb
    (2 ^ fb + fr) * 2 ^ (24 + e - 4 * z) / 2 ^ fb

/-- Decoding of a code (R175, R178). -/
def FF.decode (f : FF) (c : Nat) : Num :=
  match f with
  | .tf8 =>
    let body := c % 128
    if body = 0 then (if c % 256 < 128 then .fin false 0 0 else .nan false 0)
    else .fin (128 ≤ c % 256) (tf8Mag body) (-22)
  | _ =>
    let neg := (c >>> (f.width - 1)) % 2 == 1
    let ex := (c >>> f.fbits) % 2 ^ (f.width - 1 - f.fbits)
    let fr := c % 2 ^ f.fbits
    let top := ex == 2 ^ (f.width - 1 - f.fbits) - 1
    if f == .e4m3 && top && fr == 7 then .nan neg 0
    else if f != .e4m3 && top then
      (if fr = 0 then .inf neg
       else if f == .e5m2 then .nan neg 0 else .nan neg (fr * 2 ^ (23 - f.fbits)))
    else if ex = 0 then .fin neg fr (1 - (f.bias : Int) - f.fbits)
    else .fin neg (2 ^ f.fbits + fr) ((ex : Int) - f.bias - f.fbits)

/-- nan_of(F, x) (R185). -/
def nanOf (f : FF) (neg : Bool) (frac : Nat) : Nat :=
  let sg := if neg then 2 ^ (f.width - 1) else 0
  match f with
  | .f32 | .bf16 | .f16 =>
    let fr := frac >>> (23 - f.fbits)
    sg + f.infCode + (fr ||| 2 ^ (f.fbits - 1))
  | .e4m3 => sg + 0x7F
  | .e5m2 => sg + 0x7E
  | .tf8 => 0x80

/-- A magnitude: exactly `m * 2^e`, or with `st` a real strictly between `m * 2^e` and `(m + 1) * 2^e`. -/
structure Mag where
  m : Nat
  e : Int
  st : Bool
  deriving DecidableEq, Repr

/-- Does a magnitude with kept part `n`, remainder `r` of `2^sh` and sticky bit round up? `odd` is bit 0 of the code
below. -/
def roundsUp (mode : RM) (neg odd : Bool) (r half : Nat) (st : Bool) : Bool :=
  let inexact := r != 0 || st
  match mode with
  | .rne => if half = 0 then false else decide (half < r) || (decide (r = half) && (st || odd))
  | .rtz => false
  | .rup => inexact && !neg
  | .rdn => inexact && neg

/-- The code of the value of U(F) that a positive magnitude rounds to (R182); `neg` turns the directed modes. -/
def roundMag (f : FF) (mode : RM) (neg : Bool) (g : Mag) : Nat :=
  match f with
  | .tf8 =>
    -- |x| in units of 2^-23, floor and whether anything is cut
    let x2 := if g.e + 23 ≥ 0 then g.m <<< (g.e + 23).toNat else g.m >>> (-(g.e + 23)).toNat
    let cut := g.st || (if g.e + 23 ≥ 0 then false else g.m % 2 ^ (-(g.e + 23)).toNat != 0)
    let k := ((List.range 129).filter fun c => c != 0 && decide (2 * (if c = 128 then 2 ^ 28 else tf8Mag c) ≤ x2)).length
    if k = 128 then 128
    else
      let lo := tf8Mag k
      let hi := if k = 127 then 2 ^ 28 else tf8Mag (k + 1)
      let up := roundsUp mode neg (k % 2 == 1) (x2 - 2 * lo) (hi - lo) cut
      if up then k + 1 else k
  | _ =>
    let minE : Int := 1 - f.bias
    let top : Int := (Nat.log2 g.m : Int) + g.e
    let ex := max top minE
    let q := ex - f.fbits
    let sh := q - g.e
    let base := (ex + f.bias - 1).toNat * 2 ^ f.fbits
    if sh ≤ 0 then
      let n := g.m <<< (-sh).toNat
      base + n + (if roundsUp mode neg (n % 2 == 1) 0 0 g.st then 1 else 0)
    else
      let n := g.m >>> sh.toNat
      let r := g.m % 2 ^ sh.toNat
      base + n + (if roundsUp mode neg (n % 2 == 1) r (2 ^ (sh.toNat - 1)) g.st then 1 else 0)

/-- The result on overflow (R183). -/
def overflowCode (f : FF) (mode : RM) (sat neg : Bool) : Nat :=
  let sg := if neg then 2 ^ (f.width - 1) else 0
  let toInf := match mode with
    | .rne => true
    | .rtz => false
    | .rup => !neg
    | .rdn => neg
  if sat || !toInf then sg + f.maxCode
  else if f.hasInf then sg + f.infCode
  else nanOf f neg 0

/-- round(x, F, mode, sat) of a finite magnitude with a sign (R182-R184). A zero keeps its sign, but in tf8. -/
def roundFin (f : FF) (mode : RM) (sat neg : Bool) (g : Mag) : Nat :=
  let sg := if neg then 2 ^ (f.width - 1) else 0
  if g.m = 0 && !g.st then (if f = .tf8 then 0 else sg)
  else
    let c := roundMag f mode neg g
    if f.maxCode < c then overflowCode f mode sat neg
    else if c = 0 && f = .tf8 then 0
    else sg + c

/-- round(x, F, mode, sat) (R182). -/
def roundNum (f : FF) (mode : RM) (sat : Bool) : Num → Nat
  | .nan neg fr => nanOf f neg fr
  | .inf neg =>
    let sg := if neg then 2 ^ (f.width - 1) else 0
    if sat then sg + f.maxCode else if f.hasInf then sg + f.infCode else nanOf f neg 0
  | .fin neg m e => roundFin f mode sat neg ⟨m, e, false⟩

/-- A signed integer as an exact value; zero is +0. -/
def Num.ofInt (n : Int) : Num := .fin (n < 0) n.natAbs 0

/-- Exact sum of two finite values as sign, magnitude, exponent; an exact zero is +0 here. -/
def finAdd (n1 : Bool) (m1 : Nat) (e1 : Int) (n2 : Bool) (m2 : Nat) (e2 : Int) : Int × Int :=
  let e := min e1 e2
  let a : Int := (m1 <<< (e1 - e).toNat : Nat)
  let b : Int := (m2 <<< (e2 - e).toNat : Nat)
  ((if n1 then -a else a) + (if n2 then -b else b), e)

/-- round(a + b, F, mode, sat) with the special values and the zero signs of R201; NaN operands by R185, left first. -/
def fpAdd (f : FF) (mode : RM) (sat : Bool) (a b : Num) : Nat :=
  match a, b with
  | .nan n fr, _ => nanOf f n fr
  | _, .nan n fr => nanOf f n fr
  | .inf n1, .inf n2 => if n1 == n2 then roundNum f mode sat (.inf n1) else f.defNan
  | .inf n, _ => roundNum f mode sat (.inf n)
  | _, .inf n => roundNum f mode sat (.inf n)
  | .fin n1 m1 e1, .fin n2 m2 e2 =>
    let (v, e) := finAdd n1 m1 e1 n2 m2 e2
    if v = 0 then
      let neg := (n1 && n2) || (mode == .rdn && n1 != n2)
      roundNum f mode sat (.fin neg 0 0)
    else roundFin f mode sat (v < 0) ⟨v.natAbs, e, false⟩

def Num.neg : Num → Num
  | .nan n f => .nan n f
  | .inf n => .inf (!n)
  | .fin n m e => .fin (!n) m e

/-- The exact product of two values that are not NaN; `none` for zero times infinity. -/
def exactMul (a b : Num) : Option Num :=
  match a, b with
  | .inf n1, .inf n2 => some (.inf (n1 != n2))
  | .inf n1, .fin n2 m _ => if m = 0 then none else some (.inf (n1 != n2))
  | .fin n1 m _, .inf n2 => if m = 0 then none else some (.inf (n1 != n2))
  | .fin n1 m1 e1, .fin n2 m2 e2 => some (.fin (n1 != n2) (m1 * m2) (e1 + e2))
  | _, _ => none

/-- round(a × b, F, mode, sat) (R201). -/
def fpMul (f : FF) (mode : RM) (sat : Bool) (a b : Num) : Nat :=
  match a, b with
  | .nan n fr, _ => nanOf f n fr
  | _, .nan n fr => nanOf f n fr
  | _, _ => match exactMul a b with
    | some p => roundNum f mode sat p
    | none => f.defNan

/-- The quotient of two magnitudes to 160 bits and whether it is cut. -/
def divMag (m1 : Nat) (e1 : Int) (m2 : Nat) (e2 : Int) : Mag :=
  let sh := 160 + Nat.log2 m2
  let n := m1 <<< sh
  ⟨n / m2, e1 - e2 - sh, n % m2 != 0⟩

/-- round(a ÷ b, F, mode, sat), following IEEE 754 (R189). R185 orders the NaNs of classes 3 and 4 only; that an element's NaN
comes before that of its scale, and the default NaN where neither is one, is a DESIGN CHOICE (log 113), also for the products
of LDX, CPY and KVAPP (`fpMul`). -/
def fpDiv (f : FF) (mode : RM) (sat : Bool) (a b : Num) : Nat :=
  match a, b with
  | .nan n fr, _ => nanOf f n fr
  | _, .nan n fr => nanOf f n fr
  | .inf _, .inf _ => f.defNan
  | .inf n1, .fin n2 _ _ => roundNum f mode sat (.inf (n1 != n2))
  | .fin n1 _ _, .inf n2 => roundNum f mode sat (.fin (n1 != n2) 0 0)
  | .fin n1 m1 e1, .fin n2 m2 e2 =>
    if m2 = 0 then (if m1 = 0 then f.defNan else roundNum f mode sat (.inf (n1 != n2)))
    else if m1 = 0 then roundNum f mode sat (.fin (n1 != n2) 0 0)
    else roundFin f mode sat (n1 != n2) (divMag m1 e1 m2 e2)

/-- c + a × b with one rounding (R202). -/
def fpFma (f : FF) (mode : RM) (c a b : Num) : Nat :=
  match c, a, b with
  | .nan n fr, _, _ => nanOf f n fr
  | _, .nan n fr, _ => nanOf f n fr
  | _, _, .nan n fr => nanOf f n fr
  | _, _, _ => match exactMul a b with
    | none => f.defNan
    | some p => fpAdd f mode false c p

/-- Exact comparison of two values that are not NaN: the sign of a − b, with −0 = +0 (R117). -/
def Num.cmp (a b : Num) : Int :=
  match a, b with
  | .inf n1, .inf n2 => if n1 == n2 then 0 else if n1 then -1 else 1
  | .inf n, _ => if n then -1 else 1
  | _, .inf n => if n then 1 else -1
  | .fin n1 m1 e1, .fin n2 m2 e2 => (finAdd n1 m1 e1 (!n2) m2 e2).1
  | _, _ => 0

def Num.isNan : Num → Bool
  | .nan _ _ => true
  | _ => false

def Num.isNeg : Num → Bool
  | .nan n _ | .inf n | .fin n _ _ => n

/-- A real rounded to an integer by a mode (R187): sign, magnitude `m * 2^e`. -/
def toIntMode (mode : RM) (neg : Bool) (m : Nat) (e : Int) : Int :=
  let n : Nat :=
    if 0 ≤ e then m <<< e.toNat
    else
      let sh := (-e).toNat
      let q := m >>> sh
      q + (if roundsUp mode neg (q % 2 == 1) (m % 2 ^ sh) (2 ^ (sh - 1)) false then 1 else 0)
  if neg then -(n : Int) else n

/-- Clamp an integer to the range of a width (R181). -/
def clampInt (signed : Bool) (n : Nat) (x : Int) : Int :=
  if signed then max (-(2 ^ (n - 1) : Nat) : Int) (min x (2 ^ (n - 1) - 1 : Nat))
  else max 0 (min x (2 ^ n - 1 : Nat))

/-- A float to an integer of `n` bits (R187). -/
def fpToInt (mode : RM) (signed : Bool) (n : Nat) : Num → Int
  | .nan _ _ => 0
  | .inf neg => if neg then (if signed then -(2 ^ (n - 1) : Nat) else 0)
                else (if signed then (2 ^ (n - 1) - 1 : Nat) else (2 ^ n - 1 : Nat))
  | .fin neg m e => clampInt signed n (toIntMode mode neg m e)

/-! ## The correctly rounded functions (R188)

2^x, log2, sine and cosine are computed in fixed point with an error below 2^-300, and rounded from there: log 12. -/

/-- Integer square root, bit by bit. -/
def isqrt (n : Nat) : Nat :=
  ((List.range (Nat.log2 n / 2 + 1)).reverse).foldl (fun r i => if (r + 2 ^ i) ^ 2 ≤ n then r + 2 ^ i else r) 0

/-- √(m * 2^e) to at least 128 bits. -/
def sqrtMag (m : Nat) (e : Int) : Mag :=
  let sh := 256 + (if e % 2 = 0 then 0 else 1)
  let n := m <<< sh
  let r := isqrt n
  ⟨r, (e - sh) / 2, r * r != n⟩

/-- 1/√(m * 2^e). -/
def rsqrtMag (m : Nat) (e : Int) : Mag :=
  let sh := 2 * Nat.log2 m + 256 + (if e % 2 = 0 then 0 else 1)
  let n := 2 ^ sh / m
  let r := isqrt n
  ⟨r, (-e - sh) / 2, r * r * m != 2 ^ sh⟩

/-- Working precision of the fixed-point functions. -/
def fxBits : Nat := 400

/-- ln 2 in fixed point: the sum of 1 / (k 2^k). -/
def fxLn2 : Nat := ((List.range fxBits).map fun k => 2 ^ fxBits / ((k + 1) * 2 ^ (k + 1))).sum

/-- e^y - 1 for a fixed-point y below 1, with `n` terms: y/1 (1 + y/2 (1 + …)). -/
def fxExpm1 (y : Nat) : Nat → Nat → Nat
  | 0, _ => 0
  | n + 1, k => y * (2 ^ fxBits + fxExpm1 y n (k + 1)) / (k * 2 ^ fxBits)

/-- 2^x (R188). -/
def fpExp2 (f : FF) : Num → Nat
  | .nan n fr => nanOf f n fr
  | .inf n => if n then 0 else f.infCode
  | .fin neg m e =>
    let big := decide (2000 ≤ (if 0 ≤ e then m <<< e.toNat else m >>> (-e).toNat))
    if big then roundFin f .rne false false (if neg then ⟨1, -2000, true⟩ else ⟨1, 2000, false⟩)
    else
      -- floor and fraction of x in units of 2^-fxBits (f32 and bf16 fractions have at most 149 bits)
      let x : Int := (if neg then -1 else 1) * ((m <<< (e + fxBits).toNat : Nat) : Int)
      let n := x / (2 ^ fxBits : Nat)
      let fr := (x % (2 ^ fxBits : Nat)).toNat
      if fr = 0 then roundFin f .rne false false ⟨1, n, false⟩
      else
        let y := fr * fxLn2 / 2 ^ fxBits
        roundFin f .rne false false ⟨2 ^ fxBits + fxExpm1 y 120 1, n - fxBits, true⟩

/-- The sum z + z^3/3 + z^5/5 + … in fixed point, `n` terms, `p` the present power. -/
def fxAtanh (z2 : Nat) : Nat → Nat → Nat → Nat
  | 0, _, _ => 0
  | n + 1, p, k => p / k + fxAtanh z2 n (p * z2 / 2 ^ fxBits) (k + 2)

/-- log2 of a positive value (R188); log2 1 is +0. -/
def fpLog2 (f : FF) : Num → Nat
  | .nan n fr => nanOf f n fr
  | .inf n => if n then f.defNan else f.infCode
  | .fin neg m e =>
    if m = 0 then 2 ^ (f.width - 1) + f.infCode
    else if neg then f.defNan
    else
      let l := Nat.log2 m
      let ex : Int := (l : Int) + e
      if m = 2 ^ l then roundNum f .rne false (Num.ofInt ex)
      else
        let t := m <<< (fxBits - l)
        let z := ((t - 2 ^ fxBits) <<< fxBits) / (t + 2 ^ fxBits)
        let ln := 2 * fxAtanh (z * z / 2 ^ fxBits) 140 z 1
        let v : Int := ex * (2 ^ fxBits : Nat) + ((ln <<< fxBits) / fxLn2 : Nat)
        if 0 ≤ v then roundFin f .rne false false ⟨v.toNat, -fxBits, true⟩
        else roundFin f .rne false true ⟨(-v - 1).toNat, -fxBits, true⟩

/-- 1/x, 1/√x, √x (R188). -/
def fpRcp (f : FF) : Num → Nat
  | .nan n fr => nanOf f n fr
  | .inf n => roundNum f .rne false (.fin n 0 0)
  | .fin n m e => if m = 0 then roundNum f .rne false (.inf n) else roundFin f .rne false n (divMag 1 0 m e)
def fpRsq (f : FF) : Num → Nat
  | .nan n fr => nanOf f n fr
  | .inf n => if n then f.defNan else 0
  | .fin n m e =>
    if m = 0 then roundNum f .rne false (.inf n)
    else if n then f.defNan else roundFin f .rne false false (rsqrtMag m e)
def fpSqrt (f : FF) : Num → Nat
  | .nan n fr => nanOf f n fr
  | .inf n => if n then f.defNan else f.infCode
  | .fin n m e =>
    if m = 0 then roundNum f .rne false (.fin n 0 0)
    else if n then f.defNan else roundFin f .rne false false (sqrtMag m e)

/-- Working precision of sine and cosine. -/
def trBits : Nat := 900

/-- arctan(1/q) in fixed point, `n` terms: alternating sum of p / k. -/
def fxAtanInv (q2 : Nat) : Nat → Nat → Nat → Bool → Int
  | 0, _, _, _ => 0
  | n + 1, p, k, minus =>
    let t : Int := (p / k : Nat)
    (if minus then -t else t) + fxAtanInv q2 n (p / q2) (k + 2) (!minus)

/-- π/2 in fixed point: 8 arctan(1/5) − 2 arctan(1/239). -/
def fxHalfPi : Nat :=
  (8 * fxAtanInv 25 210 (2 ^ trBits / 5) 1 false - 2 * fxAtanInv (239 * 239) 70 (2 ^ trBits / 239) 1 false).toNat

/-- Alternating series in fixed point: t − t r²/(k(k+1)) + …, `n` terms. -/
def fxTrig (r2 : Nat) : Nat → Nat → Nat → Bool → Int
  | 0, _, _, _ => 0
  | n + 1, t, k, minus =>
    (if minus then -(t : Int) else t) + fxTrig r2 n (t * r2 / 2 ^ trBits / (k * (k + 1))) (k + 2) (!minus)

/-- sin r and cos r for 0 ≤ r < π/2 in fixed point. -/
def fxSin (r : Nat) : Int := fxTrig (r * r / 2 ^ trBits) 130 r 2 false
def fxCos (r : Nat) : Int := fxTrig (r * r / 2 ^ trBits) 130 (2 ^ trBits) 1 false

/-- sine or cosine in FP32 of an argument in radians, with exact argument reduction (R188). -/
def fpTrig (cosine : Bool) : Num → Nat
  | .nan n fr => nanOf .f32 n fr
  | .inf _ => FF.f32.defNan
  | .fin neg m e =>
    if m = 0 then (if cosine then 0x3F800000 else roundNum .f32 .rne false (.fin neg 0 0))
    else
      let x := m <<< (e + trBits).toNat
      let k := x / fxHalfPi
      let r := x % fxHalfPi
      let q := (k + (if cosine then 1 else 0)) % 4
      let v := if q % 2 = 0 then fxSin r else fxCos r
      let minus := (decide (2 ≤ q)) != (!cosine && neg)
      roundFin .f32 .rne false minus ⟨v.toNat, -trBits, true⟩

end Sys2Proof.Machine
end

