-- ==== Sys2Proof/Machine/Operands.lean ====
section
/-! DEFINITION. Operand forms: how each register type reads an operand and writes a result (R27, R109, R198),
immediates (R71), tags and their fields (R31-R33, R134). -/

namespace Sys2Proof.Machine

/-- Lane width of a type (R109, R198). -/
def laneBits : RType → Nat
  | .s32 | .z32 | .f32 | .vf32 | .vs32 | .vz32 => 32
  | .s64 | .z64 | .b64 => 64
  | .bf16 | .vbf16 => 16

/-- Number of lanes. -/
def laneCount : RType → Nat
  | .vf32 | .vs32 | .vz32 => 16
  | .vbf16 => 32
  | _ => 1

/-- Signed types (R110). -/
def isSigned : RType → Bool
  | .s32 | .s64 | .vs32 => true
  | _ => false

/-- The lane float format of a type. -/
def laneFmt : RType → FF
  | .bf16 | .vbf16 => .bf16
  | _ => .f32

/-- The lanes that a type reads from a value, as raw bits (R27). -/
def readLanes (ty : RType) (v : Val) : List Nat :=
  if ty.isVec then (List.range (laneCount ty)).map (v.lane (laneBits ty))
  else [v.scalar.toNat % 2 ^ laneBits ty]

/-- A scalar of a type as a 64-bit token value: s32 is sign-extended, every other type zero-extended (R109, R198). -/
def scalarOut (ty : RType) (x : Nat) : Val :=
  match ty with
  | .s32 => .sc (BitVec.ofNat 64 (wrap 64 (sval 32 x)))
  | _ => .sc (BitVec.ofNat 64 (x % 2 ^ laneBits ty))

/-- The value that a type writes from its lanes (R109, R198). -/
def writeLanes (ty : RType) (xs : List Nat) : Val :=
  if ty.isVec then .vec (vecOf (laneBits ty) xs) else scalarOut ty (xs.headD 0)

/-- One lane function applied to the lanes of one operand, or of two. -/
def lanes1 (ty : RType) (op : Nat → Nat) (a : Val) : Val := writeLanes ty ((readLanes ty a).map op)
def lanes2 (ty : RType) (op : Nat → Nat → Nat) (a b : Val) : Val :=
  writeLanes ty (List.zipWith op (readLanes ty a) (readLanes ty b))

/-- sext(value, 64) of a G word (R71). -/
def GWord.immWord (w : GWord) : Word := w.value.signExtend 64

/-- The right operand of a G word: the immediate, or the right token (R71). -/
def rightOf (w : GWord) (f : Firing) : Val := if w.imm then .sc (GWord.immWord w) else f.rval

/-- Both operand tokens; with an immediate there is no right token. -/
def both (f : Firing) : List (Option Tok) := [f.l, f.r]
def leftOnly (f : Firing) : List (Option Tok) := [f.l]

/-- A G instruction of two operands whose result is DATA computed from both. -/
def binG (s : State) (w : GWord) (op : Val → Val → Val) : Out :=
  fireAs s w.pm w.t0 w.t1 both fun f => s.emit f w.t0 w.t1 .data (op f.lval (rightOf w f))

/-- A G instruction that reads only its left operand. -/
def unG (s : State) (w : GWord) (op : Val → Val) : Out :=
  fireAs s w.pm w.t0 w.t1 leftOnly fun f => s.emit f w.t0 w.t1 .data (op f.lval)

/-! ## Tags (R31-R33) -/

/-- Depth of a tag (R31). -/
def tagDepth (t : Word) : Nat := bits t 60 58

/-- The lowest bit of field `k`: fields are packed downward from bit 57 (R32). -/
def fieldLow (img : List Word) (k : Nat) : Nat := 58 - ((List.range (k + 1)).map (fieldWidth img)).sum

def tagField (img : List Word) (t : Word) (k : Nat) : Nat := (t.toNat >>> fieldLow img k) % 2 ^ fieldWidth img k

/-- The tag with field `k` replaced, the value taken modulo the field's width. -/
def setTagField (img : List Word) (t : Word) (k v : Nat) : Word :=
  let lo := fieldLow img k
  let old := tagField img t k
  BitVec.ofNat 64 (t.toNat - old * 2 ^ lo + v % 2 ^ fieldWidth img k * 2 ^ lo)

def setTagDepth (t : Word) (d : Nat) : Word := BitVec.ofNat 64 (t.toNat - tagDepth t * 2 ^ 58 + d % 8 * 2 ^ 58)

/-- The result of a tag action (R33): the new tag, with the dynamic field whose value the bobbin has still to issue; or
the field number of TAG_DEPTH (R34). -/
def tagAction (img : List Word) (t : Word) (a : Action) (field : Nat) : Except Nat (Word × Option Nat) :=
  let d := tagDepth t
  let f := if field = 7 ∧ (a = .pop ∨ a = .increment) ∧ d ≠ 0 then d - 1 else field
  let dyn := if fieldDynamic img f then some f else none
  match a with
  | .none => .ok (t, none)
  | .push =>
    if f < imgNfields img ∧ f = d then .ok (setTagField img (setTagDepth t (d + 1)) f 0, dyn) else .error f
  | .increment =>
    if f < imgNfields img ∧ f + 1 = d then
      .ok (if fieldDynamic img f then t else setTagField img t f (tagField img t f + 1), dyn)
    else .error f
  | .pop =>
    if f < imgNfields img ∧ f + 1 = d then .ok (setTagDepth (setTagField img t f 0) (d - 1), none) else .error f

/-- The image of a firing's context. -/
def State.imageOf (s : State) (f : Firing) : List Word := (s.cx f.core f.ctx).lau.image

/-! ## Bobbin values (R36-R38) -/

/-- Every tag that something of the context carries: instances in flight and those about to be, tokens, entries, scale
tokens in the island's queues, commands, waiting operations, records (R37). An exit that waits for an allocation has no
new tag yet. -/
def State.liveTags (s : State) (c x : Nat) : List Word :=
  let k := s.core c
  let v := s.cx c x
  v.insts.map (·.tag) ++ v.hInsts.map (·.tag) ++
  (v.insts ++ v.hInsts).filterMap (fun i => (i.exit.filter (·.alloc.isNone)).map (·.tag)) ++
  (v.want.toList.map (·.tag)) ++ (v.hWant.toList.map (·.tag)) ++ (v.trapped.toList.map (·.tag)) ++
  (v.trapped.toList.filterMap fun t => t.exit.map (·.tag)) ++
  (k.fabric.filter (·.ctx == x)).map (·.tok.tag) ++
  k.elems.flatMap (fun e => ((e.store ++ e.ovf).filter (·.ctx == x)).map (·.tok.tag)) ++
  (k.cmds.filter (·.f.ctx == x)).map (·.f.tag) ++ v.pend.map (·.f.tag) ++
  (k.scales.map (·.2.tag)).filter (fun t => bits t 63 61 == x) ++
  ((k.scaleFlights.filter (·.2.f.ctx == x)).map (·.1.tag)) ++
  (k.rbuf.filter (·.ctx == x)).map (·.fr.tag)

/-- Does some live tag hold value `val` in an active field `f` (R37)? -/
def State.carried (s : State) (c x f val : Nat) : Bool :=
  let img := (s.cx c x).lau.image
  (s.liveTags c x).any fun t => f < tagDepth t && tagField img t f == val

/-- The live values of a field: those that something carries (R37, R134). -/
def State.liveSet (s : State) (c x f : Nat) : List Nat :=
  let img := (s.cx c x).lau.image
  (((s.liveTags c x).filter fun t => f < tagDepth t).map fun t => tagField img t f).eraseDups

/-- Does an allocation of field `f` throttle (R38)? -/
def State.throttles (s : State) (c x f : Nat) : Bool :=
  let v := s.cx c x
  let w := fieldWidth v.lau.image f
  let live := s.liveSet c x f
  live.contains (v.bobNext.getD f 0) || (if w < 8 then 2 ^ w else 256) ≤ live.length

/-- Issue the counter's value and advance it (R36). -/
def State.bobAlloc (s : State) (c x f : Nat) : State × Nat :=
  let v := s.cx c x
  let n := v.bobNext.getD f 0
  let w := fieldWidth v.lau.image f
  (s.setCx c x { v with bobNext := v.bobNext.set f ((n + 1) % 2 ^ w), bobLive := (f, n) :: v.bobLive, bobWait := 0 }, n)

/-- Does an exit of the context wait for a value of field `f` (R38)? -/
def Ctx.waitsFor (v : Ctx) (f : Nat) : Bool := (v.insts ++ v.hInsts).any fun i => match i.exit with
  | some e => !e.done && e.alloc == some f
  | none => false

/-- While an exit waits for a value of a field, `bobLive` holds the live values of the field that were not issued too (R134),
so that their retirement is seen (R39). -/
def State.noteLive (s : State) (c x : Nat) : State :=
  let v := s.cx c x
  let new := (List.range 7).flatMap fun f =>
    if v.waitsFor f then ((s.liveSet c x f).filter fun n => !v.bobLive.contains (f, n)).map fun n => (f, n) else []
  if new.isEmpty then s else s.setCx c x { v with bobLive := v.bobLive ++ new }

/-- Values that nothing carries any more retire; when one of the field that an exit waits for does, the throttle count
starts again (R37, R39). -/
def State.retireValues (s : State) (c x : Nat) : State :=
  let s := s.noteLive c x
  let v := s.cx c x
  let gone := v.bobLive.filter fun e => !s.carried c x e.1 e.2
  if gone.isEmpty then s
  else s.setCx c x { v with bobLive := v.bobLive.filter fun e => s.carried c x e.1 e.2,
                            bobWait := if gone.any fun e => v.waitsFor e.1 then 0 else v.bobWait }

end Sys2Proof.Machine
end

