-- ==== Sys2Proof/Machine/Ready.lean ====
section
/-! DEFINITION. Which operand positions an instruction waits for (R57, R120), which instruction an element fires
(R58, R59), taking its operand set (R60, R61), and which instructions of an instance can still fire. -/

namespace Sys2Proof.Machine

/-- The exits, ERET among them (R46, R128, R347). -/
def isExit (i : Instr) : Bool := exitOps.contains i.opcode || i.opcode == 0x1C4

/-- Instructions of format G, beyond those of R120, that read only their left operand (R121, R133, R158, R274, R296, R347,
R348, R350). -/
def leftOnlyOps : List Nat := [0x04E, 0x154, 0x1C4, 0x1C5, 0x1CE, 0x1CF, 0x1D0, 0x1D1, 0x1D2, 0x1D8]

/-- Instructions of formats M and E that read a right operand. -/
def rightOps : List Nat :=
  [0x140, 0x141, 0x142, 0x143, 0x144, 0x145, 0x146, 0x147, 0x148, 0x149, 0x150, 0x151, 0x152, 0x180, 0x18D, 0x18E,
   0x192, 0x195, 0x196, 0x1C3, 0x1C6, 0x1C7, 0x1C9, 0x1CB, 0x1CC, 0x1D4]

/-- Does an instruction read a right operand token? -/
def readsRight (i : Instr) : Bool :=
  match i.form with
  | .g w => !w.imm && !(oneOperandOps.contains i.opcode || leftOnlyOps.contains i.opcode) &&
      (i.opcode != 0x1C1 || w.mode == 1)
  | .m _ | .e _ => rightOps.contains i.opcode
  | .x _ | .step => false

/-- The predicate mode of a word. -/
def pmodeOf (i : Instr) : PMode :=
  match i.form with
  | .g w => w.pm
  | .m w => w.pm
  | .e w => w.pm
  | .x w => w.pm
  | .step => .always

/-- The positions that must hold a token before instruction `idx` of a block fires (R57, R120, R121, R122). -/
def needs (img : List Word) (b : Blk) (idx : Nat) (i : Instr) : List Pos :=
  let left := if isExit i && i.opcode != 0x081 && i.opcode != 0x083 then fed img b idx .left else true
  let pred : Bool := match i with
    | .steer _ => true
    | .merge _ => fed img b idx .pred
    | _ => pmodeOf i != .always
  (if left then [.left] else []) ++ (if readsRight i then [.right] else []) ++ (if pred then [.pred] else [])

/-- The word of instruction `idx` of an instance, on the page of its element (R41). -/
def State.pageWord (s : State) (c x : Nat) (i : Inst) (idx : Nat) : Word :=
  let e := elemAt ((s.cx c x).quadOfBlock i.blk) (idx / 32)
  (((s.elem c e).pages.getD x []).getD (idx % 32) 0)

/-- What an element may fire: the instance, the instruction index, and the instruction or, for a word that fails R107,
its word. -/
structure Ready where
  hdl : Bool
  seq : Nat
  idx : Nat
  tag : Word
  blk : Nat
  needs : List Pos
  what : Except Word Instr

/-- All entries of an element, store before overflow area (R60, R61). -/
def Elem.all (e : Elem) : List Ent := e.store ++ e.ovf

/-- The entry that arrived first. -/
def firstEnt : List Ent → Option Ent
  | [] => none
  | e :: es => match firstEnt es with
    | none => some e
    | some g => if g.arr < e.arr then some g else some e

def Ent.at_ (e : Ent) (x : Nat) (hdl : Bool) (slot : Nat) (p : Pos) (tag : Word) : Bool :=
  !e.held && e.ctx == x && e.hdl == hdl && e.slot == slot && e.pos == p && e.tok.tag == tag

/-- The entry for a position that pairs next: of equal keys, the one that arrived first (R60). -/
def Elem.nextEnt (e : Elem) (x : Nat) (hdl : Bool) (slot : Nat) (tag : Word) (p : Pos) : Option Ent :=
  firstEnt (e.all.filter (·.at_ x hdl slot p tag))

/-- Instances that may still fire: those in flight, and committed ones of which something remains (R57). -/
def Ctx.firing (v : Ctx) : List Inst := v.left ++ v.insts ++ v.hInsts

/-- The instance that a set of entries belongs to: the oldest that sent one of them under its own tag, else the oldest in
flight with the tag (R58, R135). -/
def Ctx.setOwner (v : Ctx) (hdl : Bool) (blk : Nat) (tag : Word) (ents : List Ent) : Option Nat :=
  let all := v.firing.filter fun i => i.hdl == hdl && i.blk == blk && i.tag == tag
  let own := (all.filter fun i => ents.any (·.own == i.seq)).map (·.seq)
  let fly := ((v.strand hdl).filter fun i => i.blk == blk && i.tag == tag).map (·.seq)
  if own.isEmpty then fly.min? else own.min?

/-- Is instruction `idx` of an instance ready on its element (R57)? A word that fails R107 fires on any token (R108); an
exit without operands fires once (R46), when its word is on the element. -/
def State.readyAt (s : State) (c x e : Nat) (i : Inst) (idx : Nat) : Option Ready :=
  let v := s.cx c x
  let el := s.elem c e
  let img := v.lau.image
  let b := blkAt img i.blk
  let w := s.pageWord c x i idx
  let has (p : Pos) : Option Ent := el.nextEnt x i.hdl (idx % 32) i.tag p
  let mine (ps : List Pos) : Bool := v.setOwner i.hdl i.blk i.tag (ps.filterMap has) == some i.seq
  let make (ps : List Pos) (what : Except Word Instr) : Ready := ⟨i.hdl, i.seq, idx, i.tag, i.blk, ps, what⟩
  if !((has .left).isSome || (has .right).isSome || (has .pred).isSome || exitOps.contains (wordOp w) ||
      wordOp w == 0x1C4) then none
  else match elemWord img b idx w with
  | .error _ =>
    match [Pos.left, Pos.right, Pos.pred].find? fun p => (has p).isSome with
    | some p => if mine [p] then some (make [p] (.error w)) else none
    | none => none
  | .ok ins =>
    let ns := needs img b idx ins
    if ns.isEmpty then
      if i.fired.contains idx || el.reconf.any (·.ctx == x) || ((v.strand i.hdl).all (·.seq != i.seq)) then none
      else some (make [] (.ok ins))
    else if (ns.all fun p => (has p).isSome) && mine ns then some (make ns (.ok ins)) else none

/-- Every instruction of one context on one element of which the operand set is there. -/
def State.setsOn (s : State) (c x e : Nat) : List Ready :=
  let v := s.cx c x
  if v.phase = .free then []
  else v.firing.flatMap fun i =>
    if v.quadOfBlock i.blk != quadOf e || (s.elem c e).blks.getD x 0 != i.blk then []
    else
      let n := (blkAt v.lau.image i.blk).icount
      (List.range 32).filterMap fun k =>
        let idx := 32 * posOf e + k
        if idx < n then s.readyAt c x e i idx else none

/-- Output slots of an element that hold a result: one for each firing of which a token has not left (R40; DESIGN CHOICE,
log 94). -/
def Core.slotsUsed (k : Core) (e : Nat) : Nat :=
  ((k.fabric.filter fun fl => fl.src == e && fl.out.isSome).map (·.out)).eraseDups.length

/-- Every ready instruction of one context on one element: its operand set is there, and the element has a free output
slot (R57). -/
def State.readyOn (s : State) (c x e : Nat) : List Ready :=
  if 4 ≤ (s.core c).slotsUsed e then [] else s.setsOn c x e

/-- The oldest result of an element leaves its output slot. -/
def State.leaveSlot (s : State) (c e : Nat) : State :=
  let k := s.core c
  match k.fabric.find? fun fl => fl.src == e && fl.out.isSome with
  | none => s
  | some o => s.setCore c { k with fabric := k.fabric.map fun fl =>
      if fl.src == e && fl.out == o.out then { fl with out := none } else fl }

/-- The lowest sequence number, then the lowest index (R58). -/
def Ready.before (a b : Ready) : Bool := a.seq < b.seq || (a.seq == b.seq && a.idx < b.idx)

def pickReady : List Ready → Option Ready
  | [] => none
  | r :: rs => match pickReady rs with
    | none => some r
    | some q => if q.before r then some q else some r

/-- The contexts other than the present one with something ready (R59). -/
def State.othersReady (s : State) (c e : Nat) : List Nat :=
  let p := (s.elem c e).present
  ((List.range 7).map fun k => (p + 1 + k) % 8).filter fun x => !(s.readyOn c x e).isEmpty

/-- What the element fires next; nothing while a switch is due (R59). -/
def State.pick (s : State) (c e : Nat) : Option Ready :=
  let el := s.elem c e
  if 256 ≤ el.run ∧ s.othersReady c e ≠ [] then none
  else pickReady (s.readyOn c el.present e)

/-- Free one entry. -/
def Elem.free (e : Elem) (t : Ent) : Elem := { e with store := e.store.erase t, ovf := e.ovf.erase t }

/-- The token of an entry; one in the overflow area carries the value bytes that FRAME holds now (R56). -/
def State.entTok (s : State) (c : Nat) (t : Ent) : Tok :=
  match t.base with
  | none => t.tok
  | some b => match t.tok.val with
    | .sc _ => { t.tok with val := .sc (BitVec.ofNat 64 (bytesToNat (Memory.read s.mem (frameAddr c b.1) 8))) }
    | .vec _ => { t.tok with val := .vec (BitVec.ofNat 512 (bytesToNat (Memory.read s.mem (frameAddr c b.1) 64))) }

/-- The entries of the set are freed and the firing carries their tokens (R60); firings in a row are counted while
another context waits (R59). -/
def State.takeSet (s : State) (c e : Nat) (r : Ready) : State × Firing :=
  let x := (s.elem c e).present
  let others := s.othersReady c e
  let slot := r.idx % 32
  let get (p : Pos) (el : Elem) : Option Tok × Elem :=
    if r.needs.contains p then
      match el.nextEnt x r.hdl slot r.tag p with
      | some t => (some (s.entTok c t), el.free t)
      | none => (none, el)
    else (none, el)
  let (l, el) := get .left (s.elem c e)
  let (rt, el) := get .right el
  let (p, el) := get .pred el
  let el := { el with run := if others.isEmpty then 0 else el.run + 1, stall := 0, serial := el.serial + 1 }
  let s := s.setElem c e el
  let s := s.modInst c x r.hdl r.seq fun i => { i with fired := r.idx :: i.fired }
  (s, ⟨c, e, x, r.hdl, r.seq, r.idx, r.tag, r.blk, l, rt, p⟩)

/-- A token takes an entry: of the store, else of the overflow area in FRAME; `none` while both are full (R60-R62). Of the two
lines of an overflow entry the first holds the value (DEDUCED, log 25). -/
def State.enterElem (s : State) (c e : Nat) (t : Ent) : Option State :=
  let el := s.elem c e
  let t := { t with arr := (el.all.map (·.arr + 1)).foldl max 0 }
  if el.store.length < 64 then some (s.setElem c e { el with store := el.store ++ [t] })
  else if 256 ≤ el.ovf.length then none
  else match (s.core c).ovfLines with
    | none => none
    | some b =>
      let bytes := natBytes (if t.tok.val.isVec then 64 else 8) t.tok.val.wide
      let s := { s with mem := Memory.putAll s.mem (place (frameAddr c b.1) bytes) }
      some (s.setElem c e { el with ovf := el.ovf ++ [{ t with base := some b }] })

/-! ## Which instructions of an instance can still fire -/

/-- An instruction of an instance with the positions it needs. -/
structure WordAt where
  idx : Nat
  i : Instr
  needs : List Pos

/-- The instructions of an instance whose words pass R107. -/
def State.words (s : State) (c x : Nat) (i : Inst) : List WordAt :=
  let img := (s.cx c x).lau.image
  let b := blkAt img i.blk
  (List.range b.icount).filterMap fun k => match elemWord img b k (s.pageWord c x i k) with
    | .ok ins => some ⟨k, ins, needs img b k ins⟩
    | .error _ => none

def targetsNaming (ts : Target × Target) (idx : Nat) (p : Pos) : Bool := Target.names ts.1 idx p || Target.names ts.2 idx p

/-- Instructions that send their token under another tag (R134). -/
def isRetag : Instr → Bool
  | .tagset _ | .taginc _ | .tagin _ | .tagout _ => true
  | _ => false

/-- Can a token still come to a position of an instance from somewhere other than its unfired instructions: one that is
there or in the fabric, a frame read, a waiting operation other than `but`, a command, a retagged token (R135)? -/
def State.comes (s : State) (c x : Nat) (i : Inst) (but : Nat) (idx : Nat) (p : Pos) : Bool :=
  let v := s.cx c x
  let k := s.core c
  let img := v.lau.image
  let b := blkAt img i.blk
  let e := elemAt (v.quadOfBlock i.blk) (idx / 32)
  (s.elem c e).all.any (·.at_ x i.hdl (idx % 32) p i.tag) ||
  k.fabric.any (fun fl => fl.ctx == x && fl.hdl == i.hdl && fl.tok.tag == i.tag && fl.dest == .pos e (idx % 32) p) ||
  ((rdDescs img b).mapIdx (fun n d => (n, d))).any (fun d => !i.reads.contains d.1 &&
    targetsNaming (d.2.t0, d.2.t1) idx p) ||
  v.pend.any (fun q => q.f.hdl == i.hdl && q.f.seq == i.seq && q.f.idx != but &&
    targetsNaming (instrTargets q.i) idx p) ||
  k.cmds.any (fun m => m.f.ctx == x && m.f.hdl == i.hdl && m.f.seq == i.seq && !m.orphan && m.st != .finished &&
    targetsNaming (instrTargets m.i) idx p) ||
  ((v.strand i.hdl).filter fun o => o.seq < i.seq && o.blk == i.blk).any (fun o =>
    (s.words c x o).any fun w => isRetag w.i && !o.fired.contains w.idx && targetsNaming (instrTargets w.i) idx p)

/-- One round of the search: the unfired words each of whose positions a token can come to. -/
def aliveStep (ws : List WordAt) (ext : Nat → Pos → Bool) (alive : List Nat) : List Nat :=
  (ws.filter fun w => w.needs.all fun p => ext w.idx p ||
    ws.any fun o => alive.contains o.idx && targetsNaming (instrTargets o.i) w.idx p).map (·.idx)

def aliveIter (ws : List WordAt) (ext : Nat → Pos → Bool) : Nat → List Nat
  | 0 => []
  | n + 1 => aliveStep ws ext (aliveIter ws ext n)

/-- The unfired instructions of an instance that can still fire, given that firing `but` sends nothing. -/
def State.alive (s : State) (c x : Nat) (i : Inst) (but : Nat) : List WordAt :=
  let ws := (s.words c x i).filter fun w => !i.fired.contains w.idx && w.idx != but
  let ok := aliveIter ws (s.comes c x i but) ws.length
  ws.filter fun w => ok.contains w.idx

end Sys2Proof.Machine
end

