-- ==== Sys2Proof/Machine/Order.lean ====
section
/-! DEFINITION. Strand order (R147): where an access stands, what must happen before it (R147-R149, R152, R155, R324). -/

namespace Sys2Proof.Machine

/-- What an instruction is to strand order. -/
inductive MemKind where
  | load | store | atomic | fence | widen | none
  deriving DecidableEq, Repr

def memKind : Instr → MemKind
  | .ld _ | .lds _ | .ldx _ | .kvmap _ | .replay _ => .load
  | .st _ | .sts _ | .stx _ | .logrec _ => .store
  | .aadd _ | .aand _ | .acas _ | .afadd _ | .amax _ | .amin _ | .aor _ | .atset _ | .axchg _ | .axor _ | .kvapp _ =>
    .atomic
  | .fence _ => .fence
  | .widen _ => .widen
  | _ => .none

def mwordOf (i : Instr) : Option MWord :=
  match i.form with
  | .m w => some w
  | _ => none

/-- The place within an instance: one more than the LSID; the read of SKSET comes before every access of its own
instance (R275), and so do those of CFGLOAD and LAUNCH, which carry no LSID (DEDUCED, log 93). -/
def placeOf (i : Instr) : Nat :=
  match mwordOf i with
  | some w => w.lsid.toNat + 1
  | none => 0

/-- Acquire and release bits of the order field (R73). -/
def MWord.acq (w : MWord) : Bool := w.order.toNat.testBit 0
def MWord.rel (w : MWord) : Bool := w.order.toNat.testBit 1

/-- Is it a load, atomic or FENCE with an acquire part (R149, R154, R155), or CFGLOAD, whose reads are acquire loads (R99)? -/
def isAcquire (i : Instr) : Bool :=
  match memKind i, mwordOf i, i with
  | .load, some w, _ | .atomic, some w, _ | .fence, some w, _ => MWord.acq w
  | _, _, .cfgload _ => true
  | _, _, _ => false

/-- Is it a load or atomic for R148 and R155? SKSET and CFGLOAD read as loads do (R99, R275). -/
def reads (i : Instr) : Bool :=
  memKind i == .load || memKind i == .atomic || match i with
  | .skset _ | .cfgload _ => true
  | _ => false

def isReplay (i : Instr) : Bool :=
  match i with
  | .replay _ => true
  | _ => false

/-- (sequence number, place) in strand order. -/
def precedes (a b : Nat × Nat) : Bool := a.1 < b.1 || (a.1 == b.1 && a.2 < b.2)

def Pend.at_ (q : Pend) : Nat × Nat := (q.f.seq, placeOf q.i)

/-- Instances of the firing's strand up to its own, oldest first. -/
def State.upTo (s : State) (f : Firing) : List Inst :=
  ((s.cx f.core f.ctx).strand f.hdl).filter fun i => i.seq ≤ f.seq

/-- The store mask of an instance's block. -/
def State.smaskOf (s : State) (c x : Nat) (i : Inst) : Nat := (blkAt (s.cx c x).lau.image i.blk).smask

/-- The place after every access of an instance. -/
def lastPlace : Nat := 1000

/-- Has every store and atomic that precedes a place been counted (R147)? -/
def State.storesCounted (s : State) (f : Firing) (place : Nat) : Bool :=
  (s.upTo f).all fun i => (List.range 32).all fun k =>
    !(s.smaskOf f.core f.ctx i).testBit k || i.counted.toNat.testBit k || !precedes (i.seq, k + 1) (f.seq, place)

/-- Instances up to the firing's own, with those that have committed and of which something can still fire (log 4). -/
def State.upToLeft (s : State) (f : Firing) : List Inst :=
  ((s.cx f.core f.ctx).left.filter fun i => i.hdl == f.hdl && i.seq ≤ f.seq) ++ s.upTo f

/-- Is an instruction that `p` picks, and that precedes a place, unfired and able to fire? Instructions that the firing's
own result could feed are not waited for. -/
def State.unfired (s : State) (f : Firing) (place : Nat) (p : Instr → Bool) : Bool :=
  (s.upToLeft f).any fun i =>
    let cand (w : WordAt) : Bool := p w.i && !i.fired.contains w.idx && precedes (i.seq, placeOf w.i) (f.seq, place)
    (s.words f.core f.ctx i).any cand &&
      (s.alive f.core f.ctx i (if i.seq = f.seq then f.idx else 1000)).any cand

/-- Is an operation that `p` picks, and that precedes a place, waiting? -/
def State.pending (s : State) (f : Firing) (place : Nat) (p : Pend → Bool) : Bool :=
  (s.cx f.core f.ctx).pend.any fun q => q.f.hdl == f.hdl && !(q.f.seq == f.seq && q.f.idx == f.idx) && p q &&
    precedes q.at_ (f.seq, place)

/-- Is an operation that `p` picks, and that precedes a place, still to come or waiting? -/
def State.stillComing (s : State) (f : Firing) (place : Nat) (p : Instr → Bool) : Bool :=
  s.pending f place (fun q => p q.i) || s.unfired f place p

/-- Has a FENCE of the firing's strand performed its acquire part (R155)? Its release part may still hold its output. -/
def State.acqDone (s : State) (q : Pend) : Bool := (s.instOf q.f).any fun i => i.acq.contains q.f.idx

/-- Does a channel read of an instance act as an acquire (R156, R333): one that consumes the entry, or any of a widened
channel? -/
def Ctx.readAcquires (v : Ctx) (r : RdDesc) : Bool := v.fifos.any fun q => q.slot == r.slot && (r.last || q.widened)

/-- Is a channel read that acts as an acquire still to be delivered to an instance up to the firing's own? It comes
before every access of its instance. -/
def State.channelWaits (s : State) (f : Firing) : Bool :=
  let v := s.cx f.core f.ctx
  (s.upTo f).any fun i =>
    ((rdDescs v.lau.image (blkAt v.lau.image i.blk)).mapIdx fun n r => (n, r)).any fun d =>
      !i.reads.contains d.1 && v.readAcquires d.2

/-- Is an acquire load, atomic or FENCE part that precedes a place still to be performed (R149, R155)? -/
def State.acquiresToCome (s : State) (f : Firing) (place : Nat) : Bool :=
  s.pending f place (fun q => isAcquire q.i && !s.acqDone q) || s.unfired f place isAcquire

/-- Must an access wait for an acquire that precedes it (R149, R155, R333)? -/
def State.acqWaits (s : State) (f : Firing) (place : Nat) : Bool := s.acquiresToCome f place || s.channelWaits f

/-- Must a FENCE or WIDEN wait for loads and atomics that precede it (R155, R156)? -/
def State.returnsWait (s : State) (f : Firing) (place : Nat) : Bool := s.stillComing f place reads

/-- Is a waiting access held back because its port is frozen by an access that is older in stream order (R252)? -/
def State.heldBack (s : State) (f : Firing) (place : Nat) : Bool :=
  (s.cx f.core f.ctx).pend.any fun q => match q.st with
    | .frozen n => n == portOf f.elem && precedes q.at_ (f.seq, place)
    | _ => false

/-- The stores of a strand that precede a place, each with its own place; those made visible already do not count. -/
def State.storesBefore (s : State) (c x : Nat) (hdl : Bool) (at_ : Nat × Nat) : List ((Nat × Nat) × BStore) :=
  ((s.cx c x).strand hdl).flatMap fun i =>
    (i.stores.filter fun b => !b.shown && precedes (i.seq, b.lsid + 1) at_).map fun b => ((i.seq, b.lsid + 1), b)

/-- Does a buffered store write a byte, and as what: a value, or a copy of another byte (R280)? -/
def BStore.writes (b : BStore) (pa : Nat) : Option (Except Nat Byte) :=
  match lastWrite b.bytes pa with
  | some v => some (.ok v)
  | none => match (List.zip b.copyDst b.copySrc).find? (·.1 == pa) with
    | some d => some (.error d.2)
    | none => none

/-- What a strand reads of a byte that no in-flight store of its writes: the CACHE line or the coherence point (R320). -/
def State.readStrand (s : State) (c pa : Nat) : Byte := s.readCached c pa

/-- What an island of core `c` reads (R321): a dirty byte of its CACHE, else the coherence point. -/
def State.readEngine (s : State) (c pa : Nat) : Byte := s.readIsland c pa

/-- What a byte was to an access at a place, when accesses that follow it have been performed before it (R147, R325): the
nearest of them tells. -/
def State.pastByte (s : State) (c x : Nat) (hdl : Bool) (at_ : Nat × Nat) (pa : Nat) : Option Byte :=
  let mine := (s.cx c x).past.filter fun e => e.hdl == hdl && e.pa == pa && !precedes at_ e.lo && precedes at_ e.hi
  (mine.foldl (fun (m : Option Past) e => match m with
    | none => some e
    | some g => if precedes e.hi g.hi then some e else some g) none).map (·.val)

/-- What a load at a place reads of one byte, with the place of the store that it takes it from: the latest in-flight store
to it that precedes the place, else what the memory holds (R147, R320), or held for accesses at that place. -/
def State.byteAt (s : State) (c x : Nat) (hdl : Bool) : Nat → Nat × Nat → Nat → (Nat × Nat) × Byte
  | 0, at_, pa => ((0, 0), (s.pastByte c x hdl at_ pa).getD (s.readStrand c pa))
  | n + 1, at_, pa =>
    let hits := (s.storesBefore c x hdl at_).filterMap fun e => (e.2.writes pa).map fun v => (e.1, v)
    let last := hits.foldl (fun (m : Option ((Nat × Nat) × Except Nat Byte)) h => match m with
      | none => some h
      | some g => if precedes h.1 g.1 then some g else some h) none
    match last with
    | none => ((0, 0), (s.pastByte c x hdl at_ pa).getD (s.readStrand c pa))
    | some (p, .ok v) => (p, v)
    | some (p, .error src) => (p, (s.byteAt c x hdl n p src).2)

/-- What the firing's load reads of one byte, and the place of the store that it comes from. -/
def State.loadFrom (s : State) (f : Firing) (place pa : Nat) : (Nat × Nat) × Byte :=
  s.byteAt f.core f.ctx f.hdl (((s.upTo f).map fun (i : Inst) => i.stores.length).sum + 1) (f.seq, place) pa
def State.loadByte (s : State) (f : Firing) (place pa : Nat) : Byte := (s.loadFrom f place pa).2

end Sys2Proof.Machine
end

