-- ==== Sys2Proof/Machine/Access.lean ====
section
/-! DEFINITION. Accesses through the selvage ports (R137-R150): spans, conversion between memory and lanes, the start
of loads and stores, what a failed check comes to. -/

namespace Sys2Proof.Machine

/-- Element size of a format (R143). -/
def fmtBytes : Fmt → Nat
  | .b8 | .s8 | .z8 | .e4m3 | .e5m2 | .tf8 => 1
  | .b16 | .s16 | .z16 | .bf16 | .f16 => 2
  | .b32 | .f32 => 4
  | .b64 => 8
  | .line64 => 64

/-- Bytes of an access (R143), and its alignment (R139): the element size, 64 for line64. -/
def spanBytes (ty : RType) (f : Fmt) : Nat := if f = .line64 then 64 else laneCount ty * fmtBytes f

/-- A little-endian number at byte `o` of a byte list. -/
def bytesNat (bs : List Byte) (o n : Nat) : Nat := bytesToNat ((bs.drop o).take n)

/-- The token value that a load makes of its bytes (R144). -/
def loadValue (ty : RType) (fm : Fmt) (scale : Nat) (bs : List Byte) : Val :=
  if fm = .line64 then .vec (BitVec.ofNat 512 (bytesNat bs 0 64))
  else
    let es := fmtBytes fm
    writeLanes ty ((List.range (laneCount ty)).map fun i =>
      let x := bytesNat bs (es * i) es
      match FF.ofFmt fm with
      | some ff => fpMul (laneFmt ty) .rne false (ff.decode x) (FF.f32.decode scale)
      | none =>
        let signed := match fm with
          | .s8 | .s16 => true
          | .z8 | .z16 => false
          | _ => isSigned ty
        wrap (laneBits ty) (if signed then sval (8 * es) x else x))

/-- The bytes that a store makes of its data (R145). -/
def storeBytes (ty : RType) (fm : Fmt) (sat : Bool) (scale : Nat) (v : Val) : List Byte :=
  if fm = .line64 then (readLanes ty v).flatMap (natBytes (laneBits ty / 8))
  else
    let es := fmtBytes fm
    (readLanes ty v).flatMap fun x =>
      natBytes es <| match FF.ofFmt fm with
        | some ff => fpDiv ff .rne sat ((laneFmt ty).decode x) (FF.f32.decode scale)
        | none =>
          let n : Int := if isSigned ty then sval (laneBits ty) x else x
          let signed := match fm with
            | .s8 | .s16 => true
            | .z8 | .z16 => false
            | _ => isSigned ty
          if sat && 8 * es < laneBits ty then wrap (8 * es) (clampInt signed (8 * es) n) else wrap (8 * es) n

/-- 1.0 as f32. -/
def oneF32 : Nat := 0x3F800000

/-- The scale of an address-and-scale pair (R142): bits 95:64 of a vector, else 1.0. -/
def pairScale (v : Val) : Nat :=
  match v with
  | .vec x => bits x 95 64
  | .sc _ => oneF32

/-- The effective address of a word (R139). -/
def MWord.ea (w : MWord) (f : Firing) : Nat := effAddr f.lval.scalar.toNat w.offset.toInt
/-- The PAD byte address of LDS and STS (R139). -/
def MWord.padEa (w : MWord) (f : Firing) : Nat := wrap 64 (f.lval.scalar.toNat + w.offset.toInt)

def MWord.span (w : MWord) : Nat := spanBytes w.ty w.fmt

/-- Can the firing's port take an access now (R250, R252)? -/
def State.portTakes (s : State) (f : Firing) : Bool :=
  let p := portOf f.elem
  !(s.isFrozen f.core p f.ctx || s.portFull f.core p)

/-- A check of a word's span in virtual or physical space, and in PAD. -/
def State.checkMem (s : State) (f : Firing) (w : MWord) (k : AKind) : Except AccErr (List Nat) :=
  s.check f.core k (MWord.ea w f) (MWord.span w) (fmtBytes w.fmt)
def State.checkMemPad (s : State) (f : Firing) (w : MWord) : Except AccErr (List Nat) :=
  s.checkPad f.core (MWord.padEa w f) (MWord.span w) (fmtBytes w.fmt)

/-- The port of an element, which is an island, emits a result (R16, R244). -/
def State.emitPort (s : State) (f : Firing) (t0 t1 : Target) (k : Kind) (v : Val) : State :=
  s.emitFrom (srcPort f.elem) f t0 t1 k v

/-- A performed operation emits its result at its port, unless its instance was squashed (R331). -/
def State.emitAfter (s : State) (q : Pend) (t0 t1 : Target) (k : Kind) (v : Val) : State :=
  if q.sseq = 1 then s else s.emitPort q.f t0 t1 k v

/-- A failed check of something that returns a token (R141): it waits at the frozen port, or emits CHAFF or FAULT. -/
def State.readFails (s : State) (i : Instr) (f : Firing) (lsid : Nat) (e : AccErr) (k : AKind) : State :=
  let p := portOf f.elem
  let (t0, t1) := instrTargets i
  match s.accessFails f p p lsid e 0 k with
  | (s, .frozen) => s.addPend ⟨i, f, .frozen p, 0⟩
  | (s, .chaff) => s.emitPort f t0 t1 .chaff (.sc 0)
  | (s, .fault n) => s.emitPort f t0 t1 .fault (faultVal n)

/-- A failed check of a store (R141): it waits at the frozen port, counts as nulled, or marks its instance. -/
def State.writeFails (s : State) (i : Instr) (f : Firing) (lsid : Nat) (e : AccErr) : State :=
  let p := portOf f.elem
  match s.accessFails f p p lsid e 0 .store with
  | (s, .frozen) => s.addPend ⟨i, f, .frozen p, 0⟩
  | (s, .chaff) => s.countLsid f lsid
  | (s, .fault n) => s.mark f (faultVal n)

/-- A load fires (R146): the translations are made, then its checks, and it returns later. -/
def startLoad (s : State) (i : Instr) (w : MWord) (ops : Firing → List (Option Tok))
    (chk : State → Firing → Except AccErr (List Nat)) (vas : Firing → List Nat) : Out :=
  fireAs s w.pm w.t0 w.t1 ops fun f =>
    if !s.portTakes f || s.walkStalls f.core (vas f) then s.hold i f
    else
      let s := s.fillTlb f.core (vas f)
      match chk s f with
      | .ok pas => s.addPend ⟨i, f, .load pas [], 0⟩
      | .error e => s.readFails i f w.lsid.toNat e .load

/-- What a store or atomic that makes no access comes to: it counts as nulled (R28, R29, R146, R153); a FAULT marks the
instance (R30). -/
def State.nulled (s : State) (f : Firing) (lsid : Nat) (k : Kind) (v : Val) : State :=
  let s := s.countLsid f lsid
  if k.isFault then s.mark f v else s

/-- A store fires (R146): the translations are made, then its checks, and it is buffered until its instance commits. -/
def startStore (s : State) (i : Instr) (w : MWord) (ops : Firing → List (Option Tok)) (vas : Firing → List Nat)
    (run : State → Firing → State) : Out :=
  withSel s fun f =>
    match plan w.pm f (ops f) with
    | .absorb => .next ((s.countLsid f w.lsid.toNat).absorb f (ops f))
    | .emit k v => .next (s.nulled f w.lsid.toNat k v)
    | .run =>
      if !s.portTakes f || s.walkStalls f.core (vas f) then .next (s.hold i f)
      else .next (run (s.fillTlb f.core (vas f)) f)

/-- Buffer checked bytes under an LSID (R146). -/
def State.buffer (s : State) (f : Firing) (w : MWord) (b : BStore) : State :=
  let s := s.modOwn f fun i => { i with stores := i.stores ++ [b] }
  (s.countLsid f w.lsid.toNat).markLines (b.bytes.map (·.1))

def plainStore (f : Firing) (w : MWord) (bytes : List (Nat × Byte)) : BStore :=
  { idx := f.idx, lsid := w.lsid.toNat, bytes, zero := zeroLines bytes, copySrc := [], copyDst := [], scope := w.scope,
    rel := (MWord.rel w), fence := false, shown := false }

/-- ST, STS and STX after their operands are known to be DATA. -/
def storeRun (i : Instr) (w : MWord) (chk : State → Firing → Except AccErr (List Nat)) (scale : Firing → Nat) (s : State)
    (f : Firing) : State :=
  match chk s f with
  | .ok pas =>
    s.buffer f w
      (plainStore f w (List.zip pas (storeBytes w.ty w.fmt (w.order.toNat.testBit 0) (scale f) f.rval)))
  | .error e => s.writeFails i f w.lsid.toNat e

/-- What a release wrote (R327): the bytes of one at DIE or wider. -/
def State.noteRelease (s : State) (c scope : Nat) (rel : Bool) (l : List (Nat × Byte)) : State :=
  if rel && wideScope scope then { s with rels := l.map (fun x => (x.1, scope, c)) ++ s.rels } else s

/-! ## Writes of units and commands (R315, R322, R326, R404) -/

/-- Is it a streamer command that has been accepted and has not completed? -/
def Cmd.streams (m : Cmd) : Bool := m.port == 33 && (m.st == .accepted || m.st == .started)

/-- How far one step of the machine goes when the bytes of a late write are moved apart: a 16-byte granule (R233, R326); of what
the streamer writes, a whole line of PAD and TILE, whose lines the islands read whole (R236). -/
def Core.unitOf (k : Core) (l : Late) (pa : Nat) : Nat :=
  if !cacheable pa && k.cmds.any fun m => m.streams && m.ord == l.job then 64 else 16

/-- The move `drain`: the granule of the `g`-th byte of a late write reaches memory, when no failed link lies between (R326,
R396). -/
def State.drain (s : State) (c n g : Nat) : State :=
  match (s.core c).late[n]? with
  | none => s
  | some l =>
    if s.linkDown c (l.bytes.map (·.1)) then s
    else s.lateWrite c n fun pa => match l.bytes[g]? with
      | some x => x.1 / (s.core c).unitOf l x.1 == pa / (s.core c).unitOf l x.1
      | none => true

/-- A write by a unit outside the cores at the coherence point (R322, R357); it marks the PAD and TILE lines that it writes
(R224). -/
def State.writeMem (s : State) (l : List (Nat × Byte)) : State := (s.store l).markLines (l.map (·.1))

/-- The writes that engine command `job` makes while it runs, each granule at a time of its own (R243, R326). -/
def State.beginWrites (s : State) (c job : Nat) (l : List (Nat × Byte)) : State :=
  if l.isEmpty then s
  else
    let k := s.core c
    s.setCore c { k with late := k.late ++ [⟨4, job, l, zeroLines l⟩] }

/-- Writes complete at a scope: at PKG or wider each has reached its coherence point; at a narrower one that holds of the
bytes that no CACHE serves, and the parties in the scope see the others (R243, R315), in the lines of the core's CACHE too
(R321). -/
def State.landWrites (s : State) (c scope : Nat) (ws : List Late) : State :=
  let far (pa : Nat) : Bool := scope < 3 && cacheable pa
  let s := ws.foldl (fun s l => s.lateOut c l fun pa => !far pa) s
  let slow := ws.filterMap fun l => ({ l with reach := max 1 scope, job := 0 } : Late).without fun pa => !far pa
  if slow.isEmpty then s
  else
    let all := slow.flatMap (·.bytes)
    let s := (s.settleBytes (all.map (·.1))).cachePut c all false
    let k := s.core c
    s.setCore c { k with late := k.late ++ slow }

/-- The writes of command `job` complete at a scope. -/
def State.endWrites (s : State) (c job scope : Nat) : State :=
  let k := s.core c
  (s.setCore c { k with late := k.late.filter (·.job != job) }).landWrites c scope (k.late.filter (·.job == job))

/-- A write by an island at a scope (R321), made and complete in one step. -/
def State.writeIsland (s : State) (c scope : Nat) (l : List (Nat × Byte)) : State :=
  s.landWrites c scope [⟨4, 0, l, zeroLines l⟩]

/-! ## Stores of a strand -/

/-- Do accesses of a strand that come before a place still have to be made: ones that wait or can still fire? What they read
must not be what is performed before them (R147). -/
def State.readsToCome (s : State) (f : Firing) (place : Nat) : Bool := s.stillComing f place reads

/-- An access at `hi` to some bytes is performed: from here on those before it read what the bytes held, which `old` gives
(R147, R325). -/
def State.remember (s : State) (f : Firing) (lo hi : Nat × Nat) (old : List (Nat × Byte)) : State :=
  let v := s.cx f.core f.ctx
  s.setCx f.core f.ctx { v with past := v.past ++ old.map fun x => ⟨f.hdl, lo, hi, x.1, x.2⟩ }

/-- The same for a write of bytes at a place of the firing's instance, if something could read them. -/
def State.rememberOld (s : State) (f : Firing) (place : Nat) (pas : List Nat) : State :=
  if s.readsToCome f place then s.remember f (0, 0) (f.seq, place) (pas.map fun pa => (pa, s.readStrand f.core pa))
  else s

/-- Bytes of a buffered store become visible at its scope (R48, R320): a release at DIE or wider first writes back CACHE. -/
def State.showBytes (s : State) (f : Firing) (b : BStore) (p : Nat → Bool) : State :=
  let out := b.bytes.filter fun x => p x.1
  let zero := b.zero.filter fun n => b.bytes.all fun x => x.1 / 64 != n || p x.1
  let s := s.rememberOld f (b.lsid + 1) (out.map (·.1))
  let s := if b.rel && wideScope b.scope.code then s.cacheRelease f.core else s
  (s.storeStrand f.core b.scope.code out zero).noteRelease f.core b.scope.code b.rel out

/-- What is left of a buffered store after some of its bytes have become visible. -/
def BStore.less (b : BStore) (p : Nat → Bool) : BStore :=
  let rest := b.bytes.filter fun x => !p x.1
  { b with bytes := rest, shown := rest.isEmpty }

/-- The bytes that a LOGREC copies at its place (R280). -/
def State.copies (s : State) (f : Firing) (b : BStore) : List (Nat × Byte) :=
  List.zip b.copyDst (b.copySrc.map fun pa => s.loadByte f (b.lsid + 1) pa)

/-- A buffered store in the order in which its bytes become visible: the bytes that a LOGREC copies, then its own (R280). -/
def State.unfold (s : State) (f : Firing) (b : BStore) : List BStore :=
  if b.copyDst.isEmpty then [b]
  else
    let l := s.copies f b
    [{ b with bytes := l, zero := zeroLines l, copySrc := [], copyDst := [] }, { b with copySrc := [], copyDst := [] }]

/-- Stores of an instance that become visible before its commit (R152, R155): those that `p` picks, in LSID order, each
at its own scope; they are not written again at commit. -/
def State.showStores (s : State) (f : Firing) (p : BStore → Bool) : State :=
  match s.instOf f with
  | none => s
  | some i =>
    let pick := (List.range 32).flatMap fun k => i.stores.filter fun b => b.lsid == k && !b.shown && p b
    let s := pick.foldl (fun s b => (s.unfold f b).foldl (fun s b => s.showBytes f b fun _ => true) s) s
    let show1 (b : BStore) : BStore := if !b.shown && p b then { b with shown := true } else b
    s.modOwn f fun i => { i with stores := i.stores.map show1 }

end Sys2Proof.Machine
end

