-- ==== Sys2Proof/Machine/Soft.lean ====
section
/-! DEFINITION. Soft-token descriptors and their digest (R273-R276), reading a register behind the older writers
(R273), log records (R279). -/

namespace Sys2Proof.Machine

/-- Byte field of a 512-bit descriptor. -/
def skField (v : Vec) (o n : Nat) : Nat := (v.toNat >>> (8 * o)) % 2 ^ (8 * n)

def skKind (v : Vec) : Nat := skField v 0 1
/-- Flags of a TEXT descriptor, format of the others. -/
def skByte1 (v : Vec) : Nat := skField v 1 1
/-- Dimension of a HIDDEN descriptor, count of a MIXTURE. -/
def skCount (v : Vec) : Nat := skField v 2 2
def skId (v : Vec) : Nat := skField v 4 4
/-- Digest, or the collapsed-from digest of a TEXT descriptor. -/
def skDigest (v : Vec) : Nat := skField v 8 8
def skAddr (v : Vec) : Nat := skField v 16 8

/-- The entry pairs of a MIXTURE: token id and weight. -/
def skEntries (v : Vec) : List (Nat × Nat) :=
  (List.range (skCount v)).map fun i => (skField v (16 + 8 * i) 4, skField v (20 + 8 * i) 4)

/-- The digest of words (R276). -/
def digest (ws : List Nat) : Nat := ((ws.mapIdx fun i w => (i + 1) * w).sum + ws.length * 2 ^ 32) % 2 ^ 64

/-- Little-endian 32-bit words of bytes; a last odd half is filled with zero. -/
def words32 (bs : List Byte) : List Nat := (List.range ((bs.length + 3) / 4)).map fun i => bytesNat bs (4 * i) 4

def mkText (id flags origin : Nat) : Vec :=
  BitVec.ofNat 512 (flags % 256 * 2 ^ 8 + id % 2 ^ 32 * 2 ^ 32 + origin % 2 ^ 64 * 2 ^ 64)
def mkHidden (fmt dim dig addr : Nat) : Vec :=
  BitVec.ofNat 512 (1 + fmt * 2 ^ 8 + dim * 2 ^ 16 + dig * 2 ^ 64 + addr % 2 ^ 64 * 2 ^ 128)
/-- A MIXTURE from its entries, with the digest over the entry words (R274, R276). -/
def mkMixture (es : List (Nat × Nat)) : Vec :=
  let ws := es.flatMap fun e => [e.1, e.2]
  BitVec.ofNat 512 (2 + 4 * 2 ^ 8 + es.length * 2 ^ 16 + digest ws * 2 ^ 64 + lanesNat 32 ws * 2 ^ 128)

/-- Bytes per element of a HIDDEN vector. -/
def hiddenEs (fmt : Nat) : Nat := if fmt = 4 then 4 else 2

/-- A descriptor operand after the checks of R275: TEXT and MIXTURE as they are stored, HIDDEN with a vector still to be
read, or invalid. -/
inductive SkIn where
  | value (v : Vec)
  | hidden (fmt dim addr : Nat)
  | invalid
  deriving DecidableEq, Repr

def skCheck (v : Vec) : SkIn :=
  match skKind v with
  | 0 => if 4 ≤ skByte1 v then .invalid
      else .value (mkText (skId v) (skByte1 v) (if (skByte1 v).testBit 0 then skDigest v else 0))
  | 1 => if !(skByte1 v == 4 || skByte1 v == 5) || skCount v = 0 || 16384 < skCount v || skAddr v % 4 ≠ 0 then .invalid
      else .hidden (skByte1 v) (skCount v) (skAddr v)
  | 2 => if skCount v = 0 || 6 < skCount v then .invalid else .value (mkMixture (skEntries v))
  | _ => .invalid

/-! ## Reading a register (R273) -/

/-- Could this instruction write register `r`? COLLAPSE and REPLAY name theirs in an operand. -/
def skWrites (i : Instr) (r : Nat) : Bool :=
  match i with
  | .skset w | .skmix w => w.value.toNat == r
  | .collapse _ | .replay _ => true
  | _ => false

/-- Is the outcome of a writer of an instance still unknown? -/
def State.skOpen (s : State) (c x : Nat) (i : Inst) (r : Nat) : Bool :=
  (s.cx c x).pend.any (fun q => q.f.hdl == i.hdl && q.f.seq == i.seq && skWrites q.i r) ||
  ((s.words c x i).any fun w => skWrites w.i r && !i.fired.contains w.idx) &&
    (s.alive c x i 1000).any fun w => skWrites w.i r

/-- What an instance writes into a register at its commit. -/
def Inst.skPost (i : Inst) (r : Nat) : Option Vec :=
  (i.post.reverse.findSome? fun p => match p with
    | .sk k v => if k = r then some v else none
    | _ => none)

/-- The register as the firing's instance sees it; `none` while an older writer is open. -/
def State.skRead (s : State) (f : Firing) (r : Nat) : Option Vec :=
  if (s.older f).any fun i => s.skOpen f.core f.ctx i r then none
  else some (((s.older f).reverse.findSome? (·.skPost r)).getD ((s.cx f.core f.ctx).sks.getD r 0))

/-! ## Log records (R279) -/

def recKind (b : List Byte) : Nat := bytesNat b 4 1
def recFmt (b : List Byte) : Nat := bytesNat b 5 1
def recCount (b : List Byte) : Nat := bytesNat b 6 2
def recId (b : List Byte) : Nat := bytesNat b 8 8
def recSpill (b : List Byte) : Nat := bytesNat b 16 8
def recFlags (b : List Byte) : Nat := bytesNat b 24 1

/-- Is a record invalid (R281)? -/
def recInvalid (b : List Byte) : Bool :=
  let n := recCount b
  3 < recKind b || (recKind b == 1 && (!(recFmt b == 4 || recFmt b == 5) || n == 0 || 16384 < n)) ||
  (recKind b == 2 && (recFmt b != 4 || n == 0 || 6 < n))

/-- Bytes of the spilled content. -/
def recSpillLen (b : List Byte) : Nat := if recKind b = 1 then recCount b * hiddenEs (recFmt b) else 8 * recCount b

/-- The record made from a register (R280): `spill` and whether there is one are the caller's. -/
def mkRecord (pos : Nat) (v : Vec) (spill : Nat) (hasSpill : Bool) : List Byte :=
  let fl := if hasSpill then 1 else 0
  let (kind, fmt, cnt, id, flags, origin) := match skKind v with
    | 0 => if (skByte1 v).testBit 0 then (3, 0, 0, skId v, if (skByte1 v).testBit 1 then 2 else 0, skDigest v / 256)
        else (0, 0, 0, skId v, 0, 0)
    | 1 => (1, skByte1 v, skCount v, skDigest v, fl, 0)
    | _ => (2, 4, skCount v, skDigest v, fl, 0)
  natBytes 4 pos ++ natBytes 1 kind ++ natBytes 1 fmt ++ natBytes 2 cnt ++ natBytes 8 id ++ natBytes 8 spill ++
  natBytes 1 flags ++ natBytes 7 origin

end Sys2Proof.Machine
end

