-- ==== Sys2Proof/Machine/Mem.lean ====
section
/-! DEFINITION. Loads and stores (R142-R150), FENCE and WIDEN (R155, R156), XLAT (R158), PFETCH and RESIDE (R161), and
LOAD_RETURN (R147). -/

namespace Sys2Proof.Machine

/-- The addresses that an access of a word translates: none when its alignment fails (R140). -/
def MWord.vas (w : MWord) (f : Firing) : List Nat :=
  vasIf (MWord.ea w f) (fmtBytes w.fmt) (MWord.span w)

def execLd (w : MWord) (s : State) : Out :=
  startLoad s (.ld w) w leftOnly (fun s f => s.checkMem f w .load) (MWord.vas w)
def execLdx (w : MWord) (s : State) : Out :=
  startLoad s (.ldx w) w leftOnly (fun s f => s.checkMem f w .load) (MWord.vas w)
def execLds (w : MWord) (s : State) : Out :=
  startLoad s (.lds w) w leftOnly (fun s f => s.checkMemPad f w) fun _ => []

def execSt (w : MWord) (s : State) : Out :=
  startStore s (.st w) w both (MWord.vas w) (storeRun (.st w) w (fun s f => s.checkMem f w .store) fun _ => oneF32)
def execStx (w : MWord) (s : State) : Out :=
  startStore s (.stx w) w both (MWord.vas w)
    (storeRun (.stx w) w (fun s f => s.checkMem f w .store) fun f => pairScale f.lval)
def execSts (w : MWord) (s : State) : Out :=
  startStore s (.sts w) w both (fun _ => []) (storeRun (.sts w) w (fun s f => s.checkMemPad f w) fun _ => oneF32)

/-- The release part of a FENCE or WIDEN, as it stands among the buffered stores. -/
def releaseMark (f : Firing) (w : MWord) (fence : Bool) : BStore := { plainStore f w [] with rel := true, fence }

/-- A FENCE or WIDEN whose trigger is DATA (R155, R156). Its release part takes its place among the buffered stores when
it fires; its acquire part is performed once every preceding load and atomic has returned; it emits when that has happened
and, for a release part, every older instance has committed. CACHE is written back for a release, and invalidated for an
acquire, at DIE or wider (R320). -/
def fenceRun (s : State) (i : Instr) (w : MWord) (fence : Bool) (f : Firing) : State :=
  let wide := wideScope w.scope.code
  let has := ((s.instOf f).map fun n => n.stores.any (·.idx == f.idx)).getD true
  let acquired := (s.instOf f).any fun n => n.acq.contains f.idx
  let s := if (MWord.rel w) && !has then
      s.modOwn f fun n => { n with stores := n.stores ++ [releaseMark f w fence] }
    else s
  if s.returnsWait f (w.lsid.toNat + 1) || (wide && s.dirtyStalls f.core) then s.hold i f
  else
    let s := if (MWord.acq w) && !acquired then
        (if wide then s.cacheAcquire f.core else s).modOwn f fun n => { n with acq := f.idx :: n.acq }
      else s
    if (MWord.rel w) && !s.oldest f then s.hold i f
    else (if wide && (MWord.rel w) then s.cacheRelease f.core else s).emit f w.t0 w.t1 .data f.lval

def execFence (w : MWord) (s : State) : Out := fireAs s w.pm w.t0 w.t1 leftOnly (fenceRun s (.fence w) w true)
def execWiden (w : MWord) (s : State) : Out := fireAs s w.pm w.t0 w.t1 leftOnly (fenceRun s (.widen w) w false)

/-- The physical-address token of a translation (R138, R158). -/
def paToken (gen : BitVec 8) (e : TlbE) (va : Nat) : Val :=
  scNat (3 * 2 ^ 62 + gen.toNat * 2 ^ 54 + (if e.w then 2 ^ 53 else 0) + (e.pbase + (va - e.vbase)) % 2 ^ 52)

/-- XLAT (R158). -/
def execXlat (w : GWord) (s : State) : Out :=
  fireAs s w.pm w.t0 w.t1 leftOnly fun f =>
    let v := f.lval.scalar.toNat
    if !s.portTakes f || s.walkStalls f.core [v] then s.hold (.xlat w) f
    else if isPaToken v then s.emitPort f w.t0 w.t1 .data (.sc f.lval.scalar)
    else
      let s := s.fillTlb f.core [v]
      match s.lookup f.core v with
      | .error .notPresent => s.readFails (.xlat w) f 0 ⟨4, v⟩ .load
      | .error (.memError pa) => s.readFails (.xlat w) f 0 ⟨7, pa⟩ .load
      | .ok e =>
        let pa := e.pbase + (v - e.vbase)
        if !s.ownedBy f.core pa then s.readFails (.xlat w) f 0 ⟨6, pa⟩ .load
        else s.emitPort f w.t0 w.t1 .data (paToken (s.core f.core).xgen e v)

/-- A hint (R161): nothing without CACHE banks; one that would fault is dropped and counted. -/
def hintRun (s : State) (i : Instr) (w : MWord) (stay : Bool) (f : Firing) : State :=
  let ea := MWord.ea w f
  if !s.portTakes f || s.walkStalls f.core (touched ea 1) then s.hold i f
  else if (s.core f.core).split.cache = 0 then s
  else
    let s := s.fillTlb f.core (touched ea 1)
    match s.check f.core .load ea 1 1 with
    | .error _ =>
      let v := s.cx f.core f.ctx
      s.setCx f.core f.ctx { v with ctl := { v.ctl with hintdrop := v.ctl.hintdrop + 1 } }
    | .ok pas =>
      let pa := pas.headD 0
      if !cacheable pa then s
      else if s.linkDown f.core [pa] then s.hold i f
      else
        let s := (s.cacheFill f.core (pa / 64)).llcTake pa
        if !stay then s
        else
          let k := s.core f.core
          s.setCore f.core { k with cache := k.cache.map fun l =>
            if l.line == pa / 64 then { l with resident := true } else l }

/-- The shape of the two hints: they emit nothing, and a FAULT marks the instance (R161). -/
def hint (s : State) (i : Instr) (w : MWord) (stay : Bool) : Out :=
  withSel s fun f =>
    match plan w.pm f [f.l] with
    | .absorb => .next (s.absorb f [f.l])
    | .emit .fault v => .next (s.mark f v)
    | .emit _ _ => .next s
    | .run => .next (hintRun s i w stay f)

def execPfetch (w : MWord) (s : State) : Out := hint s (.pfetch w) w false
def execReside (w : MWord) (s : State) : Out := hint s (.reside w) w true

/-! ## LOAD_RETURN -/

/-- Physical bytes that a waiting atomic will act on, when its check passes. -/
def State.atomicBytes (s : State) (q : Pend) : List Nat :=
  match mwordOf q.i with
  | some w => match s.check q.f.core .atomic (MWord.ea w q.f) (MWord.span w) (fmtBytes w.fmt) with
    | .ok pas => pas
    | .error _ => []
  | none => []

/-- May a waiting access to these bytes at a place be performed (R147, R149, R252, R325, R396)? Waiting loads and atomics
that precede it and touch its bytes come first; so do a KVAPP and a REPLAY, which write bytes that are not known before
(DEDUCED, log 17). A preceding load that can still fire is not waited for: it reads what the bytes were (`State.remember`).
-/
def State.readAllowed (s : State) (f : Firing) (place : Nat) (pas : List Nat) : Bool :=
  !s.heldBack f place && !s.linkDown f.core pas && s.storesCounted f place && !s.acqWaits f place &&
  !s.unfired f place isReplay &&
  !((s.cx f.core f.ctx).pend.any fun q =>
    q.f.hdl == f.hdl && precedes q.at_ (f.seq, place) && match q.st, q.i with
      | .perform, .kvapp _ => true
      | .perform, .replay _ => true
      | .perform, _ => (s.atomicBytes q).any pas.contains
      | .load l _, _ => l.any pas.contains
      | _, _ => false)

/-- What the acquire part of a load or atomic does to CACHE (R320). -/
def State.acquireAt (s : State) (c : Nat) (w : MWord) : State :=
  if (MWord.acq w) && wideScope w.scope.code then s.cacheAcquire c else s

/-- Entry of the write set of an open speculation slot that covers a header (R291): the greatest slot + 1 that it
holds. `W` is a PAD byte address. -/
def State.basted (s : State) (c x h : Nat) : Option (Nat × Nat) :=
  let v := s.cx c x
  ((List.range 4).find? fun k =>
    let sp := v.specs.getD k ⟨false, 0⟩
    let rd (o n : Nat) : Nat := bytesToNat ((List.range n).map fun j => Memory.get s.mem (padAddr c (sp.w + o + j)))
    sp.isOpen && rd 0 8 ≤ h && h < rd 0 8 + 64 * rd 8 2).map fun k => (k, (v.specs.getD k ⟨false, 0⟩).w)

/-- The fill that a context sees for a header whose committed fill is given (R291). -/
def State.seenFill (s : State) (c x h committed : Nat) : Nat :=
  match s.basted c x h with
  | none => committed
  | some (_, w) =>
    let rd (o n : Nat) : Nat := bytesToNat ((List.range n).map fun j => Memory.get s.mem (padAddr c (w + o + j)))
    let hits := (List.range (min (rd 10 1) 64)).filterMap fun k =>
      if rd (64 + 16 * k) 8 = h then some (rd (64 + 16 * k + 8) 1 + 1) else none
    if hits.isEmpty then committed else hits.foldl max 0

/-- Bytes per element of a page format, 0 for an unusable one (R284, R285). -/
def pageEs (fmt : Nat) : Nat := if fmt = 5 then 2 else if fmt = 7 || fmt = 8 then 1 else 0

/-- The result of KVMAP from the bytes of its header (R286): the row address and the scale, or nothing. -/
def kvmapResult (s : State) (f : Firing) (w : MWord) (bs : List Byte) : Option (Val × Val) :=
  let q := f.rval.scalar.toNat
  let h := effAddr (MWord.ea w f) (64 * (q % 2 ^ 32 / 64) : Nat)
  let data := bytesNat bs 0 8
  let owner := bytesNat bs 8 1
  let es := pageEs (bytesNat bs 9 1)
  let fill := s.seenFill f.core f.ctx h (bytesNat bs 10 1)
  let half := (q >>> 32) % 2
  if owner = 0 || 3 ≤ owner || data = 0 || es = 0 || fill ≤ q % 64 then none
  else
    let r := 128 * es
    some (scNat (effAddr data (64 * r * half + r * (q % 64) : Nat)),
      scNat (bytesNat bs (if half = 1 then 16 else 12) 4))

/-- What a returning load emits, given its bytes. -/
def loadEmit (s : State) (q : Pend) (bs : List Byte) : State :=
  let f := q.f
  match q.i with
  | .ld w | .lds w => s.emit f w.t0 w.t1 .data (loadValue w.ty w.fmt oneF32 bs)
  | .ldx w => s.emit f w.t0 w.t1 .data (loadValue w.ty w.fmt (pairScale f.lval) bs)
  | .kvmap w =>
    match kvmapResult s f w bs with
    | none => s.emit f w.t0 w.t1 .null (.sc 0)
    | some (a, b) =>
      let s := if w.t0 = .none then s else s.sendTok f w.t0 0 ⟨f.tag, .data, a⟩
      if w.t1 = .none then s else s.sendTok f w.t1 1 ⟨f.tag, .data, b⟩
  | .skset w =>
    match skCheck (BitVec.ofNat 512 f.lval.wide) with
    | .hidden fmt dim addr =>
      (s.addPost f (.sk w.value.toNat (mkHidden fmt dim (digest (words32 bs)) addr))).emit f w.t0 w.t1 .data (.sc 0)
    | _ => s
  | _ => s

/-- Does a byte that a core reads, in memory or in its CACHE, hold what a release at a scope that covers the core wrote (R319,
R327)? -/
def State.readsRelease (s : State) (c pa : Nat) : Bool :=
  let rels := match (if cacheable pa then (s.core c).findLine (pa / 64) else none) with
    | some l => l.rels
    | none => s.rels
  rels.any fun r => r.1 == pa && (3 ≤ r.2.1 || dieOf r.2.2 == dieOf c)

/-- The acquire part of a returning load. A plain load that reads what a release made visible acts on CACHE in the same way,
since what depends on it sees everything that the release made visible (R323; DEDUCED, log 95). -/
def State.acquireOf (s : State) (q : Pend) (pas : List Nat) : State :=
  match mwordOf q.i with
  | some w =>
    if !(MWord.acq w) && pas.any (s.readsRelease q.f.core) then s.cacheAcquire q.f.core else s.acquireAt q.f.core w
  | none => s

/-- Would the acquire part of a load stall on a failed link (R320, R396)? -/
def State.acquireStalls (s : State) (q : Pend) : Bool :=
  (mwordOf q.i).any (fun w => (MWord.acq w) && wideScope w.scope.code) && s.dirtyStalls q.f.core

/-- The firing's load at a place reads bytes: their values, after which the loads before it read no newer ones (R147, R325). -/
def State.loadBytes (s : State) (f : Firing) (place : Nat) (pas : List Nat) : State × List (Nat × Byte) :=
  let got := pas.map fun pa => (pa, s.loadFrom f place pa)
  (if s.readsToCome f place then
      got.foldl (fun s g => s.remember f g.2.1 (f.seq, place) [(g.1, g.2.2)]) s
    else s, got.map fun g => (g.1, g.2.2))

/-- The move `part`: a waiting load of several 16-byte granules reads one of them before it returns (R326). -/
def State.loadPart (s : State) (core ctx k g : Nat) : State :=
  let v := s.cx core ctx
  match v.pend[k]? with
  | some q => match q.st with
    | .load pas got =>
      if !s.readAllowed q.f (placeOf q.i) pas || s.acquireStalls q || (s.badByte core pas).isSome then s
      else
        let now := pas.filter fun pa => pa / 16 == pas.getD g 0 / 16 && !got.any (·.1 == pa)
        let (s, new) := (s.acquireOf q now).loadBytes q.f (placeOf q.i) now
        let v := s.cx core ctx
        s.setCx core ctx { v with pend := v.pend.set k { q with st := .load pas (got ++ new) } }
    | _ => s
  | none => s

/-- A load of core `c` allocates the lines of its bytes (R320, R380). -/
def State.allocLines (s : State) (c : Nat) (pas : List Nat) : State :=
  (pas.filter fun pa => cacheable pa).foldl (fun s pa => (s.cacheFill c (pa / 64)).llcTake pa) s

/-- A load returns with the bytes that it has read and those that it reads now; the access allocates its lines (R320), that
of SKSET, which is no load instruction, none (DEDUCED, log 106). -/
def State.loadReturns (s : State) (core : Nat) (q : Pend) (pas : List Nat) (got : List (Nat × Byte)) : State :=
  let now := pas.filter fun pa => !got.any (·.1 == pa)
  let (s, new) := (s.acquireOf q now).loadBytes q.f (placeOf q.i) now
  let bs := pas.map fun pa => (lastWrite (got ++ new) pa).getD 0
  let s := match q.i with
    | .skset _ => s
    | _ => s.allocLines core pas
  (loadEmit s q bs).relabel core (s.core core).fabric.length (srcPort q.f.elem)

/-- LOAD_RETURN (R147): the bytes of the latest preceding in-flight stores, else what the memory holds; an acquire first
acts on CACHE (R320). A byte that fails by now gives MEM_ERROR (R384). The read of a LAUNCH returns at LAUNCH_RESERVE. -/
def execLoadReturn (core ctx k : Nat) (s : State) : Out :=
  match (s.cx core ctx).pend[k]? with
  | some q => match q.st, q.i with
    | .load _ _, .launch _ => .next s
    | .load pas got, _ =>
      if !s.readAllowed q.f (placeOf q.i) pas || s.acquireStalls q then .next s
      else match s.badByte core pas with
        | some pa =>
          if s.portTakes q.f then .next ((s.dropPend core ctx k).readFails q.i q.f (placeOf q.i - 1) ⟨7, pa⟩ .load)
          else .next s
        | none => .next ((s.dropPend core ctx k).loadReturns core q pas got)
    | _, _ => .next s
  | none => .next s

end Sys2Proof.Machine
end

