-- ==== Sys2Proof/Machine/Atomics.lean ====
section
/-! DEFINITION. The ten atomics (R151-R154) and ATOMIC_PERFORM. -/

namespace Sys2Proof.Machine

/-- Emit the results kept for a replay: one to both targets, or one to each (R152, R256). -/
def State.emitKept (s : State) (f : Firing) (t0 t1 : Target) (k : Kept) : State :=
  match k.out with
  | [a, b] =>
    let s := if t0 = .none then s else s.sendTok f t0 0 ⟨f.tag, a.1, a.2⟩
    if t1 = .none then s else s.sendTok f t1 1 ⟨f.tag, b.1, b.2⟩
  | a :: _ => s.emit f t0 t1 a.1 a.2
  | [] => s

/-- An atomic fires: nulled (R153, R29), answered from its kept result on a replay (R152), or waiting to be performed. -/
def startAtomic (s : State) (i : Instr) (w : MWord) : Out :=
  withSel s fun f =>
    let n := w.lsid.toNat
    match plan w.pm f (both f) with
    | .absorb => .next ((s.countLsid f n).absorb f (both f))
    | .emit k v => .next ((s.nulled f n k v).emit f w.t0 w.t1 k v)
    | .run =>
      match s.keptOf f with
      | some kp => .next ((s.countLsid f n).emitKept f w.t0 w.t1 kp)
      | none => match s.adopt i f with
        | some s => .next (s.countLsid f n)
        | none =>
          if !s.portTakes f then .next (s.hold i f)
          else .next ((s.countLsid f n).addPend ⟨i, f, .perform, 0⟩)

def execAadd (w : MWord) (s : State) : Out := startAtomic s (.aadd w) w
def execAand (w : MWord) (s : State) : Out := startAtomic s (.aand w) w
def execAcas (w : MWord) (s : State) : Out := startAtomic s (.acas w) w
def execAfadd (w : MWord) (s : State) : Out := startAtomic s (.afadd w) w
def execAmax (w : MWord) (s : State) : Out := startAtomic s (.amax w) w
def execAmin (w : MWord) (s : State) : Out := startAtomic s (.amin w) w
def execAor (w : MWord) (s : State) : Out := startAtomic s (.aor w) w
def execAtset (w : MWord) (s : State) : Out := startAtomic s (.atset w) w
def execAxchg (w : MWord) (s : State) : Out := startAtomic s (.axchg w) w
def execAxor (w : MWord) (s : State) : Out := startAtomic s (.axor w) w

/-- New element and result of an atomic on `W` bits, from the old element and the 512 bits of the right operand
(R151); `none` for an instruction that is no atomic of R151. -/
def atomicNew (i : Instr) (ty : RType) (W m r : Nat) : Option (Nat × Nat) :=
  let v := r % 2 ^ W
  let ord (x : Nat) : Int := if isSigned ty then sval W x else x
  match i with
  | .aadd _ => some ((m + v) % 2 ^ W, m)
  | .aand _ => some (m &&& v, m)
  | .aor _ => some (m ||| v, m)
  | .axor _ => some (m ^^^ v, m)
  | .amax _ => some (if ord m < ord v then v else m, m)
  | .amin _ => some (if ord v < ord m then v else m, m)
  | .axchg _ => some (v, m)
  | .acas _ => some (if m = v then (r >>> W) % 2 ^ W else m, m)
  | .atset _ => some (m ||| 2 ^ (v % W), (m >>> (v % W)) % 2)
  | .afadd _ => some (fpAdd .f32 .rne false (FF.f32.decode m) (FF.f32.decode v), m)
  | _ => none

/-- The result token: signed types sign-extend the old element (R109, R151). -/
def atomicVal (ty : RType) (W x : Nat) : Val := scNat (if isSigned ty then wrap 64 (sval W x) else x)

/-- The FENCEs with a release part of an instance that can still fire: LSID and scope. -/
def State.fencesToCome (s : State) (f : Firing) (i : Inst) : List (Nat × Scope) :=
  (s.alive f.core f.ctx i f.idx).filterMap fun w => match w.i with
    | .fence m => if MWord.rel m then some (m.lsid.toNat, m.scope) else none
    | _ => none

/-- Does a buffered store touch some bytes? -/
def BStore.touches (b : BStore) (pas : List Nat) : Bool :=
  b.bytes.any (fun x => pas.contains x.1) || b.copyDst.any pas.contains

/-- The places, one more than the LSID, of the releases that come about just before an atomic acts on some bytes (R148, R152,
R155): the release stores of its instance below it that touch them, and the FENCEs with a release part below it. -/
def releasesBelow (i : Inst) (toCome : List (Nat × Scope)) (lsid : Nat) (pas : List Nat) : List Nat :=
  ((i.stores.filter fun b => !b.shown && b.lsid < lsid && (b.fence || (b.rel && b.touches pas))).map (·.lsid) ++
    (toCome.map (·.1)).filter (· < lsid)).map (· + 1)

/-- Stores of the own instance that become visible just before an atomic at a place (R152): those that one of these releases
covers, those that a release atomic covers, and those that touch its bytes. -/
def shownBy (i : Inst) (toCome : List (Nat × Scope)) (lsid : Nat) (rel : Bool) (pas : List Nat) (b : BStore) : Bool :=
  b.lsid < lsid && (rel || (releasesBelow i toCome lsid pas).any (fun g => b.lsid < g) || b.touches pas)

/-- What R152 makes visible before an atomic of the firing's instance acts on `pas`. -/
def State.showBelow (s : State) (f : Firing) (lsid : Nat) (rel : Bool) (pas : List Nat) : State :=
  match s.instOf f with
  | none => s
  | some i =>
    let fs := s.fencesToCome f i
    let s := s.showStores f (shownBy i fs lsid rel pas)
    if fs.any fun g => g.1 < lsid && wideScope g.2.code then s.cacheRelease f.core else s

/-- Must a release store that an atomic makes visible still wait for accesses below it (R148)? -/
def State.shownWaits (s : State) (f : Firing) (lsid : Nat) (pas : List Nat) : Bool :=
  (s.instOf f).any fun i => i.stores.any fun b =>
    b.rel && !b.fence && !b.shown && b.lsid < lsid && b.touches pas && s.returnsWait f (b.lsid + 1)

/-- The LSIDs of the FENCEs with a release part of the firing's instance, fired or to come, below an LSID. -/
def State.fencesBelow (s : State) (f : Firing) (lsid : Nat) : List Nat :=
  match s.instOf f with
  | none => []
  | some i =>
    ((i.stores.filter (·.fence)).map (·.lsid) ++ (s.fencesToCome f i).map (·.1)).filter (· < lsid)

/-- Does an atomic below a FENCE with a release part, which stands below this one, still have to be performed (R155)? -/
def State.fencedAtomic (s : State) (f : Firing) (lsid : Nat) : Bool :=
  (s.fencesBelow f lsid).any fun g => s.stillComing f (g + 1) fun i => memKind i == .atomic

/-- May an atomic that has outlived its instance be performed without it: no store of the instance comes before it, or the
instance is in flight again or will not be (R152, R331)? -/
def State.standsAlone (s : State) (q : Pend) : Bool :=
  let v := s.cx q.f.core q.f.ctx
  q.sseq != 1 || (s.instOf q.f).isSome || v.committed q.f.hdl q.f.seq ||
    (List.range (placeOf q.i - 1)).all fun k => !(blkAt v.lau.image q.f.blk).smask.testBit k

/-- May a waiting atomic, with a release part or without, be performed now (R149, R152, R154, R155, R252)? -/
def State.atomicAllowed (s : State) (q : Pend) (w : MWord) (rel : Bool) (pas : List Nat) : Bool :=
  s.due q && s.standsAlone q && s.readAllowed q.f (placeOf q.i) pas && !s.acquireStalls q &&
  !(rel && wideScope w.scope.code && s.dirtyStalls q.f.core) &&
  (!rel || !s.returnsWait q.f (placeOf q.i)) && !s.fencedAtomic q.f w.lsid.toNat &&
  !s.shownWaits q.f w.lsid.toNat pas

/-- The write of an atomic: it may be a release, and it goes on with one whose value it read (R327). -/
def State.atomicStore (s : State) (c scope : Nat) (rel : Bool) (l : List (Nat × Byte)) : State :=
  let old := s.rels.filter fun r => l.any (·.1 == r.1)
  let s := s.store l
  { s with rels := old ++ s.rels }.noteRelease c scope rel l

/-- The acquire of an atomic: its own acquire part, or that of what depends on it when it read what a release wrote (R323). -/
def State.atomicAcquire (s : State) (c : Nat) (w : MWord) (released : Bool) : State :=
  if released then s.cacheAcquire c else s.acquireAt c w

/-- The action of a checked atomic at the coherence point (R151, R320), with the stores and CACHE lines that come before
it and the acquire that comes after it. -/
def State.atomicAct (s : State) (q : Pend) (w : MWord) (pas : List Nat) : State :=
  let f := q.f
  let wide := wideScope w.scope.code
  let s := s.showBelow f w.lsid.toNat (MWord.rel w) pas
  let s := if (MWord.rel w) && wide then s.cacheRelease f.core else s
  let s := (s.settleBytes pas).cacheForAtomic f.core pas
  let released := pas.any (s.readsRelease f.core)
  let s := s.rememberOld f (placeOf q.i) pas
  let W := 8 * fmtBytes w.fmt
  let m := bytesToNat (pas.map (Memory.get s.mem))
  match atomicNew q.i w.ty W m f.rval.wide with
  | none => s
  | some (x, res) =>
    let l := List.zip pas (natBytes (fmtBytes w.fmt) x)
    let s := (s.atomicStore f.core w.scope.code (MWord.rel w) l).markLines pas
    let s := s.atomicAcquire f.core w released
    let v := atomicVal w.ty W res
    (s.keep f [(.data, v)]).emitAfter q w.t0 w.t1 .data v

/-- The outcome of a failed check of an atomic (R141, R152). One whose instance was squashed leaves nothing: the replay
makes it again. -/
def State.atomicFails (s : State) (q : Pend) (w : MWord) (e : AccErr) : State :=
  let p := portOf q.f.elem
  if q.sseq = 1 then s
  else match s.accessFails q.f p p w.lsid.toNat e 0 .atomic with
    | (s, .frozen) => s.addPend { q with st := .frozen p }
    | (s, .chaff) => s.emitPort q.f w.t0 w.t1 .chaff (.sc 0)
    | (s, .fault n) => (s.mark q.f (faultVal n)).emitPort q.f w.t0 w.t1 .fault (faultVal n)

/-- ATOMIC_PERFORM (R152): the checks of R140 and the action are one step. -/
def execAtomicPerform (core ctx k : Nat) (s : State) : Out :=
  match (s.cx core ctx).pend[k]? with
  | some q => match q.st, mwordOf q.i, memKind q.i, q.i with
    | .perform, some _, .atomic, .kvapp _ => .next s
    | .perform, some w, .atomic, _ =>
      let vas := MWord.vas w q.f
      if !s.atomicAllowed q w (MWord.rel w) (s.atomicBytes q) || s.walkStalls core vas then .next s
      else
        let t := s.fillTlb core vas
        match t.checkMem q.f w .atomic with
        | .ok pas =>
          if s.atomicAllowed q w (MWord.rel w) pas then .next ((t.dropPend core ctx k).atomicAct q w pas) else .next s
        | .error e => if s.portTakes q.f then .next ((t.dropPend core ctx k).atomicFails q w e) else .next s
    | _, _, _, _ => .next s
  | none => .next s

end Sys2Proof.Machine
end

