-- ==== Sys2Proof/Machine/Flags.lean ====
section
/-! DEFINITION. The machine has no flag register and keeps no floating-point flags (R177): a condition is a predicate
token (R29, R116). Here is every rule that computes one: which kind a predicate has, the relations of CMP and FCMP,
truth values, lane masks, and the kind tests. -/

namespace Sys2Proof.Machine

/-- The kind rule of instructions that produce a predicate (R29): FAULT, then CHAFF, then false for NULL or STOPj. -/
def predCombine (ts : List (Option Tok)) : Option (Kind × Val) :=
  match lowestFault ts with
  | some v => some (.fault, v)
  | none =>
    if hasKind .chaff ts then some (.chaff, .sc 0)
    else if (highestStop ts).isSome || hasKind .null ts then some (.data, .sc 0) else none

/-- The shape of the predicate producers. -/
def predG (s : State) (w : GWord) (ops : Firing → List (Option Tok)) (val : Firing → Val) : Out :=
  withSel s fun f =>
    match gate w.pm f with
    | .absorb => .next (s.absorb f (ops f))
    | .emit k v => .next (s.emit f w.t0 w.t1 k v)
    | .fire => match predCombine (ops f) with
      | some (k, v) => .next (s.emit f w.t0 w.t1 k v)
      | none => .next (s.emit f w.t0 w.t1 .data (val f))

/-- 0 or 1 (R116). PAND, POR, PXOR, PNOT, ISSTOP and ISBUB test one truth value or one kind, and emit this under a vector type
too, where the spec does not say what a lane holds (DESIGN CHOICE, log 99). -/
def boolVal (b : Bool) : Val := .sc (if b then 1 else 0)

/-- Bits of a lane mask, lane 0 lowest (R116). -/
def maskNat : List Bool → Nat
  | [] => 0
  | b :: bs => (if b then 1 else 0) + 2 * maskNat bs

/-- A relation over the lanes of a type: a bit for a scalar, a lane mask for a vector (R116). -/
def relate (ty : RType) (rel : Nat → Nat → Bool) (a b : Val) : Val :=
  .sc (BitVec.ofNat 64 (maskNat (List.zipWith rel (readLanes ty a) (readLanes ty b))))

/-- The integer relations of CMP by mode (R117). -/
def intRel (ty : RType) (mode : Nat) (a b : Nat) : Bool :=
  let x : Int := if isSigned ty then sval (laneBits ty) a else a
  let y : Int := if isSigned ty then sval (laneBits ty) b else b
  match mode with
  | 0 => x == y
  | 1 => x != y
  | 2 => decide (x < y)
  | 3 => decide (x ≤ y)
  | 4 => decide (y < x)
  | _ => decide (y ≤ x)

/-- The float relations of FCMP by mode (R117). -/
def floatRel (ty : RType) (mode : Nat) (a b : Nat) : Bool :=
  let x := (laneFmt ty).decode a
  let y := (laneFmt ty).decode b
  let un := x.isNan || y.isNan
  let d := Num.cmp x y
  match mode with
  | 0 => !un && d == 0
  | 1 => un || d != 0
  | 2 => !un && decide (d < 0)
  | 3 => !un && decide (d ≤ 0)
  | 4 => !un && decide (0 < d)
  | 5 => !un && decide (0 ≤ d)
  | 6 => !un
  | _ => un

/-- The truth value of an operand of a predicate operator (R116). -/
def opTruth (o : Option Tok) : Bool :=
  match o with
  | some t => truth t
  | none => false

/-- The kind test of ISSTOP #k and of ISBUB (R119). -/
def isStopAt (k : Nat) (t : Tok) : Bool :=
  match t.kind with
  | .stop j => k ≤ j.val
  | _ => false

def isBubble (t : Tok) : Bool := t.kind == .chaff

end Sys2Proof.Machine
end

