-- ==== Sys2Proof/Machine/Integer.lean ====
section
/-! DEFINITION. Class 0: integer and address arithmetic (R109-R114). -/

namespace Sys2Proof.Machine

/-- A two-operand integer instruction: `op n signed a b` on the raw lanes at width `n` (R109, R110). -/
def intBin (s : State) (w : GWord) (op : Nat → Bool → Nat → Nat → Nat) : Out :=
  binG s w (lanes2 w.ty (op (laneBits w.ty) (isSigned w.ty)))

/-- A one-operand integer instruction (R112). -/
def intUn (s : State) (w : GWord) (op : Nat → Bool → Nat → Nat) : Out :=
  unG s w (lanes1 w.ty (op (laneBits w.ty) (isSigned w.ty)))

/-- A lane read as the type's integer (R109). -/
def toInt (n : Nat) (signed : Bool) (a : Nat) : Int := if signed then sval n a else a

/-- DIV (R111). -/
def divOp (n : Nat) (signed : Bool) (a b : Nat) : Nat :=
  if b = 0 then 2 ^ n - 1 else wrap n (Int.tdiv (toInt n signed a) (toInt n signed b))

/-- REM (R111). -/
def remOp (n : Nat) (signed : Bool) (a b : Nat) : Nat :=
  if b = 0 then a else wrap n (Int.tmod (toInt n signed a) (toInt n signed b))

/-- Count of leading zeros in `n` bits (R112). -/
def clzOp (n a : Nat) : Nat := if a = 0 then n else n - 1 - Nat.log2 a

/-- Number of the lowest set bit among `n` bits; `n` when there is none (R112). -/
def ctzOp (n a : Nat) : Nat := ((List.range n).find? fun i => a.testBit i).getD n

/-- Count of one bits (R112). -/
def popcOp (n a : Nat) : Nat := ((List.range n).filter fun i => a.testBit i).length

/-- Bytes in reverse order (R112). -/
def bswapOp (n a : Nat) : Nat := lanesNat 8 ((natBytes (n / 8) a).reverse.map (·.toNat))

/-- BFEXT (R113): the field of a sign- or zero-extended operand. -/
def bfextOp (n : Nat) (signed : Bool) (lsb w a : Nat) : Nat :=
  let fld := wrap w (toInt n signed a / 2 ^ lsb)
  wrap n (if signed then sval w fld else fld)

/-- BFINS (R113). -/
def bfinsOp (n a b : Nat) : Nat :=
  let lsb := b % 64
  let w := (b >>> 6) % 64 + 1
  let data := (b >>> 12) % 2 ^ 52 % 2 ^ w
  let old := (a >>> lsb) % 2 ^ w
  (a - old * 2 ^ lsb + data * 2 ^ lsb) % 2 ^ n

/-- SEXT and ZEXT (R113). -/
def sextOp (n k a : Nat) : Nat := if n ≤ k then a else wrap n (sval k a)
def zextOp (n k a : Nat) : Nat := if n ≤ k then a else a % 2 ^ k

def execAdd (w : GWord) (s : State) : Out := intBin s w fun n _ a b => (a + b) % 2 ^ n
def execSub (w : GWord) (s : State) : Out := intBin s w fun n _ a b => (a + 2 ^ n - b) % 2 ^ n
def execMul (w : GWord) (s : State) : Out := intBin s w fun n _ a b => a * b % 2 ^ n
def execMulh (w : GWord) (s : State) : Out :=
  intBin s w fun n sg a b => wrap n (toInt n sg a * toInt n sg b / (2 ^ n : Nat))
def execDiv (w : GWord) (s : State) : Out := intBin s w divOp
def execRem (w : GWord) (s : State) : Out := intBin s w remOp
def execMax (w : GWord) (s : State) : Out := intBin s w fun n sg a b => if toInt n sg a < toInt n sg b then b else a
def execMin (w : GWord) (s : State) : Out := intBin s w fun n sg a b => if toInt n sg b < toInt n sg a then b else a
def execAnd (w : GWord) (s : State) : Out := intBin s w fun _ _ a b => a &&& b
def execAndn (w : GWord) (s : State) : Out := intBin s w fun n _ a b => a &&& (2 ^ n - 1 - b)
def execOr (w : GWord) (s : State) : Out := intBin s w fun _ _ a b => a ||| b
def execXor (w : GWord) (s : State) : Out := intBin s w fun _ _ a b => a ^^^ b
def execShl (w : GWord) (s : State) : Out := intBin s w fun n _ a b => a <<< (b % n) % 2 ^ n
def execShr (w : GWord) (s : State) : Out := intBin s w fun n _ a b => a >>> (b % n)
def execSar (w : GWord) (s : State) : Out := intBin s w fun n _ a b => wrap n (sval n a / (2 ^ (b % n) : Nat))
def execRol (w : GWord) (s : State) : Out :=
  intBin s w fun n _ a b => (a <<< (b % n) % 2 ^ n) ||| (a >>> (n - b % n))
def execRor (w : GWord) (s : State) : Out :=
  intBin s w fun n _ a b => (a >>> (b % n)) ||| (a <<< (n - b % n) % 2 ^ n)

def execAbs (w : GWord) (s : State) : Out := intUn s w fun n sg a => wrap n (toInt n sg a).natAbs
def execNeg (w : GWord) (s : State) : Out := intUn s w fun n _ a => (2 ^ n - a) % 2 ^ n
def execClz (w : GWord) (s : State) : Out := intUn s w fun n _ a => clzOp n a
def execCtz (w : GWord) (s : State) : Out := intUn s w fun n _ a => ctzOp n a
def execPopc (w : GWord) (s : State) : Out := intUn s w fun n _ a => popcOp n a
def execBswap (w : GWord) (s : State) : Out := intUn s w fun n _ a => bswapOp n a

def execBfext (w : GWord) (s : State) : Out :=
  intUn s w fun n sg a => bfextOp n sg (bits w.value 5 0) (bits w.value 11 6 + 1) a
/-- BFINS reads its right operand as bits 63:0 under every type (R113). -/
def execBfins (w : GWord) (s : State) : Out :=
  binG s w fun a b => lanes1 w.ty (fun a => bfinsOp (laneBits w.ty) a b.scalar.toNat) a
def execSext (w : GWord) (s : State) : Out := intUn s w fun n _ a => sextOp n w.value.toNat a
def execZext (w : GWord) (s : State) : Out := intUn s w fun n _ a => zextOp n w.value.toNat a

/-- A token passed on with its value and kind (R114, R124). -/
def passLeft (s : State) (w : GWord) : Out :=
  withSel s fun f =>
    match gate w.pm f with
    | .absorb => .next (s.absorb f (leftOnly f))
    | .emit k v => .next (s.emit f w.t0 w.t1 k v)
    | .fire => match f.l with
      | some t => .next (s.emit f w.t0 w.t1 t.kind t.val)
      | none => .next s

def execMov (w : GWord) (s : State) : Out := passLeft s w
/-- MOVI: the immediate read under R109; the left operand is a trigger (R114). -/
def execMovi (w : GWord) (s : State) : Out := unG s w fun _ => lanes1 w.ty (fun a => a) (.sc (GWord.immWord w))
def execMovhi (w : GWord) (s : State) : Out :=
  intUn s w fun n _ a => ((a <<< 27) ||| w.value.toNat) % 2 ^ n
/-- SEL: the left lane where the right lane has a bit set (R114). -/
def execSel (w : GWord) (s : State) : Out := binG s w (lanes2 w.ty fun a b => if b = 0 then 0 else a)
def execLea (w : GWord) (s : State) : Out :=
  intBin s w fun n _ a b => (a + b <<< w.mode.toNat) % 2 ^ n

end Sys2Proof.Machine
end

