-- ==== Sys2Proof/Machine/Token.lean ====
section
/-! DEFINITION. Class 1: predicates and token control (R116-R127), with NOP (R124). -/

namespace Sys2Proof.Machine

def execCmp (w : GWord) (s : State) : Out :=
  predG s w both fun f => relate w.ty (intRel w.ty w.mode.toNat) f.lval (rightOf w f)
def execFcmp (w : GWord) (s : State) : Out :=
  predG s w both fun f => relate w.ty (floatRel w.ty w.mode.toNat) f.lval (rightOf w f)
def execPand (w : GWord) (s : State) : Out := predG s w both fun f => boolVal (opTruth f.l && opTruth f.r)
def execPor (w : GWord) (s : State) : Out := predG s w both fun f => boolVal (opTruth f.l || opTruth f.r)
def execPxor (w : GWord) (s : State) : Out := predG s w both fun f => boolVal (opTruth f.l != opTruth f.r)
def execPnot (w : GWord) (s : State) : Out := predG s w leftOnly fun f => boolVal (!opTruth f.l)

/-- What a firing that the predicate lets through does with its left token; nothing without one. -/
def onLeft (s : State) (w : GWord) (g : Firing → Tok → State) : Out :=
  withSel s fun f =>
    match gate w.pm f with
    | .absorb => .next (s.absorb f (both f))
    | .emit k v => .next (s.emit f w.t0 w.t1 k v)
    | .fire => match f.l with
      | some t => .next (g f t)
      | none => .next s

/-- The kind tests read the kind of any token but a FAULT, which they pass on (R119). -/
def kindTest (s : State) (w : GWord) (test : Tok → Bool) : Out :=
  onLeft s w fun f t =>
    if t.kind.isFault then s.emit f w.t0 w.t1 .fault t.val else s.emit f w.t0 w.t1 .data (boolVal (test t))

def execIsstop (w : GWord) (s : State) : Out := kindTest s w (isStopAt w.value.toNat)
def execIsbub (w : GWord) (s : State) : Out := kindTest s w isBubble

/-- STEER (R121): the predicate is an operand; a FAULT for a none target marks the instance, whatever the other one. -/
def execSteer (w : GWord) (s : State) : Out :=
  withSel s fun f =>
    match f.l, f.p with
    | some t, some p =>
      match lowestFault [f.l, f.p] with
      | some v => .next (s.sendBoth f w.t0 w.t1 ⟨f.tag, .fault, v⟩ ⟨f.tag, .fault, v⟩)
      | none =>
        if p.kind = .chaff then .next (s.sendBoth f w.t0 w.t1 ⟨f.tag, .chaff, .sc 0⟩ ⟨f.tag, .chaff, .sc 0⟩)
        else
          let nul : Tok := ⟨f.tag, .null, .sc 0⟩
          let tok : Tok := ⟨f.tag, t.kind, t.val⟩
          .next (if truth p then s.sendBoth f w.t0 w.t1 tok nul else s.sendBoth f w.t0 w.t1 nul tok)
    | _, _ => .next s

/-- MERGE (R122): the plain form without a predicate token, the selecting form with one. -/
def execMerge (w : GWord) (s : State) : Out :=
  withSel s fun f =>
    match f.l, f.r with
    | some a, some b =>
      match lowestFault [f.l, f.r, f.p] with
      | some v => .next (s.emit f w.t0 w.t1 .fault v)
      | none =>
        match f.p with
        | none =>
          let t := if a.kind = .null then b else a
          .next (s.emit f w.t0 w.t1 t.kind t.val)
        | some p =>
          if p.kind = .chaff then .next (s.emit f w.t0 w.t1 .chaff (.sc 0))
          else
            let t := if truth p then a else b
            .next (s.emit f w.t0 w.t1 t.kind t.val)
    | _, _ => .next s

/-- NULL (R123): every kind but FAULT becomes NULL. -/
def execNull (w : GWord) (s : State) : Out :=
  onLeft s w fun f t =>
    if t.kind.isFault then s.emit f w.t0 w.t1 .fault t.val else s.emit f w.t0 w.t1 .null (.sc 0)

/-- STRIP (R123): STOPj becomes DATA with its value. -/
def execStrip (w : GWord) (s : State) : Out :=
  onLeft s w fun f t => match t.kind with
    | .stop _ => s.emit f w.t0 w.t1 .data t.val
    | k => s.emit f w.t0 w.t1 k t.val

/-- STOP #k (R123): DATA and STOPj become STOPk with their value. -/
def execStop (w : GWord) (s : State) : Out :=
  onLeft s w fun f t => match t.kind with
    | .data | .stop _ => s.emit f w.t0 w.t1 (.stop (Fin.ofNat 4 w.value.toNat)) t.val
    | k => s.emit f w.t0 w.t1 k t.val

/-- SINK (R123): sends nothing; a FAULT marks the instance. -/
def execSink (w : GWord) (s : State) : Out :=
  withSel s fun f =>
    match gate w.pm f with
    | .emit .fault v => .next (s.mark f v)
    | _ => .next (s.absorb f [f.l])

def execNop (w : GWord) (s : State) : Out := passLeft s w

/-- ORDJOIN (R125). -/
def execOrdjoin (w : GWord) (s : State) : Out :=
  onLeft s w fun f t =>
    if t.kind.isFault then
      (match f.r with
        | some r => if r.kind.isFault then s.mark f r.val else s
        | none => s).emit f w.t0 w.t1 .fault t.val
    else match f.r with
      | some r =>
        if r.kind.isFault then s.emit f w.t0 w.t1 .fault r.val
        else if r.kind = .chaff then s.emit f w.t0 w.t1 .chaff (.sc 0)
        else s.emit f w.t0 w.t1 t.kind t.val
      | none => s.emit f w.t0 w.t1 t.kind t.val

/-- The channels of a range (R127). -/
def rangeTargets (lo hi : BitVec 6) : List Target :=
  (List.range (hi.toNat - lo.toNat + 1)).map fun k => .chan (BitVec.ofNat 6 (lo.toNat + k))

/-- ROUTE (R127): one destination takes the left token, the others NULL. -/
def execRoute (w : GWord) (s : State) : Out :=
  onLeft s w fun f t =>
    let sel := (f.r.map (·.val.scalar.toNat)).getD 0
    let dests := match w.t0, w.t1 with
      | .chan lo, .chan hi => rangeTargets lo hi
      | a, b => [a, b]
    let pick := match w.t0, w.t1 with
      | .chan _, .chan _ => min sel (dests.length - 1)
      | _, _ => if sel = 0 then 0 else 1
    let all (k : Kind) (v : Val) : State :=
      if dests.all (· == .none) then s.emit f .none .none k v
      else (dests.mapIdx fun n d => (n, d)).foldl (fun s e =>
        if e.2 = .none then s else s.sendTok f e.2 (min e.1 1) ⟨f.tag, k, v⟩) s
    match lowestFault [f.l, f.r] with
    | some v => all .fault v
    | none =>
      match (f.r.map Tok.kind : Option Kind) with
      | some .chaff => all .chaff (.sc 0)
      | some .null | some (.stop _) => all .null (.sc 0)
      | _ => (dests.mapIdx fun n d => (n, d)).foldl (fun s e =>
          s.sendTok f e.2 (min e.1 1)
            (if e.1 = pick then ⟨f.tag, t.kind, t.val⟩ else ⟨f.tag, .null, .sc 0⟩)) s

/-- A token that a REORDER holds, as an entry of its element's store (R126). -/
def heldEnt (f : Firing) (t : Tok) : Ent := ⟨f.ctx, f.idx % 32, .left, t, f.hdl, f.seq, 0, none, true⟩

/-- The tokens of a group that a REORDER holds. -/
def Group.holds (g : Group) (img : List Word) (fl ctx : Nat) (e : Ent) : Bool :=
  e.held && e.ctx == ctx && e.hdl == g.hdl && e.slot == g.idx % 32 && setTagField img e.tok.tag fl 0 == g.tag

/-- The held token of a group with the next value; of several the one that came first. -/
def State.heldNext (s : State) (f : Firing) (img : List Word) (fl : Nat) (g : Group) : Option Ent :=
  firstEnt ((s.elem f.core f.elem).all.filter fun e => g.holds img fl f.ctx e && tagField img e.tok.tag fl == g.next)

/-- The group after a token with its next value has been emitted. -/
def Group.pass (g : Group) (img : List Word) (fl own : Nat) (k : Kind) : Group :=
  { g with next := (match k with
             | .stop _ => 0
             | _ => (g.next + 1) % 2 ^ fieldWidth img fl),
           passed := (own, g.next) :: g.passed }

/-- Emit the held tokens that are next, at most `n` of them (R126), each for its own instance. -/
def reorderDrain (s : State) (w : GWord) (f : Firing) (img : List Word) (fl : Nat) (g : Group) : Nat → State × Group
  | 0 => (s, g)
  | n + 1 =>
    match s.heldNext f img fl g with
    | none => (s, g)
    | some e =>
      let t := s.entTok f.core e
      let s := s.setElem f.core f.elem ((s.elem f.core f.elem).free e)
      let s := s.emitTok { f with seq := e.own, tag := t.tag } w.t0 w.t1 t
      reorderDrain s w f img fl (g.pass img fl e.own t.kind) n

/-- The group of a REORDER that a tag belongs to; a new one starts at 0 (R126). -/
def Ctx.groupOf (v : Ctx) (f : Firing) (key : Word) : Group :=
  (v.groups.find? fun g => g.hdl == f.hdl && g.blk == f.blk && g.idx == f.idx && g.tag == key).getD
    ⟨f.hdl, f.blk, f.idx, key, 0, []⟩

def Ctx.setGroup (v : Ctx) (g : Group) : Ctx :=
  { v with groups := g :: v.groups.filter fun o =>
      !(o.hdl == g.hdl && o.blk == g.blk && o.idx == g.idx && o.tag == g.tag) }

/-- REORDER #f (R126): the token goes back into the store as a held one, and those that are next are emitted. Its entry
has just been freed, so there is room. -/
def execReorder (w : GWord) (s : State) : Out :=
  onLeft s w fun f t =>
    let fl := w.value.toNat
    if t.kind.isFault || tagDepth f.tag ≤ fl then s.emit f w.t0 w.t1 t.kind t.val
    else
      let img := s.imageOf f
      let g := (s.cx f.core f.ctx).groupOf f (setTagField img f.tag fl 0)
      let s := (s.enterElem f.core f.elem (heldEnt f ⟨f.tag, t.kind, t.val⟩)).getD s
      let (s, g) := reorderDrain s w f img fl g (s.elem f.core f.elem).all.length
      s.setCx f.core f.ctx ((s.cx f.core f.ctx).setGroup g)

end Sys2Proof.Machine
end

