-- ==== Sys2Proof/Machine/Exits.lean ====
section
/-! DEFINITION. Class 2: exits (R46, R128-R132) with their tag actions (R33, R34), and the tag instructions
(R133-R136). -/

namespace Sys2Proof.Machine

/-- Record the exit an instance has taken; while its tag action throttles it is not done (R46). -/
def State.setExit (s : State) (f : Firing) (e : Exit) : State := s.modOwn f fun i => { i with exit := some e }

/-- The exit is done: its block is wanted with the next sequence number (R50). -/
def State.wantNext (s : State) (f : Firing) (e : Exit) : State :=
  match e.start with
  | none => s
  | some b =>
    let v := s.cx f.core f.ctx
    if f.hdl then s.setCx f.core f.ctx { v with hWant := some ⟨b, e.tag, f.seq + 1, e.links⟩ }
    else s.setCx f.core f.ctx { v with want := some ⟨b, e.tag, f.seq + 1, e.links⟩, links := e.links }

/-- A context fault at an exit: the exit does not complete and its instance is marked (R34, R130, R131). -/
def State.exitFault (s : State) (f : Firing) (kind node : Nat) (detail : Word) : State :=
  let (s, num) := s.ctxFault f kind node detail
  (s.setExit f ⟨f.idx, false, none, f.tag, [], none, false, none⟩).mark f (faultVal num)

/-- Why an indirect or returning exit cannot start its block. -/
inductive ExitErr where
  | illegal (node : Nat) (detail : Word)
  | depth (field : Nat)
  deriving DecidableEq, Repr

/-- An exit fires (R46): absorbed when its predicate does not match or is CHAFF, when its operand is NULL, and when
another exit of the instance was taken; a FAULT marks the instance. Otherwise the tag action is applied, `start` gives
the block and the link stack, and the exit is done unless the bobbin throttles. Of several checks that fail, the tag
action comes first, then the target, then the link stack (DEDUCED, log 37). -/
def fireExit (s : State) (w : XWord) (halt : Bool)
    (start : Firing → Inst → Except ExitErr (Option Nat × List Nat)) : Out :=
  withSel s fun f =>
    match gate w.pm f with
    | .absorb => .next (s.absorb f [f.l])
    | .emit .fault v => .next (s.mark f v)
    | .emit _ _ => .next s
    | .fire =>
      match (f.l.map Tok.kind : Option Kind) with
      | some .fault => .next (s.mark f f.lval)
      | some .null => .next s
      | _ =>
        match s.instOf f with
        | none => .next s
        | some i =>
          if i.exit.isSome then .next s
          else match tagAction (s.imageOf f) i.tag w.action w.field.toNat with
            | .error fld => .next (s.exitFault f 9 49 (BitVec.ofNat 64 fld))
            | .ok (tag, dyn) =>
              match start f i with
              | .error (.depth fld) => .next (s.exitFault f 9 49 (BitVec.ofNat 64 fld))
              | .error (.illegal n d) => .next (s.exitFault f 8 n d)
              | .ok (b, links) =>
                let e : Exit := ⟨f.idx, true, b, tag, links, none, halt, none⟩
                match dyn with
                | none => .next ((s.setExit f e).wantNext f e)
                | some fld =>
                  if s.throttles f.core f.ctx fld then
                    .next ((s.setExit f { e with done := false, alloc := some fld }).noteLive f.core f.ctx)
                  else
                    let (s, n) := s.bobAlloc f.core f.ctx fld
                    let e := { e with tag := setTagField (s.imageOf f) tag fld n }
                    .next ((s.setExit f e).wantNext f e)

/-- The block at a word's target offset, in 16-byte units from this block's record (R75). An element fires no direct exit
that names no record of its kind: that word fails as in R108 (`elemWord`), which is what the record here says. -/
def directTarget (s : State) (ins : Instr) (w : XWord) (f : Firing) (i : Inst) : Except ExitErr Nat :=
  let img := s.imageOf f
  match blkAtOff img ((blkAt img i.blk).off + 16 * w.target.toInt) with
  | some b => if (blkAt img b).kind = w.kind.code then .ok b else .error (.illegal 48 (encode ins))
  | none => .error (.illegal 48 (encode ins))

/-- The block at the byte offset that the left operand holds, of the kind that the word names (R105, R130). -/
def indirectTarget (s : State) (w : XWord) (f : Firing) (_i : Inst) : Except ExitErr Nat :=
  let img := s.imageOf f
  let off := f.lval.scalar
  match blkAtOff img (imgBlockoff img + off.toNat : Nat) with
  | some b => if (blkAt img b).kind = w.kind.code then .ok b else .error (.illegal 51 off)
  | none => .error (.illegal 51 off)

/-- The link stack after a call from block `b` (R131). -/
def pushLink (i : Inst) (b : Nat) : Except ExitErr (Option Nat × List Nat) :=
  if 8 ≤ i.links.length then .error (.depth 7) else .ok (some b, (i.blk + 1) :: i.links)

/-- The link popped by a return (R131). -/
def popLink (s : State) (f : Firing) (i : Inst) : Except ExitErr (Option Nat × List Nat) :=
  match i.links with
  | [] => .error (.depth 7)
  | l :: rest =>
    if imgNblocks (s.imageOf f) ≤ l then .error (.illegal 51 (BitVec.ofNat 64 l)) else .ok (some l, rest)

def execBr (w : XWord) (s : State) : Out :=
  fireExit s w false fun f i => (directTarget s (.br w) w f i).map fun b => (some b, i.links)
/-- YIELD is BR; BLOCK_FETCH holds its block back while a take-in or save is pending (R129). -/
def execYield (w : XWord) (s : State) : Out :=
  fireExit s w false fun f i => (directTarget s (.yield w) w f i).map fun b => (some b, i.links)
def execBri (w : XWord) (s : State) : Out :=
  fireExit s w false fun f i => (indirectTarget s w f i).map fun b => (some b, i.links)
def execCall (w : XWord) (s : State) : Out :=
  fireExit s w false fun f i => (directTarget s (.call w) w f i).bind (pushLink i)
/-- CALLI starts a call-entry block (R130). -/
def execCalli (w : XWord) (s : State) : Out :=
  fireExit s w false fun f i => (indirectTarget s w f i).bind fun b =>
    if (blkAt (s.imageOf f) b).kind = 2 then pushLink i b else .error (.illegal 51 f.lval.scalar)
def execRet (w : XWord) (s : State) : Out := fireExit s w false (popLink s)
/-- HALT starts no block; the context ends after its commit (R132). -/
def execHalt (w : XWord) (s : State) : Out := fireExit s w true fun _ i => .ok (none, i.links)

/-! ## Tag instructions -/

/-- TAGGET (R134). -/
def execTagget (w : GWord) (s : State) : Out :=
  fireAs s w.pm w.t0 w.t1 leftOnly fun f =>
    let n := w.value.toNat
    let v : Nat :=
      if n = 7 then f.tag.toNat
      else if n = 8 then tagDepth f.tag
      else if n < tagDepth f.tag then tagField (s.imageOf f) f.tag n else 0
    s.emit f w.t0 w.t1 .data (scNat v)

/-- Retagging keeps kind and value; a FAULT keeps its tag (R134). -/
def retag (s : State) (w : GWord) (new : Firing → Tok → Word) : Out :=
  onLeft s w fun f t =>
    if t.kind.isFault then s.emit f w.t0 w.t1 .fault t.val
    else s.emitTok f w.t0 w.t1 ⟨new f t, t.kind, t.val⟩

def execTagset (w : GWord) (s : State) : Out := retag s w fun f t =>
  let n := w.value.toNat
  if n < tagDepth f.tag then setTagField (s.imageOf f) f.tag n t.val.scalar.toNat else f.tag
def execTaginc (w : GWord) (s : State) : Out := retag s w fun f _ =>
  let n := w.value.toNat
  if n < tagDepth f.tag then setTagField (s.imageOf f) f.tag n (tagField (s.imageOf f) f.tag n + 1) else f.tag
def execTagin (w : GWord) (s : State) : Out := retag s w fun f t =>
  let n := w.value.toNat
  let d := tagDepth f.tag
  if n = d ∧ d < 7 then setTagField (s.imageOf f) (setTagDepth f.tag (d + 1)) n t.val.scalar.toNat else f.tag
def execTagout (w : GWord) (s : State) : Out := retag s w fun f _ =>
  let n := w.value.toNat
  let d := tagDepth f.tag
  if n + 1 = d then setTagDepth (setTagField (s.imageOf f) f.tag n 0) (d - 1) else f.tag

/-- TAGWIN #k (R136): emitted once fewer than k older instances are in flight; until then it is tried again. -/
def execTagwin (w : GWord) (s : State) : Out :=
  onLeft s w fun f t =>
    if t.kind.isFault || (s.older f).length < w.value.toNat then s.emit f w.t0 w.t1 t.kind t.val
    else s.hold (.tagwin w) f

end Sys2Proof.Machine
end

