-- ==== Sys2Proof/Machine/Float.lean ====
section
/-! DEFINITION. Class 3: float arithmetic (R198-R204). Every operation works on the codes of one lane. -/

namespace Sys2Proof.Machine

/-- A two-operand float instruction: `op` on lane codes in the lane format and the rounding mode of the word. -/
def fltBin (s : State) (w : GWord) (op : FF → RM → Nat → Nat → Nat) : Out :=
  binG s w (lanes2 w.ty (op (laneFmt w.ty) (rmOf w.mode.toNat)))

/-- A one-operand float instruction. -/
def fltUn (s : State) (w : GWord) (op : FF → RM → Nat → Nat) : Out :=
  unG s w (lanes1 w.ty (op (laneFmt w.ty) (rmOf w.mode.toNat)))

/-- Sign bit of a code. -/
def signBit (f : FF) : Nat := 2 ^ (f.width - 1)
def fAbs (f : FF) (a : Nat) : Nat := a % signBit f
def fNeg (f : FF) (a : Nat) : Nat := a ^^^ signBit f
def fCopySign (f : FF) (a b : Nat) : Nat := a % signBit f + b / signBit f % 2 * signBit f

/-- Is a below b, with −0 < +0 (R203)? -/
def fLess (f : FF) (a b : Nat) : Bool :=
  let x := f.decode a
  let y := f.decode b
  let d := Num.cmp x y
  decide (d < 0) || (d == 0 && x.isNeg && !y.isNeg)

/-- FMAX and FMIN (R203): a single NaN is skipped; `swap` says when b is taken. -/
def fPick (f : FF) (swap : Nat → Nat → Bool) (a b : Nat) : Nat :=
  match f.decode a, f.decode b with
  | .nan n fr, .nan _ _ => nanOf f n fr
  | .nan _ _, _ => b
  | _, .nan _ _ => a
  | _, _ => if swap a b then b else a

def fMax (f : FF) (a b : Nat) : Nat := fPick f (fun a b => fLess f a b) a b
def fMin (f : FF) (a b : Nat) : Nat := fPick f (fun a b => fLess f b a) a b

/-- FCLAMP (R203). -/
def fClamp (f : FF) (a b : Nat) : Nat :=
  match f.decode a, f.decode b with
  | .nan n fr, _ => nanOf f n fr
  | _, .nan _ _ => a
  | _, _ =>
    let l := fAbs f b
    fMin f (fMax f a (fNeg f l)) l

/-- FROUND (R204). -/
def fRound (f : FF) (mode : RM) (a : Nat) : Nat :=
  match f.decode a with
  | .nan n fr => nanOf f n fr
  | .inf n => roundNum f .rne false (.inf n)
  | .fin n m e => roundNum f .rne false (.fin n (toIntMode mode n m e).natAbs 0)

/-- FSCALE (R201); scales beyond ±3,000 overflow or underflow alike. -/
def fScale (f : FF) (mode : RM) (a : Nat) (k : Int) : Nat :=
  match f.decode a with
  | .nan n fr => nanOf f n fr
  | .inf n => roundNum f mode false (.inf n)
  | .fin n m e => roundNum f mode false (.fin n m (e + max (-3000) (min k 3000)))

/-- The scale of each lane (R201). -/
def scaleLanes (w : GWord) (b : Val) : List Int :=
  if w.imm then List.replicate (laneCount w.ty) (sval 64 (GWord.immWord w).toNat)
  else match w.ty with
    | .vf32 => (readLanes .vf32 b).map fun x => sval 32 x
    | .vbf16 => (readLanes .vbf16 b).map fun x => sval 16 x
    | _ => [sval 64 b.scalar.toNat]

def execFadd (w : GWord) (s : State) : Out :=
  fltBin s w fun f m a b => fpAdd f m false (f.decode a) (f.decode b)
/-- a − b; a NaN b keeps its own sign, because `Num.neg` leaves NaNs alone (R185). -/
def execFsub (w : GWord) (s : State) : Out :=
  fltBin s w fun f m a b => fpAdd f m false (f.decode a) (f.decode b).neg
def execFmul (w : GWord) (s : State) : Out :=
  fltBin s w fun f m a b => fpMul f m false (f.decode a) (f.decode b)
def execFscale (w : GWord) (s : State) : Out :=
  binG s w fun a b => writeLanes w.ty (List.zipWith (fun x k => fScale (laneFmt w.ty) (rmOf w.mode.toNat) x k)
    (readLanes w.ty a) (scaleLanes w b))

/-- The pairs a_i, b_i of the vector forms of FMA (R202): the halves of 32-bit lanes; a scalar fills 16-bit lanes under
vbf16 and 32-bit lanes under vf32 (R27). -/
def fmaPairs (ty : RType) (r : Val) : List (Nat × Nat) :=
  if ty = .vbf16 then (List.range 16).map fun i => (r.lane 16 (2 * i), r.lane 16 (2 * i + 1))
  else (List.range 16).map fun i => (r.lane 32 i % 2 ^ 16, r.lane 32 i / 2 ^ 16)

/-- The lanes of c, a, b of FMA (R202): a and b are packed in the right operand. -/
def fmaLane (f pair : FF) (m : RM) (c a b : Nat) : Nat := fpFma f m (f.decode c) (pair.decode a) (pair.decode b)

def fmaVal (ty : RType) (m : RM) (c r : Val) : Val :=
  match ty with
  | .f32 => scalarOut .f32 (fmaLane .f32 .f32 m (c.scalar.toNat % 2 ^ 32) (bits r.scalar 31 0) (bits r.scalar 63 32))
  | .bf16 => scalarOut .bf16 (fmaLane .bf16 .bf16 m (c.scalar.toNat % 2 ^ 16) (bits r.scalar 15 0) (bits r.scalar 31 16))
  | _ =>
    let cs := readLanes ty c
    let hd := List.zipWith (fun c p => fmaLane (laneFmt ty) .bf16 m c p.1 p.2) cs (fmaPairs ty r)
    writeLanes ty (hd ++ cs.drop 16)

def execFma (w : GWord) (s : State) : Out := binG s w (fmaVal w.ty (rmOf w.mode.toNat))

def execFabs (w : GWord) (s : State) : Out := fltUn s w fun f _ a => fAbs f a
def execFneg (w : GWord) (s : State) : Out := fltUn s w fun f _ a => fNeg f a
def execFcpsgn (w : GWord) (s : State) : Out := fltBin s w fun f _ a b => fCopySign f a b
def execFmax (w : GWord) (s : State) : Out := fltBin s w fun f _ a b => fMax f a b
def execFmin (w : GWord) (s : State) : Out := fltBin s w fun f _ a b => fMin f a b
def execFclamp (w : GWord) (s : State) : Out := fltBin s w fun f _ a b => fClamp f a b
def execFexp2 (w : GWord) (s : State) : Out := fltUn s w fun f _ a => fpExp2 f (f.decode a)
def execFlog2 (w : GWord) (s : State) : Out := fltUn s w fun f _ a => fpLog2 f (f.decode a)
def execFrcp (w : GWord) (s : State) : Out := fltUn s w fun f _ a => fpRcp f (f.decode a)
def execFrsq (w : GWord) (s : State) : Out := fltUn s w fun f _ a => fpRsq f (f.decode a)
def execFsqrt (w : GWord) (s : State) : Out := fltUn s w fun f _ a => fpSqrt f (f.decode a)
def execFround (w : GWord) (s : State) : Out := fltUn s w fun f m a => fRound f m a

end Sys2Proof.Machine
end

