-- ==== Sys2Proof/Machine/Sync.lean ====
section
/-! DEFINITION. Barriers (R163-R166) and completion tags as programs see them (R167-R170). -/

namespace Sys2Proof.Machine

/-! ## Barriers -/

def Core.barrier (k : Core) (b : Nat) : Barrier := k.barriers.getD b ⟨0, false⟩

/-- The barrier number of a word (R163). -/
def barOf (w : EWord) : Nat := w.mods.toNat % 128

/-- BARINIT, BARADD and BARARR fire: answered from the recorded count on a replay, or waiting to be applied (R165). -/
def startBarrier (s : State) (i : Instr) (w : EWord) : Out :=
  fireAs s w.pm w.t0 w.t1 leftOnly fun f =>
    match s.keptOf f with
    | some kp => s.emitKept f w.t0 w.t1 kp
    | none => (s.adopt i f).getD (s.addPend ⟨i, f, .perform, 0⟩)

def execBarinit (w : EWord) (s : State) : Out := startBarrier s (.barinit w) w
def execBaradd (w : EWord) (s : State) : Out := startBarrier s (.baradd w) w
def execBararr (w : EWord) (s : State) : Out := startBarrier s (.bararr w) w

/-- The barrier after an operation (R164). -/
def barrierNew (i : Instr) (b : Barrier) (x : BitVec 32) : Barrier :=
  let plus (d : BitVec 32) : Barrier :=
    if d = 0 then b else ⟨b.count + d, b.fired || b.count + d == 0⟩
  match i with
  | .barinit _ => ⟨x, x == 0⟩
  | .baradd _ => plus x
  | .bararr _ => plus (-1)
  | _ => b

/-- The BARWAITs that wait on a barrier that has just fired are let go; they emit at BARWAIT_RELEASE. -/
def State.letGo (s : State) (c b : Nat) : State :=
  let k := s.core c
  let go (q : Pend) : Pend := match q.i with
    | .barwait w => if barOf w = b then { q with sseq := 1 } else q
    | _ => q
  s.setCore c { k with cxs := k.cxs.map fun v => { v with pend := v.pend.map go } }

/-- BARRIER_APPLY (R165): once every older instance has committed, the operation is applied, recorded and emitted. -/
def execBarrierApply (core ctx k : Nat) (s : State) : Out :=
  match (s.cx core ctx).pend[k]? with
  | some q => match q.st, q.i with
    | .perform, .barinit w | .perform, .baradd w | .perform, .bararr w =>
      if !s.due q then .next s
      else
        let s := s.dropPend core ctx k
        let c := s.core core
        let b := barrierNew q.i (c.barrier (barOf w)) (BitVec.ofNat 32 q.f.lval.scalar.toNat)
        let s := s.setCore core { c with barriers := c.barriers.set (barOf w) b }
        let s := if b.fired then s.letGo core (barOf w) else s
        let v := Val.sc (b.count.signExtend 64)
        .next ((s.keep q.f [(.data, v)]).emitDue q w.t0 w.t1 .data v)
    | _, _ => .next s
  | none => .next s

/-- BARWAIT (R164): a NULL trigger is absorbed, CHAFF and FAULT are emitted at once, DATA and STOPj wait. -/
def execBarwait (w : EWord) (s : State) : Out :=
  withSel s fun f =>
    match gate w.pm f with
    | .absorb => .next (s.absorb f [f.l])
    | .emit k v => .next (s.emit f w.t0 w.t1 k v)
    | .fire => match f.l with
      | none => .next s
      | some t => match t.kind with
        | .null => .next s
        | .chaff => .next (s.emit f w.t0 w.t1 .chaff (.sc 0))
        | .fault => .next (s.emit f w.t0 w.t1 .fault t.val)
        | _ =>
          if ((s.core f.core).barrier (barOf w)).fired then .next (s.emit f w.t0 w.t1 t.kind t.val)
          else .next (s.addPend ⟨.barwait w, f, .wait, 0⟩)

/-- BARWAIT_RELEASE (R164). -/
def execBarwaitRelease (core ctx k : Nat) (s : State) : Out :=
  match (s.cx core ctx).pend[k]? with
  | some q => match q.st, q.i, q.f.l with
    | .wait, .barwait w, some t =>
      if q.sseq = 1 || ((s.core core).barrier (barOf w)).fired then
        .next ((s.dropPend core ctx k).emit q.f w.t0 w.t1 t.kind t.val)
      else .next s
    | _, _, _ => .next s
  | none => .next s

/-! ## Waits on completion tags -/

/-- The tags an instruction selects (R168). -/
def State.selTags (s : State) (f : Firing) : List Nat :=
  let m := f.lval.scalar &&& (s.cx f.core f.ctx).ctl.ctagmask
  (List.range 64).filter (bit m)

def State.doneTags (s : State) (f : Firing) : List Nat :=
  (s.selTags f).filter fun t => ((s.core f.core).ctag t).st == .done

/-- The acquire of a reported completion at DIE or wider (R168, R320). -/
def State.acquireTags (s : State) (c : Nat) (ts : List Nat) : State :=
  if ts.any fun t => wideScope ((s.core c).ctag t).scope then s.cacheAcquire c else s

/-- What a report comes to under the marks of its tags: FAULT before CHAFF before the DATA result (R238). -/
def State.reportVal (s : State) (c : Nat) (ts : List Nat) (v : Val) : Kind × Val :=
  let marks := ts.map fun t => ((s.core c).ctag t).mark
  match marks.findSome? fun m => match m with
    | .fault n => some n
    | _ => none with
  | some n => (.fault, faultVal n)
  | none => if marks.contains .chaff then (.chaff, .sc 0) else (.data, v)

/-- The clears that a clearing wait asks for at commit (R169). -/
def State.postClears (s : State) (f : Firing) (ts : List Nat) : State :=
  ts.foldl (fun s t => s.addPost f (.clearTag t ((s.core f.core).ctag t).owner)) s

/-- A wait reports tags with a result. -/
def State.report (s : State) (f : Firing) (t0 t1 : Target) (ts : List Nat) (v : Val) (clr : Bool) : State :=
  let (k, v) := s.reportVal f.core ts v
  let s := if clr then s.postClears f ts else s
  (s.acquireTags f.core ts).emit f t0 t1 k v

def EWord.clr (w : EWord) : Bool := bit w.mods 0

/-- Is a WAITALL satisfied, and the report it then makes (R168)? -/
def State.waitAllRun (s : State) (f : Firing) (w : EWord) : Option State :=
  let m := s.selTags f
  if s.doneTags f = m then
    some (s.report f w.t0 w.t1 m (.sc (f.lval.scalar &&& (s.cx f.core f.ctx).ctl.ctagmask)) (EWord.clr w))
  else none

/-- Is a WAITANY satisfied, and the report it then makes (R168)? -/
def State.waitAnyRun (s : State) (f : Firing) (w : EWord) : Option State :=
  if s.selTags f = [] then some (s.emit f w.t0 w.t1 .data (.sc 64))
  else match s.doneTags f with
    | [] => none
    | t :: _ => some (s.report f w.t0 w.t1 [t] (scNat t) (EWord.clr w))

def execWaitall (w : EWord) (s : State) : Out :=
  fireAs s w.pm w.t0 w.t1 leftOnly fun f => (s.waitAllRun f w).getD (s.addPend ⟨.waitall w, f, .wait, 0⟩)
def execWaitany (w : EWord) (s : State) : Out :=
  fireAs s w.pm w.t0 w.t1 leftOnly fun f => (s.waitAnyRun f w).getD (s.addPend ⟨.waitany w, f, .wait, 0⟩)

/-- WAIT_SATISFIED (R168). -/
def execWaitSatisfied (core ctx k : Nat) (s : State) : Out :=
  match (s.cx core ctx).pend[k]? with
  | some q => match q.st, q.i with
    | .wait, .waitall w => .next (((s.dropPend core ctx k).waitAllRun q.f w).getD s)
    | .wait, .waitany w => .next (((s.dropPend core ctx k).waitAnyRun q.f w).getD s)
    | _, _ => .next s
  | none => .next s

/-- FFR (R168): the lowest DONE tag selected, or 64, without waiting. -/
def execFfr (w : EWord) (s : State) : Out :=
  fireAs s w.pm w.t0 w.t1 leftOnly fun f =>
    match s.doneTags f with
    | [] => s.emit f w.t0 w.t1 .data (.sc 64)
    | t :: _ => s.report f w.t0 w.t1 [t] (scNat t) false

/-- CCLR (R168, R169): emits the BUSY tags selected; the others are cleared at commit if their owner is still the one
observed. -/
def execCclr (w : EWord) (s : State) : Out :=
  fireAs s w.pm w.t0 w.t1 leftOnly fun f =>
    let ts := s.selTags f
    let busy := ts.filter fun t => ((s.core f.core).ctag t).st == .busy
    let s := s.postClears f (ts.filter fun t => !busy.contains t)
    s.emit f w.t0 w.t1 .data (scNat (busy.foldl (fun m t => m + 2 ^ t) 0))

/-- COMPLETION_TAG_TAKE (R167): a held engine command whose tag is no longer busy issues next. -/
def execCompletionTagTake (core ctx k : Nat) (s : State) : Out :=
  match (s.cx core ctx).pend[k]? with
  | some q => match q.st, q.i.form with
    | .held, .e w =>
      if s.takeTag q.f w.ctag.toNat = .busy then .next s
      else .next { s with agenda := .retry core ctx k :: s.agenda }
    | _, _ => .next s
  | none => .next s

end Sys2Proof.Machine
end

