-- ==== Sys2Proof/Machine/Engine.lean ====
section
/-! DEFINITION. Engine commands: issue under a completion tag (R167), the list of commands of a core, completion with a
mark (R238), replay suppression (R331). -/

namespace Sys2Proof.Machine

/-- A command that has just been issued. -/
def mkCmd (i : Instr) (f : Firing) (port : Nat) (ctag : Option Nat) (scope : Nat) : Cmd :=
  { port, i, f, ctag, ctc := none, scope, st := .sent, ord := 0, scale := none, a := [], b := [], j := 0, p := 0,
    q := 0, m := 0, opened := 0, gseq := 0, pas := [], got := [], frozen := false, orphan := false, status := 0 }

def State.addCmd (s : State) (c : Nat) (m : Cmd) : State :=
  let k := s.core c
  s.setCore c { k with cmds := k.cmds ++ [m] }

def State.cmd? (s : State) (c k : Nat) : Option Cmd := (s.core c).cmds[k]?
def State.setCmd (s : State) (c k : Nat) (m : Cmd) : State :=
  let v := s.core c
  s.setCore c { v with cmds := v.cmds.set k m }
def State.dropCmd (s : State) (c k : Nat) : State :=
  let v := s.core c
  s.setCore c { v with cmds := v.cmds.eraseIdx k }

/-- Issue an engine command (R167): without a tag, suppressed, waiting for the tag, or with the tag taken. A suppressed
command emits what the first issue emitted, once it has. -/
def issue (s : State) (i : Instr) (w : EWord) (f : Firing) (scope : Nat) (go : State → Option Nat → State) : State :=
  match s.takeTag f w.ctag.toNat with
  | .noTag => go s none
  | .suppress => match s.keptOf f with
    | some kp => s.emitKept f w.t0 w.t1 kp
    | none => s.hold i f
  | .busy => s.hold i f
  | .free => go (s.claimTag f w.ctag.toNat scope) (some w.ctag.toNat)

/-- The island of a port emits a result of a firing that holds a tag, keeping it for a replay (R167, R244). -/
def State.emitHeld (s : State) (port : Nat) (f : Firing) (t0 t1 : Target) (ctag : Option Nat) (k : Kind) (v : Val) : State :=
  (if ctag.isSome then s.keep f [(k, v)] else s).emitFrom (srcIsland port) f t0 t1 k v

/-- A release at completion at DIE or wider writes back CACHE (R320). -/
def State.releaseAt (s : State) (c scope : Nat) : State := if wideScope scope then s.cacheRelease c else s

/-- Completion of a command with a mark: its tag is DONE as a release at its scope (R167, R238). -/
def State.complete (s : State) (c : Nat) (m : Cmd) (mark : Mark) : State :=
  (s.releaseAt c m.scope).finishTag c m.ctag mark

/-- A tag left FREE with no owner after a command that a failed check ended (R242). -/
def State.freeTag (s : State) (c : Nat) (t : Option Nat) : State :=
  match t with
  | some t => s.setCtag c t ⟨.free, none, .none, 0⟩
  | none => s

/-- The scope in mods bits 2:0. -/
def scopeLow (w : EWord) : Nat := w.mods.toNat % 8

/-- Field of a 512-bit descriptor: `n` bytes from byte `o`. -/
def dfield (f : Firing) (o n : Nat) : Nat := (f.lval.wide >>> (8 * o)) % 2 ^ (8 * n)
def dsigned (f : Firing) (o n : Nat) : Int := sval (8 * n) (dfield f o n)

/-- A command of a core takes the next order number (R249). -/
def State.takeOrd (s : State) (c : Nat) : State × Nat :=
  let k := s.core c
  (s.setCore c { k with ordLast := k.ordLast + 1 }, k.ordLast + 1)

/-- A command is accepted, behind those that its engine accepted before (R249). -/
def State.addAccepted (s : State) (c : Nat) (m : Cmd) : State :=
  let (s, n) := s.takeOrd c
  s.addCmd c { m with st := .accepted, ord := n }

/-- Is a command behind an older one of its context that its frozen engine holds (R252)? -/
def State.behindFrozen (s : State) (c k : Nat) (m : Cmd) : Bool :=
  ((s.core c).cmds.take k).any fun o => o.port == m.port && o.f.ctx == m.f.ctx && o.frozen

/-- The record of a failed check of an engine access, in the replay buffer of a port (R249), and its outcome (R141). The
kind of the record and the mode decide; `node` is the engine's port, `ord` the command's order number. -/
def State.engineFails (s : State) (f : Firing) (node : Nat) (e : AccErr) (sseq : Nat) (k : AKind) (ord : Nat := 0) :
    State × AccOut :=
  s.accessFails f (portOf f.elem) node 0 e sseq k ord

/-- Read bytes as an island of a core (R321). -/
def State.readPas (s : State) (c : Nat) (pas : List Nat) : List Byte := pas.map (s.readEngine c)

/-- What a command reads of a byte of its sources: what it has read there before the rest, else what an island reads now
(R321, R326). -/
def State.cmdByte (s : State) (c : Nat) (m : Cmd) (pa : Nat) : Byte := (lastWrite m.got pa).getD (s.readEngine c pa)

/-- May a command read its sources apart, each granule at a time of its own? -/
def readsApart (i : Instr) : Bool :=
  match i with
  | .cpy _ | .cpyfill _ | .cpyrot _ | .poolmove _ => true
  | _ => false

/-- The move `sample`: an accepted command reads the granule of one byte, before it reads the rest of its sources (R326); of a
line of PAD or TILE it reads all (R236, R263). -/
def State.sample (s : State) (c k pa : Nat) : State :=
  match s.cmd? c k with
  | none => s
  | some m =>
    let n := if cacheable pa then 16 else 64
    let pas := (List.range n).map fun j => pa / n * n + j
    if !readsApart m.i || m.st ≠ .accepted || s.linkDown c pas || pas.any (s.badIsland c) || m.got.any (pas.contains ·.1) then s
    else s.setCmd c k { m with got := m.got ++ pas.map fun a => (a, s.readEngine c a) }

/-- Enter translations used and mark the lines written. -/
def State.touch (s : State) (c : Nat) (vas writes : List Nat) : State := (s.fillTlb c vas).markLines writes

end Sys2Proof.Machine
end

