-- ==== Sys2Proof/Machine/Tile.lean ====
section
/-! DEFINITION. The descriptors of the engine commands and the addresses that they name (R237-R241, R255, R258, R262, R264,
R267), and which commands are TILE references (R217, R218). -/

namespace Sys2Proof.Machine

/-! ## Commands as accesses -/

/-- One step of a command: what it reads and what it writes, as (address, bytes). -/
structure SAcc where
  rd : Option (Nat × Nat)
  wr : Nat × Nat
  elem : Nat
  deriving DecidableEq, Repr

def EWord.tr (w : EWord) : Bool := bit w.mods 3
def EWord.sat (w : EWord) : Bool := bit w.mods 4
def EWord.zf (w : EWord) : Bool := bit w.mods 7
def EWord.rm (w : EWord) : RM := rmOf (bits w.mods 6 5)

def fmtSize (code : Nat) : Nat := ((Fmt.ofNat? code).map fmtBytes).getD 0

/-- Element accesses of a CPY in command order (R239). -/
def cpyAccs (w : EWord) (f : Firing) : List SAcc :=
  let src := dfield f 0 8
  let dst := dfield f 8 8
  let rows := dfield f 24 2
  let cols := dfield f 26 2
  let es := fmtSize (dfield f 36 1)
  let ed := fmtSize (dfield f 37 1)
  (List.range rows).flatMap fun (r : Nat) => (List.range cols).filterMap fun (c : Nat) =>
    let inside := decide (r < dfield f 28 2 ∧ c < dfield f 30 2)
    if !inside && !EWord.zf w then none
    else
      let (dr, dc) := if EWord.tr w then (c, r) else (r, c)
      let d := effAddr dst ((dr : Int) * dsigned f 20 4 + (dc * ed : Nat))
      let x := effAddr src ((r : Int) * dsigned f 16 4 + (c * es : Nat))
      some ⟨if inside then some (x, es) else none, (d, ed), r * cols + c⟩

/-- Element accesses of a CPYFILL (R240). -/
def fillAccs (f : Firing) : List SAcc :=
  let rows := dfield f 24 2
  let cols := dfield f 26 2
  let ed := fmtSize (dfield f 37 1)
  (List.range rows).flatMap fun (r : Nat) => (List.range cols).map fun (c : Nat) =>
    ⟨none, (effAddr (dfield f 8 8) ((r : Int) * dsigned f 20 4 + (c * ed : Nat)), ed), r * cols + c⟩

/-- Element accesses of a CPYROT (R241): each element is read and written. -/
def rotAccs (f : Firing) : List SAcc :=
  let d := dfield f 26 2
  let es := fmtSize (dfield f 36 1)
  (List.range (dfield f 24 2)).flatMap fun (v : Nat) => (List.range d).map fun (i : Nat) =>
    let a := effAddr (dfield f 0 8) ((v : Int) * dsigned f 16 4 + (i * es : Nat))
    ⟨some (a, es), (a, es), v * d + i⟩

def accsOf (i : Instr) (f : Firing) : List SAcc :=
  match i with
  | .cpy w => cpyAccs w f
  | .cpyfill _ => fillAccs f
  | .cpyrot _ => rotAccs f
  | _ => []

/-! ## Descriptors of the other engines -/

def gathType (w : EWord) : RType := (RType.ofNat? (bits w.mods 7 4)).getD .b64
def gathFmt (w : EWord) : Fmt := (Fmt.ofNat? (bits w.mods 3 0)).getD .b64
def gathScope (w : EWord) : Nat := bits w.mods 10 8

/-- The descriptor of an INTSECT (13_sparse, R258): six addresses, then row, nb and vfmt. -/
def isAptr (f : Firing) : Nat := dfield f 0 8
def isAcrd (f : Firing) : Nat := dfield f 8 8
def isAval (f : Firing) : Nat := dfield f 16 8
def isBptr (f : Firing) : Nat := dfield f 24 8
def isBcrd (f : Firing) : Nat := dfield f 32 8
def isBval (f : Firing) : Nat := dfield f 40 8
def isRow (f : Firing) : Nat := dfield f 48 4
def isNb (f : Firing) : Nat := dfield f 52 4
def isVfmt (f : Firing) : Nat := dfield f 56 1

/-- The descriptor of a COLL (R264). -/
def clSrc (f : Firing) : Nat := dfield f 0 8
def clDst (f : Firing) : Nat := dfield f 8 8
def clCount (f : Firing) : Nat := dfield f 16 4
def clOp (f : Firing) : Nat := dfield f 20 1
def clRed (f : Firing) : Nat := dfield f 21 1
def clFmt (f : Firing) : Nat := dfield f 22 1
def clRank (f : Firing) : Nat := dfield f 23 1
def clParts (f : Firing) : Nat := dfield f 24 1
def clGroup (f : Firing) : Nat := dfield f 26 2
def clEpoch (f : Firing) : Nat := dfield f 28 4

/-- Bytes per element, and how many elements a member reads and writes (R265). -/
def clSize (f : Firing) : Nat := if clFmt f = 5 then 2 else 4
def clReads (f : Firing) : Nat := if clOp f = 2 then clParts f * clCount f else clCount f
def clWrites (f : Firing) : Nat := if clOp f = 1 then clParts f * clCount f else clCount f

/-- The descriptor of a NETSEND or NETRECV (R267). -/
def ntQp (f : Firing) : Nat := dfield f 0 2
def ntOp (f : Firing) : Nat := dfield f 2 1
def ntLen (f : Firing) : Nat := dfield f 4 4
def ntAddr (f : Firing) : Nat := dfield f 8 8
def ntRemote (f : Firing) : Nat := dfield f 16 8
def ntKey (f : Firing) : Nat := dfield f 24 4
def ntWord (f : Firing) : Nat := dfield f 32 8

/-- Does the command write its local buffer? -/
def ntWrites (send : Bool) (f : Firing) : Bool := !send || ntOp f == 2

/-- What a NETSEND sends (R269): in each 16-byte granule the bytes at issue, or those now; the bytes that it holds, when a
cut has made it finish its reading (R219). -/
def State.netBytes (s : State) (c : Nat) (m : Cmd) : List Byte :=
  if m.pas.isEmpty then m.a
  else
    let now := s.readPas c m.pas
    (List.range m.pas.length).map fun j =>
      if Config.eitherOf s.draw (m.pas.getD j 0 / 16) then m.a.getD j 0 else now.getD j 0

/-- `n` elements of `sz` bytes at index `i` of an array, as accesses in order. -/
def arrayAt (base sz i n : Nat) : List (Nat × Nat) :=
  (List.range n).map fun k => (effAddr base ((sz * (i + k) : Nat)), sz)

/-- The first line and the width of a sparse accumulator tile (R261). -/
def spLine (w : EWord) : Nat := bits w.mods 22 10
def spWidth (w : EWord) : Nat := 512 * 2 ^ bits w.mods 9 7

/-! ## TILE references (R217) -/

/-- One address of every smallest page that `n` bytes touch, and the last byte. -/
def pagePoints (a n : Nat) : List Nat :=
  if n = 0 then [] else a :: (List.range (n / 0x10000 + 1)).map fun k => min (a + n - 1) ((a / 0x10000 + k + 1) * 0x10000)

/-- The physical byte that an address names for a core, when a translation gives one. -/
def State.namesByte (s : State) (c a : Nat) : Option Nat :=
  if isPaToken a then some (a % 2 ^ 52)
  else match s.lookup c a with
    | .ok e => some (e.pbase + (a - e.vbase))
    | .error _ => none

/-- The little-endian number that an island would read at an address; 0 where no translation gives a byte. -/
def State.peek (s : State) (c a n : Nat) : Nat :=
  bytesToNat ((List.range n).map fun k => ((s.namesByte c (a + k)).map (s.readEngine c)).getD 0)

/-- The pages of the elements of a fibre whose two offset words stand at an address (R260). -/
def State.fibrePoints (s : State) (c ptr crd val es : Nat) : List Nat :=
  let lo := s.peek c ptr 4
  let n := s.peek c (ptr + 4) 4 - lo
  pagePoints (effAddr crd ((4 * lo : Nat))) (4 * n) ++ pagePoints (effAddr val ((es * lo : Nat))) (es * n)

/-- How many outputs a flush of a tile would write now (R262). -/
def State.spCount (s : State) (c : Nat) (w : EWord) : Nat :=
  ((List.range (spWidth w)).filter fun j => (Memory.get s.mem (padAddr c (64 * spLine w + j / 8))).toNat.testBit (j % 8)).length

/-- The most bytes that a save image at an address can have, by its counts (R354). -/
def State.imageBound (s : State) (c a : Nat) : Nat :=
  2048 + 64 * s.peek c (a + 36) 4 + 32 * (s.peek c (a + 40) 4 + 2) + 64 * s.peek c (a + 44) 4 + 7 * 2112 + 64 +
    65 * s.peek c (a + 34) 2 + 2 * s.peek c (a + 48) 8

/-- Addresses that show where the operands and destinations of a command lie: every element of a streamer command, and every
smallest page of a buffer, an array or a save area (DEDUCED, log 98). -/
def State.cmdPoints (s : State) (i : Instr) (f : Firing) : List Nat :=
  let c := f.core
  let a := f.lval.scalar.toNat
  match i with
  | .cpy _ | .cpyfill _ | .cpyrot _ => (accsOf i f).flatMap fun a => a.wr.1 :: (a.rd.map fun r => [r.1]).getD []
  | .gath w => pagePoints a (spanBytes (gathType w) (gathFmt w))
  | .intsect _ =>
    let es := fmtSize (isVfmt f)
    let aptr := effAddr (isAptr f) ((4 * isRow f : Nat))
    pagePoints aptr 8 ++ s.fibrePoints c aptr (isAcrd f) (isAval f) es ++ pagePoints (isBptr f) (4 * (isNb f + 1)) ++
      (List.range (isNb f)).flatMap fun j => s.fibrePoints c (effAddr (isBptr f) ((4 * j : Nat))) (isBcrd f) (isBval f) es
  | .spflush w =>
    let n := s.spCount c w
    pagePoints a (4 * n) ++ pagePoints f.rval.scalar.toNat (fmtSize (bits w.mods 6 3) * n)
  | .coll _ => pagePoints (clSrc f) (clReads f * clSize f) ++ pagePoints (clDst f) (clWrites f * clSize f)
  | .netsend _ | .netrecv _ => pagePoints (ntAddr f) (ntLen f) ++ (if ntWord f = 0 then [] else [ntWord f])
  | .ctxsave _ => pagePoints a (min f.rval.scalar.toNat (2 ^ 26))
  | .ctxrest _ => pagePoints a (min (s.imageBound c a) (2 ^ 26))
  | _ => []

/-- Is a byte in the TILE window of a core? -/
def inTile (c pa : Nat) : Bool :=
  match region pa with
  | .win d .tile _ => d == c
  | _ => false

/-- Does an address, as core `o` translates it, name a TILE byte of core `c`? -/
def State.namesTile (s : State) (o c a : Nat) : Bool :=
  (s.namesByte o a).any (inTile c)

/-- Is a command of this instruction and operands a TILE reference of core `c` (R217)? -/
def State.tileRef (s : State) (c : Nat) (i : Instr) (f : Firing) : Bool :=
  match i with
  | .mma _ | .mmas _ | .attsc _ => f.core == c
  | .scld w => f.core == c && !bit w.mods 3
  | i => (s.cmdPoints i f).any (s.namesTile f.core c)

/-- Commands of any core that are TILE references of core `c`: issued, and not completed (R217). -/
def State.tileRefs (s : State) (c : Nat) : Bool :=
  s.cores.any fun k =>
    (k.cmds.any fun m => m.st != .finished && (m.pas.any (inTile c) || s.tileRef c m.i m.f)) ||
    k.scaleFlights.any fun t => s.tileRef c t.2.i t.2.f

/-- Is a cut waiting for TILE references to drain (R218)? -/
def Core.tileStalled (k : Core) : Bool :=
  k.cutting.isSome && k.cxs.any fun v => v.pend.any fun q => q.st == .cut

/-- New TILE references stall meanwhile (R218). -/
def State.stallsTile (s : State) (i : Instr) (f : Firing) : Bool :=
  (s.cores.mapIdx fun c k => (c, k)).any fun e => e.2.tileStalled && s.tileRef e.1 i f

/-! ## Fibres (R260) -/

/-- Check loads in order and give their physical bytes. -/
def State.checkLoads (s : State) (c : Nat) : List (Nat × Nat) → Except AccErr (List Nat)
  | [] => .ok []
  | (a, n) :: rest => match s.check c .island a n n with
    | .error e => .error e
    | .ok ps => match s.checkLoads c rest with
      | .error e => .error e
      | .ok qs => .ok (ps ++ qs)

/-- The translations of some loads are made; `none` while that stalls on a failed link (R392, R396). -/
def State.fillLoads (s : State) (c : Nat) (l : List (Nat × Nat)) : Option State :=
  let vas := l.flatMap fun a => vasIf a.1 a.2 a.2
  if s.walkStalls c vas then none else some (s.fillTlb c vas)

/-- Loads of an island: the physical bytes, once their translations are made and no failed link lies between. -/
def State.islandLoads (s : State) (c : Nat) (l : List (Nat × Nat)) : Option (State × Except AccErr (List Nat)) :=
  match s.fillLoads c l with
  | none => none
  | some s => match s.checkLoads c l with
    | .error e => some (s, .error e)
    | .ok ps => if s.linkDown c ps then none else some (s, .ok ps)

/-- A fibre that has been read (R260): the bytes of its coordinates and values together, and the number of elements. -/
structure Fibre where
  bytes : List Byte
  n : Nat

/-- One fibre (R260): its two offset words, then its coordinates, then its values; `none` while it stalls. -/
def State.readFibre (s : State) (c ptr crd val es i : Nat) : Option (State × Except AccErr Fibre) :=
  match s.islandLoads c (arrayAt ptr 4 i 2) with
  | none => none
  | some (s, .error e) => some (s, .error e)
  | some (s, .ok ps) =>
    let w := s.readPas c ps
    let lo := bytesNat w 0 4
    let n := bytesNat w 4 4 - lo
    match s.islandLoads c (arrayAt crd 4 lo n ++ arrayAt val es lo n) with
    | none => none
    | some (s, .error e) => some (s, .error e)
    | some (s, .ok qs) => some (s, .ok ⟨s.readPas c qs, n⟩)

/-- A running INTSECT reads the B fibres that it has not read yet, as far as they pass their checks: a cut changes a role that it
is accessing (R219). -/
def State.isFinishes (s : State) (c : Nat) (m : Cmd) : Cmd :=
  let f := m.f
  let next := if m.opened = 0 then m.j else m.j + 1
  (List.range (isNb f - next)).foldl (fun m j =>
    if m.pas.contains (next + j) then m
    else match s.readFibre c (isBptr f) (isBcrd f) (isBval f) (fmtSize (isVfmt f)) (next + j) with
      | some (_, .ok fb) => { m with pas := (next + j) :: m.pas, got := m.got ++ fb.bytes.map fun b => (next + j, b) }
      | _ => m) m

end Sys2Proof.Machine
end

