-- ==== Sys2Proof/Machine/Streamer.lean ====
section
/-! DEFINITION. The streamer (R237-R243): CPY, CPYFILL, CPYROT, acceptance with its checks, completion. -/

namespace Sys2Proof.Machine

/-! ## FP32 steps, each rounded with rne -/

def f32add (a b : Nat) : Nat := fpAdd .f32 .rne false (FF.f32.decode a) (FF.f32.decode b)
def f32sub (a b : Nat) : Nat := fpAdd .f32 .rne false (FF.f32.decode a) (Num.neg (FF.f32.decode b))
def f32mul (a b : Nat) : Nat := fpMul .f32 .rne false (FF.f32.decode a) (FF.f32.decode b)
def f32ofInt (n : Int) : Nat := roundNum .f32 .rne false (Num.ofInt n)

/-- Status of the descriptor check: the lowest that applies (R237, R239-R241). -/
def isFltCode (n : Nat) : Bool := 4 ≤ n && n ≤ 9

def descStatus (i : Instr) (f : Firing) : Nat :=
  match i with
  | .cpy _ =>
    let s := dfield f 36 1
    let d := dfield f 37 1
    if 13 < s || 13 < d || !((isFltCode s && isFltCode d) || (s == d && !isFltCode s)) then 1
    else if dfield f 38 26 ≠ 0 then 3 else 0
  | .cpyfill _ => if 14 < dfield f 37 1 then 1 else 0
  | .cpyrot _ =>
    let d := dfield f 26 2
    if !isFltCode (dfield f 36 1) then 1
    else if d % 2 ≠ 0 || d < 2 || 256 < d || 1 < dfield f 37 1 then 2
    else if dfield f 8 8 ≠ 0 || dfield f 20 4 ≠ 0 || dfield f 38 2 ≠ 0 || dfield f 44 20 ≠ 0 then 3 else 0
  | _ => 0

/-- Checks of R242: element by element, source before destination. The physical bytes of each element, or the first
failure with its element number and kind of access. A data error is met only while the command runs. -/
def State.checkAccs (s : State) (c : Nat) : List SAcc → Except (AccErr × Nat × AKind) (List Nat)
  | [] => .ok []
  | a :: rest =>
    let rd : Except AccErr (List Nat) := match a.rd with
      | none => .ok []
      | some (x, n) => s.check c .probe x n n
    match rd with
    | .error e => .error (e, a.elem, .load)
    | .ok ps => match s.check c .store a.wr.1 a.wr.2 a.wr.2 with
      | .error e => .error (e, a.elem, .store)
      | .ok qs => match s.checkAccs c rest with
        | .error e => .error e
        | .ok more => .ok (ps ++ qs ++ more)

/-- Virtual addresses that the accesses of a command translate. -/
def accVas (l : List SAcc) : List Nat :=
  l.flatMap fun a => (match a.rd with
    | some (x, n) => touched x n
    | none => []) ++ touched a.wr.1 a.wr.2

/-! ## Issue, acceptance, completion -/

/-- A streamer command fires. -/
def startStream (s : State) (i : Instr) (w : EWord) : Out :=
  fireAs s w.pm w.t0 w.t1 leftOnly fun f =>
    if s.stallsTile i f then s.hold i f
    else issue s i w f (scopeLow w) fun s t => s.addCmd f.core (mkCmd i f 33 t (scopeLow w))

def execCpy (w : EWord) (s : State) : Out := startStream s (.cpy w) w
def execCpyfill (w : EWord) (s : State) : Out := startStream s (.cpyfill w) w
def execCpyrot (w : EWord) (s : State) : Out := startStream s (.cpyrot w) w

/-- The number of the first command that a port's engine takes next: the first that is on its channel, of a context for
which its node is not frozen and whose replay buffer has room (R237, R250, R252). -/
def State.nextSent (s : State) (c port : Nat) : Option Nat :=
  (s.core c).cmds.findIdx? fun m => m.port == port && m.st == .sent && !s.isFrozen c port m.f.ctx &&
    !s.portFull c (portOf m.f.elem)

/-- What acceptance of a checked streamer command comes to (R237, R242). `m` is command `n` of core `c`; it takes its order
number (R249), which one that froze has already. -/
def acceptStream (s : State) (c n : Nat) (m : Cmd) : State :=
  let (s, ord) := if m.ord = 0 then s.takeOrd c else (s, m.ord)
  let m := { m with ord }
  let st := descStatus m.i m.f
  if st ≠ 0 then ((s.dropCmd c n).cmdEmit m .data (scNat st)).complete c m .none
  else
    let accs := accsOf m.i m.f
    let s := s.fillTlb c (accVas accs)
    match s.checkAccs c accs with
    | .ok pas =>
      let s := s.setCmd c n { m with st := .accepted, pas, frozen := false }
      let wr := accs.map (·.wr)
      let marks := wr.flatMap fun a => match s.check c .store a.1 a.2 1 with
        | .ok l => l
        | .error _ => []
      (s.markLines marks).cmdEmit m .data (.sc 0)
    | .error (e, elem, k) =>
      match s.engineFails m.f 33 e elem k m.ord with
      | (s, .frozen) => s.setCmd c n { m with frozen := true }
      | (s, .chaff) => ((s.dropCmd c n).cmdEmit m .chaff (.sc 0)).complete c m .chaff
      | (s, .fault num) =>
        let s := s.dropCmd c n
        let s := s.cmdEmit { m with ctag := none } .fault (faultVal num)
        s.freeTag c m.ctag

/-- STREAMER_ACCEPT (R237): 16 commands queue and 4 run. -/
def execStreamerAccept (core : Nat) (s : State) : Out :=
  match s.nextSent core 33 with
  | none => .next s
  | some n => match s.cmd? core n with
    | none => .next s
    | some m =>
      if 20 ≤ ((s.core core).cmds.filter Cmd.streams).length ||
          (s.links.any (·.failed) && s.walkStalls core (accVas (accsOf m.i m.f))) then .next s
      else .next (acceptStream s core n m)

/-- What a streamer command has come to: the bytes that it read before the rest (R326), its writes so far, the latest first,
and the first failed element with the byte that failed. -/
structure Run where
  got : List (Nat × Byte)
  out : List (Nat × Byte)
  bad : Option (Nat × Nat)

/-- The prior value of a byte of a source. -/
def Run.prior (r : Run) (s : State) (c pa : Nat) : Byte := (lastWrite r.got pa).getD (s.readEngine c pa)

/-- The byte that the command has written at an address. -/
def Run.written (r : Run) (pa : Nat) : Option Byte := (r.out.find? (·.1 == pa)).map (·.2)

/-- A byte of a source: the prior value, or, where the command has written it, either that or the new one (R239). -/
def Run.byte (r : Run) (s : State) (c pa : Nat) : Byte :=
  match r.written pa with
  | some b => if Config.eitherOf s.draw (pa / 16) then r.prior s c pa else b
  | none => r.prior s c pa

/-- Write an element; a byte that this command has written before keeps either value (R239). -/
def Run.put (r : Run) (s : State) (l : List (Nat × Byte)) : Run :=
  let l := l.filter fun x => !((r.written x.1).isSome && Config.eitherOf (s.draw + 1) (x.1 / 16))
  { r with out := l.reverse ++ r.out }

/-- One CPY element from its bytes (R239). -/
def cpyElem (w : EWord) (f : Firing) (bs : List Byte) : List Byte :=
  let s := dfield f 36 1
  let d := dfield f 37 1
  if s = d || !isFltCode s then bs
  else match (Fmt.ofNat? s).bind FF.ofFmt, (Fmt.ofNat? d).bind FF.ofFmt with
    | some fs, some fd =>
      let x := fs.decode (bytesToNat bs)
      let sc := FF.f32.decode (dfield f 32 4)
      natBytes (fmtSize d) (if fmtSize s < fmtSize d then fpMul fd (EWord.rm w) (EWord.sat w) x sc
        else fpDiv fd (EWord.rm w) (EWord.sat w) x sc)
    | _, _ => bs

/-- The bytes of one CPYFILL element (R240). -/
def fillElem (f : Firing) : List Byte :=
  if dfield f 37 1 = 14 then (List.replicate 8 (natBytes 8 (dfield f 40 8))).flatten
  else natBytes (fmtSize (dfield f 37 1)) (dfield f 40 8)

/-- CPY and CPYFILL element by element (R239, R240); an element whose source line has failed stays unwritten (R242). -/
def runElems (i : Instr) (f : Firing) (c : Nat) (s0 : State) : List SAcc → List Nat → Run → Run
  | [], _, r => r
  | a :: rest, pas, r =>
    let n := (a.rd.map (·.2)).getD 0
    let src := pas.take n
    let dst := (pas.drop n).take a.wr.2
    let left := (pas.drop n).drop a.wr.2
    let r := match src.find? (s0.badIsland c) with
      | some pa => { r with bad := r.bad.or (some (a.elem, pa)) }
      | none =>
        let bs := match i, a.rd with
          | .cpy w, some _ => cpyElem w f (src.map (r.byte s0 c))
          | .cpyfill _, _ => fillElem f
          | _, _ => List.replicate a.wr.2 0
        r.put s0 (List.zip dst bs)
    runElems i f c s0 rest left r

/-- The rotated pair of elements of a CPYROT vector (R241), as codes of the page's format. -/
def rotPair (w : EWord) (f : Firing) (ff : FF) (i d x0 x1 : Nat) : Nat × Nat :=
  let sc := dfield f 32 4
  let e := fpDiv .f32 .rne false (Num.ofInt (-2 * (i : Int))) (Num.ofInt d)
  let l := fpLog2 .f32 (FF.f32.decode (dfield f 40 4))
  let fr := fpExp2 .f32 (FF.f32.decode (f32mul e l))
  let th := FF.f32.decode (f32mul (f32ofInt (dsigned f 28 4)) fr)
  let co := fpTrig true th
  let si := fpTrig false th
  let a := fpMul .f32 .rne false (ff.decode x0) (FF.f32.decode sc)
  let b := fpMul .f32 .rne false (ff.decode x1) (FF.f32.decode sc)
  let y0 := f32sub (f32mul a co) (f32mul b si)
  let y1 := f32add (f32mul a si) (f32mul b co)
  let out (y : Nat) : Nat := fpDiv ff (EWord.rm w) (EWord.sat w) (FF.f32.decode y) (FF.f32.decode sc)
  (out y0, out y1)

/-- The two elements of pair `i` (R241). -/
def rotIdx (pairing d i : Nat) : Nat × Nat := if pairing = 0 then (2 * i, 2 * i + 1) else (i, i + d / 2)

/-- CPYROT vector by vector (R241). -/
def runRot (w : EWord) (f : Firing) (c : Nat) (s0 : State) : Nat → Nat → List Nat → Run → Run
  | 0, _, _, r => r
  | n + 1, v, pas, r =>
    let d := dfield f 26 2
    let es := fmtSize (dfield f 36 1)
    let at_ (k : Nat) : List Nat := (pas.drop (2 * es * k)).take es
    let bad (k : Nat) : Option Nat := (at_ k).find? (s0.badIsland c)
    let ff := ((Fmt.ofNat? (dfield f 36 1)).bind FF.ofFmt).getD .f32
    let val (k : Nat) : Nat := bytesToNat ((at_ k).map fun pa => (r.written pa).getD (r.prior s0 c pa))
    let outs := (List.range (d / 2)).flatMap fun i =>
      let (p, q) := rotIdx (dfield f 37 1) d i
      if (bad p).isSome || (bad q).isSome then []
      else
        let (x, y) := rotPair w f ff i d (val p) (val q)
        List.zip (at_ p) (natBytes es x) ++ List.zip (at_ q) (natBytes es y)
    let fail := ((List.range d).filterMap fun k => (bad k).map fun pa => (v * d + k, pa)).head?
    let r : Run := { got := r.got, out := outs.reverse ++ r.out, bad := r.bad.or fail }
    runRot w f c s0 n (v + 1) (pas.drop (2 * es * d)) r

/-- What a running streamer command writes. -/
def runStream (s : State) (c : Nat) (m : Cmd) : Run :=
  match m.i with
  | .cpyrot w => runRot w m.f c s (dfield m.f 24 2) 0 m.pas ⟨m.got, [], none⟩
  | i => runElems i m.f c s (accsOf i m.f) m.pas ⟨m.got, [], none⟩

/-- Is this one of the four running streamer commands, which are the oldest accepted ones (R237)? -/
def Core.streamRuns (k : Core) (n : Nat) : Bool :=
  ((k.cmds.take n).filter Cmd.streams).length < 4

/-- A running streamer command has read its sources, and its writes are under way (R243); a data error that it has met is
kept until it completes (R242). -/
def State.streamWrites (s : State) (c k : Nat) (m : Cmd) : State :=
  let r := runStream s c m
  let s := { s with draw := s.draw + 2 }
  let s := (s.setCmd c k { m with st := .started, status := if r.bad.isSome then 1 else 0, j := (r.bad.map (·.1)).getD 0,
                                  p := (r.bad.map (·.2)).getD 0 }).beginWrites c m.ord r.out.reverse
  match r.bad with
  | some (_, pa) => s.noteUe pa
  | none => s

/-- A streamer command completes: its writes are made as far as its scope asks, and a data error marks its tag (R242,
R243, R315). -/
def State.streamEnds (s : State) (c k : Nat) (m : Cmd) : State :=
  let s := (s.dropCmd c k).endWrites c m.ord m.scope
  if m.status = 0 then s.complete c m .none
  else
    let (s, num) := s.portRecord m.f.core m.f.ctx (portOf m.f.elem) (s.newRec m.f 7 33 0 (BitVec.ofNat 64 m.p) 0 m.j) 3 m.ord
    s.complete c m (.fault num)

/-- STREAMER_COMPLETION (R242, R243): one of the four running commands begins to write, or completes; a record that it
leaves needs room in the replay buffer (R250). -/
def execStreamerCompletion (core k : Nat) (s : State) : Out :=
  match s.cmd? core k with
  | none => .next s
  | some m =>
    if m.port ≠ 33 || !(s.core core).streamRuns k || s.linkDown core m.pas then .next s
    else match m.st with
      | .accepted => .next (s.streamWrites core k m)
      | .started =>
        if m.status ≠ 0 && s.portFull core (portOf m.f.elem) then .next s else .next (s.streamEnds core k m)
      | _ => .next s

end Sys2Proof.Machine
end

