-- ==== Sys2Proof/Machine/Matrix.lean ====
section
/-! DEFINITION. The matrix island (R226-R236): issue, the tile matching store, the array's sums (R191, R194, R195),
consumed events, scale tokens. -/

namespace Sys2Proof.Machine

/-! ## Operands and mods (R228) -/

def aLine (f : Firing) : Nat := bits f.lval.scalar 18 0
def cLine (f : Firing) : Nat := bits f.lval.scalar 37 19
def bLine (f : Firing) : Nat := bits f.rval.scalar 18 0

def EWord.afmt (w : EWord) : Nat := bits w.mods 6 3
def EWord.bfmt (w : EWord) : Nat := bits w.mods 10 7
def EWord.zAcc (w : EWord) : Bool := bit w.mods 11
def EWord.early (w : EWord) : Bool := bit w.mods 12
def EWord.cev (w : EWord) : Bool := bit w.mods 13
def EWord.cbuf (w : EWord) : Bool := bit w.mods 14
def EWord.ctcNum (w : EWord) : Nat := bits w.mods 22 17

def ewordOf (i : Instr) : Option EWord :=
  match i.form with
  | .e w => some w
  | _ => none

def isMat : Instr → Bool
  | .mma _ | .mmas _ | .attsc _ => true
  | _ => false

/-! ## The tile matching store (R232) -/

/-- Is a command in the store, not started? -/
def Cmd.stored (m : Cmd) : Bool := m.port == 32 && isMat m.i && m.st == .accepted

/-- Entries in use: commands that have entered and not started, their scale tokens, and those that wait. -/
def Core.matUsed (k : Core) : Nat :=
  (k.cmds.filter Cmd.stored).length + (k.cmds.filter fun m => m.stored && m.scale.isSome).length + k.scales.length

/-- Is a command in the store an MMAS that waits for a scale token of this tag? -/
def Cmd.wantsScale (m : Cmd) (tag : Word) : Bool :=
  m.stored && m.ord == 0 && m.f.tag == tag && match m.i with
    | .mmas _ => true
    | _ => false

/-- The oldest waiting MMAS of a tag pairs with the oldest scale token of that tag, and is complete; a second set of one tag
pairs only after the first has fired (R60, R190, R232). -/
def Core.matPair (k : Core) (tag : Word) : Core :=
  if k.cmds.any fun m => m.stored && m.scale.isSome && m.f.tag == tag then k
  else match k.cmds.findIdx? (·.wantsScale tag), k.scales.findIdx? fun t => t.2.tag == tag with
    | some n, some j => match k.cmds[n]?, k.scales[j]? with
      | some m, some t => { k with cmds := k.cmds.set n { m with scale := some t.2, ord := k.ordLast + 1 },
                                   scales := k.scales.eraseIdx j, ordLast := k.ordLast + 1 }
      | _, _ => k
    | _, _ => k

/-- A command enters the store; it is complete when it needs no scale token or finds one (R232, R190). -/
def Core.matPut (k : Core) (n : Nat) (m : Cmd) : Core :=
  let k' := { k with ordLast := k.ordLast + 1 }
  match m.i with
  | .mmas _ => { k' with cmds := k.cmds.set n { m with st := .accepted, gseq := k.ordLast + 1 } }.matPair m.f.tag
  | _ => { k' with cmds := k.cmds.set n { m with st := .accepted, ord := k.ordLast + 1 } }

/-- Commands on the channel enter in order while the store has room. -/
def Core.matEnter : Nat → Core → Core
  | 0, k => k
  | n + 1, k =>
    if 32 ≤ k.matUsed then k
    else match k.cmds.findIdx? fun m => m.port == 32 && isMat m.i && m.st == .sent with
      | none => k
      | some j => match k.cmds[j]? with
        | none => k
        | some m => Core.matEnter n (k.matPut j m)

def State.matEnter (s : State) (c : Nat) : State := s.setCore c ((s.core c).matEnter (s.core c).cmds.length)

/-- A command has left the store: the next set of its tag may pair, and commands on the channel may enter. -/
def State.matLeft (s : State) (c : Nat) (m : Cmd) : State :=
  (s.setCore c ((s.core c).matPair m.f.tag)).matEnter c

/-- A matrix command fires: both of its tags are taken under R167. -/
def startMatrix (s : State) (i : Instr) (w : EWord) : Out :=
  fireAs s w.pm w.t0 w.t1 both fun f =>
    if s.stallsTile i f then s.hold i f
    else
      let t := s.takeTag f w.ctag.toNat
      let u := if EWord.cev w then s.takeTag f (EWord.ctcNum w) else .noTag
      if t = .suppress ∨ u = .suppress then
        match s.keptOf f with
        | some kp => s.emitKept f w.t0 w.t1 kp
        | none => s.hold i f
      else if t = .busy ∨ u = .busy then s.hold i f
      else
        let s := if t = .free then s.claimTag f w.ctag.toNat (scopeLow w) else s
        let s := if u = .free then s.claimTag f (EWord.ctcNum w) (scopeLow w) else s
        let m := mkCmd i f 32 (if t = .free then some w.ctag.toNat else none) (scopeLow w)
        (s.addCmd f.core { m with ctc := if u = .free then some (EWord.ctcNum w) else none }).matEnter f.core

def execMma (w : EWord) (s : State) : Out := startMatrix s (.mma w) w
def execMmas (w : EWord) (s : State) : Out := startMatrix s (.mmas w) w
/-- ATTSC computes exactly as MMA does (R230, R294). -/
def execAttsc (w : EWord) (s : State) : Out := startMatrix s (.attsc w) w

/-- Do two tiles of 1,024 lines overlap? -/
def tilesOverlap (a b : Nat) : Bool := decide (a < b + 1024 ∧ b < a + 1024)

/-- Is a tile in range of the present TILE size (R226)? -/
def State.tileFits (s : State) (c line : Nat) : Bool := decide (64 * (line + 1024) ≤ (s.core c).split.size .tile)

/-- Bytes of a TILE tile. -/
def State.tileRead (s : State) (c line : Nat) : List Byte := Memory.read s.mem (tileAddr c (64 * line)) 65536

/-- Is a command in the store or the array, so that it counts in the reference counts of R236? -/
def Cmd.holds (m : Cmd) : Bool := m.port == 32 && isMat m.i && (m.st == .accepted || m.st == .started)

/-- The reference count of a buffer, by its first line (R236). -/
def Core.bufCount (k : Core) (line : Nat) : Nat :=
  ((k.cmds.filter Cmd.holds).map fun (m : Cmd) =>
    (if aLine m.f = line then 1 else 0) + (if bLine m.f = line then 1 else 0)).sum

/-- The buffer whose consumed event a command reports. -/
def Cmd.evLine (m : Cmd) : Nat :=
  match ewordOf m.i with
  | some w => if EWord.cbuf w then bLine m.f else aLine m.f
  | none => 0

/-- Set DONE every consumed-event tag whose time has come: its command has read its buffers and, unless early, nothing
in the store or the array holds the chosen buffer (R236). Field `m` of a command is 1 once that has happened. -/
def State.consumedTags (s : State) (c : Nat) : State :=
  let k := s.core c
  let due (m : Cmd) : Bool := m.ctc.isSome && m.m == 0 && (m.st == .consumed || m.st == .issued || m.st == .finished) &&
    (((ewordOf m.i).map EWord.early).getD false || k.bufCount m.evLine == 0)
  let s := (k.cmds.filter due).foldl (fun s m => (s.releaseAt c m.scope).finishTag c m.ctc .none) s
  let k := s.core c
  let clear (m : Cmd) : Cmd := if due m then { m with m := 1 } else m
  let left := (k.cmds.map clear).filter fun m => !(m.st == .finished && (m.ctc.isNone || m.m == 1))
  s.setCore c { k with cmds := left }

/-- A command that makes no access completes at once (R230, R234, R236). R236 says of status 1 that ctc is DONE at once; that
it is so after a scale token of another kind too is a DESIGN CHOICE (log 115). -/
def State.matEnd (s : State) (c n : Nat) (m : Cmd) (k : Kind) (v : Val) : State :=
  let s := ((s.dropCmd c n).cmdEmit m k v).complete c m .none
  let s := match m.ctc with
    | some t => (s.releaseAt c m.scope).finishTag c (some t) .none
    | none => s
  (s.consumedTags c).matLeft c m

/-- May a complete command start (R232)? -/
def Core.matMayStart (k : Core) (m : Cmd) : Bool :=
  let busy := k.cmds.filter fun o => o.port == 32 && isMat o.i && (o.st == .started || o.st == .consumed || o.st == .issued)
  let free (o : Cmd) : Bool := !busy.any fun b => tilesOverlap (cLine b.f) (cLine o.f)
  let before := k.cmds.filter fun o => o.port == 32 && isMat o.i && o.st == .accepted && o.ord != 0 && o.ord < m.ord
  m.st == .accepted && m.ord != 0 && free m &&
    before.all fun o => !free o && !tilesOverlap (cLine o.f) (cLine m.f)

/-- The lines of a tile as bytes of a core's TILE window. -/
def tileLines (c line : Nat) : List Nat := (List.range 1024).map fun n => tileAddr c (64 * (line + n))

/-- MATRIX_COMMAND_START (R232): the range check passes, and marks the lines that will be written (R224). -/
def execMatrixCommandStart (core k : Nat) (s : State) : Out :=
  match s.cmd? core k with
  | none => .next s
  | some m =>
    if m.port ≠ 32 || !isMat m.i || !(s.core core).matMayStart m then .next s
    else match m.scale.map Tok.kind, m.scale with
      | some .fault, some t => .next (s.matEnd core k m .fault t.val)
      | some .chaff, _ => .next (s.matEnd core k m .chaff (.sc 0))
      | some .null, _ | some (.stop _), _ => .next (s.matEnd core k m .null (.sc 0))
      | _, _ =>
        if s.tileFits core (aLine m.f) && s.tileFits core (bLine m.f) && s.tileFits core (cLine m.f) then
          .next (((s.setCmd core k { m with st := .started }).markLines (tileLines core (cLine m.f))).matLeft core m)
        else .next (s.matEnd core k m .data (.sc 1))

/-- CONSUMED_EVENT (R236): the array has read the last lines of both buffers. -/
def execConsumedEvent (core k : Nat) (s : State) : Out :=
  match s.cmd? core k with
  | none => .next s
  | some m =>
    if m.port ≠ 32 || m.st ≠ .started then .next s
    else
      let m := { m with st := .consumed, a := s.tileRead core (aLine m.f), b := s.tileRead core (bLine m.f) }
      .next ((s.setCmd core k m).consumedTags core)

/-! ## Sums (R191, R194, R195) -/

/-- A product of one A and one B element, times 2^e of its scales; `none` is NaN. -/
def matProd (e : Option Int) (a b : Num) : Option Num :=
  match e, a, b with
  | none, _, _ => none
  | _, .nan _ _, _ => none
  | _, _, .nan _ _ => none
  | some e, a, b => match exactMul a b with
    | some (.fin n m x) => some (.fin n m (x + e))
    | r => r

/-- The group sum S (R195). -/
def groupSum (ps : List (Option Num)) : Num :=
  if ps.any (·.isNone) then .nan false 0
  else
    let xs := ps.filterMap id
    let pos := xs.any fun x => x == .inf false
    let neg := xs.any fun x => x == .inf true
    if pos && neg then .nan false 0
    else if pos then .inf false
    else if neg then .inf true
    else
      let sum := xs.foldl (fun (acc : Int × Int) x => match x with
        | .fin n m e =>
          let lo := min acc.2 e
          let sm : Int := if n then -(m : Int) else m
          (acc.1 * 2 ^ (acc.2 - lo).toNat + sm * 2 ^ (e - lo).toNat, lo)
        | _ => acc) (0, 0)
      if sum.1 = 0 then .fin (xs.all fun x => match x with
        | .fin n _ _ => n
        | _ => false) 0 0
      else .fin (sum.1 < 0) sum.1.natAbs sum.2

/-- c + round(S) for one group after another (R194). -/
def matFold : List (List (Option Num)) → Nat → Nat
  | [], c => c
  | g :: gs, c =>
    let r := match groupSum g with
      | .nan _ _ => 0x7FC00000
      | x => roundNum .f32 .rne false x
    matFold gs (f32add c r)

/-- Cut a list into runs of `n`. -/
def chunks {α : Type} (n : Nat) : Nat → List α → List (List α)
  | 0, _ => []
  | k + 1, l => l.take n :: chunks n k (l.drop n)

/-- The 128 rows of a tile as exact values. -/
def tileRows (fmt : Nat) (bs : List Byte) : List (List Num) :=
  let es := fmtSize fmt
  let ff := ((Fmt.ofNat? fmt).bind FF.ofFmt).getD .f32
  (chunks 512 128 bs).map fun row => (chunks es (512 / es) row).map fun e => ff.decode (bytesToNat e)

/-- Exponents of the scales of the K-groups: the sum of those of A and B; `none` for a NaN scale (R191, R234). -/
def groupExps (scale : Option Tok) (groups : Nat) : List (Option Int) :=
  (List.range groups).map fun g => match scale with
    | none => some 0
    | some t =>
      let byte (k : Nat) : Nat := (t.val.wide >>> (8 * k)) % 256
      let a := byte g
      let b := byte (16 + g)
      if a = 255 || b = 255 then none else some ((a : Int) - 127 + ((b : Int) - 127))

/-- One new accumulator element from a row of A, a column of B and the old value. -/
def matElem (exps : List (Option Int)) (ra rb : List Num) (c : Nat) : Nat :=
  let n := exps.length
  let ga := chunks 32 n ra
  let gb := chunks 32 n rb
  matFold ((List.zip exps (List.zip ga gb)).map fun g => List.zipWith (matProd g.1) g.2.1 g.2.2) c

/-- The exponents that a command's scale token gives the K-groups; those of a command without one are 0 (R234). -/
def matExps (w : EWord) (scale : Option Tok) : List (Option Int) := groupExps scale (512 / fmtSize (EWord.afmt w) / 32)

/-- The new accumulator tile (R230). -/
def matTile (w : EWord) (scale : Option Tok) (a b c : List Byte) : List Byte :=
  let rowsA := tileRows (EWord.afmt w) a
  let rowsB := tileRows (EWord.bfmt w) b
  (List.zip rowsA (chunks 512 128 c)).flatMap fun rc =>
    (List.zip rowsB (chunks 4 128 rc.2)).flatMap fun bc =>
      natBytes 4 (matElem (matExps w scale) rc.1 bc.1 (if EWord.zAcc w then 0 else bytesToNat bc.2))

/-! When C overlaps A or B, each product uses the old or the new contents of every overlapping line (R232): the lines of C
are written in an order that is free, and a product chooses freely whether it reads a line before or after it is written. -/

/-- Row `row` of an operand tile, whose first line is `line`, as one accumulator element sees it: `cl` is the first line of C,
`done` the lines of C written so far, `cur` the contents of C, `key` tells the element and the operand apart. -/
def mixRow (draw key es line cl : Nat) (done : List Nat) (old cur : List Byte) (row : Nat) : List Byte :=
  (List.range 512).map fun j =>
    let l := line + 8 * row + j / 64
    if cl ≤ l && done.contains (l - cl) && Config.eitherOf draw (512 * key + j / es) then
      cur.getD (64 * (l - cl) + j % 64) 0
    else old.getD (512 * row + j) 0

/-- The elements of a row in a format. -/
def rowNums (fmt : Nat) (bs : List Byte) : List Num :=
  (chunks (fmtSize fmt) (512 / fmtSize fmt) bs).map fun e =>
    (((Fmt.ofNat? fmt).bind FF.ofFmt).getD .f32).decode (bytesToNat e)

/-- The 16 accumulator elements of line `n` of C. -/
def mixLine (draw : Nat) (w : EWord) (m : Cmd) (done : List Nat) (cur : List Byte) (n : Nat) : List Byte :=
  (List.range 16).flatMap fun e =>
    let r := n / 8
    let c := 16 * (n % 8) + e
    let row (side fmt line row : Nat) (old : List Byte) : List Num :=
      rowNums fmt (mixRow draw (2 * (128 * r + c) + side) (fmtSize fmt) line (cLine m.f) done old cur row)
    natBytes 4 (matElem (matExps w m.scale) (row 0 (EWord.afmt w) (aLine m.f) r m.a) (row 1 (EWord.bfmt w) (bLine m.f) c m.b)
      (if EWord.zAcc w then 0 else bytesNat cur (64 * n + 4 * e) 4))

/-- The lines of C in their free order. -/
def lineOrder (draw : Nat) : List Nat :=
  (List.range 1024).foldl (fun l n => l.filter (fun o => Config.lineRank draw o ≤ Config.lineRank draw n) ++ n ::
    l.filter fun o => !(Config.lineRank draw o ≤ Config.lineRank draw n)) []

/-- The new accumulator tile when C overlaps A or B (R232). -/
def mixTile (draw : Nat) (w : EWord) (m : Cmd) (c : List Byte) : List Byte :=
  ((lineOrder draw).foldl (fun (t : List Nat × List Byte) n =>
    (n :: t.1, t.2.take (64 * n) ++ mixLine draw w m t.1 t.2 n ++ t.2.drop (64 * n + 64))) ([], c)).2

/-- What a command writes into C, from what C holds. -/
def State.matOut (s : State) (w : EWord) (m : Cmd) (c : List Byte) : List Byte :=
  if tilesOverlap (aLine m.f) (cLine m.f) || tilesOverlap (bLine m.f) (cLine m.f) then mixTile s.draw w m c
  else matTile w m.scale m.a m.b c

/-- MATRIX_COMPLETION (R231, R233): a command whose operands are read begins to write C, each granule at a time of its own,
and then completes. -/
def execMatrixCompletion (core k : Nat) (s : State) : Out :=
  match s.cmd? core k with
  | none => .next s
  | some m =>
    if m.port ≠ 32 then .next s
    else match m.st, ewordOf m.i with
      | .consumed, some w =>
        let out := s.matOut w m (s.tileRead core (cLine m.f))
        let s := { s with draw := s.draw + 1 }
        .next ((s.setCmd core k { m with st := .issued }).beginWrites core m.ord (place (tileAddr core (64 * cLine m.f)) out))
      | .issued, some _ =>
        let s := s.endWrites core m.ord m.scope
        let s := (s.cmdEmit m .data (.sc 0)).complete core m .none
        .next ((s.setCmd core k { m with st := .finished }).consumedTags core)
      | _, _ => .next s

/-! ## Scale tokens (R234, R235) -/

/-- The scale token of an SCLD (R235). -/
def scaleTok (s : State) (w : EWord) (f : Firing) (t : Tok) : Tok :=
  match t.kind with
  | .null | .stop _ => ⟨f.tag, .null, .sc 0⟩
  | .chaff => ⟨f.tag, .chaff, .sc 0⟩
  | .fault => ⟨f.tag, .fault, t.val⟩
  | .data =>
    let v : Nat :=
      if bit w.mods 3 then t.val.wide
      else
        let line := aLine f
        if 64 * (line + 1) ≤ (s.core f.core).split.size .tile then
          bytesToNat (Memory.read s.mem (tileAddr f.core (64 * line)) 64)
        else 2 ^ 512 - 1
    ⟨f.tag, .data, .vec (BitVec.ofNat 512 v)⟩

/-- SCLD (R235): every kind is sent; the left token goes on unchanged. -/
def execScld (w : EWord) (s : State) : Out :=
  withSel s fun f =>
    match gate w.pm f with
    | .absorb => .next (s.absorb f [f.l])
    | .emit k v => .next (s.emit f w.t0 w.t1 k v)
    | .fire => match f.l with
      | none => .next s
      | some t => .next <| if s.stallsTile (.scld w) f then s.hold (.scld w) f
        else issue s (.scld w) w f (scopeLow w) fun s tag =>
          let k := s.core f.core
          let m := mkCmd (.scld w) f 32 tag (scopeLow w)
          let s := s.setCore f.core { k with scaleFlights := k.scaleFlights ++ [(scaleTok s w f t, m)] }
          s.emitHeld 32 f w.t0 w.t1 tag t.kind t.val

/-- SCALE_TOKEN_ARRIVAL (R190, R235): tokens of one element arrive in order; the token takes an entry, and pairs when the
first set of its tag has fired. -/
def execScaleTokenArrival (core k : Nat) (s : State) : Out :=
  let c := s.core core
  match c.scaleFlights[k]? with
  | none => .next s
  | some (t, m) =>
    if 32 ≤ c.matUsed || !(s.cx core m.f.ctx).rateOk || (c.scaleFlights.take k).any (fun o => o.2.f.elem == m.f.elem) then .next s
    else
      let s := s.rateTake core m.f.ctx
      let c := s.core core
      let c := { c with scaleFlights := c.scaleFlights.eraseIdx k, scales := c.scales ++ [(c.ordLast + 1, t)],
                        ordLast := c.ordLast + 1 }
      .next (((s.setCore core (c.matPair t.tag)).complete core m .none).matEnter core)

end Sys2Proof.Machine
end

