-- ==== Sys2Proof/Machine/Pool.lean ====
section
/-! DEFINITION. The SRAM pool: POOLCUT and its transition (R216-R221), POOLMOVE (R222), POOLQRY (R225). -/

namespace Sys2Proof.Machine

/-! ## Sources of a POOLMOVE -/

/-- Source line, destination line and count of a POOLMOVE (R222). -/
def moveOf (f : Firing) : Nat × Nat × Nat := (bits f.lval.scalar 23 0, bits f.lval.scalar 47 24, f.rval.scalar.toNat)

def EWord.drop (w : EWord) : Bool := bit w.mods 0

/-- The bytes that a POOLMOVE copies. -/
def moveSrc (i : Instr) (f : Firing) : List Nat :=
  match i with
  | .poolmove w =>
    let (a, _, n) := moveOf f
    if EWord.drop w then [] else (List.range (64 * n)).map fun j => padAddr f.core (64 * a + j)
  | _ => []

/-! ## Occupancy (R224) -/

def highMark (marks : List Nat) : Nat := 64 * (marks.map (· + 1)).foldl max 0
def Core.padHigh (k : Core) : Nat := highMark k.padMarks
def Core.tileHigh (k : Core) : Nat := highMark k.tileMarks
def Core.cacheLive (k : Core) : Nat := 64 * k.cache.length

/-- The pool lock of a core's partition (R218). -/
def State.poolLock (s : State) (c : Nat) : Bool :=
  match s.partOfCore c with
  | some p => (s.part p).lock
  | none => false

/-! ## POOLCUT -/

/-- The counts of a POOLCUT's operand (R216). -/
def cutOf (f : Firing) : Split :=
  let x := f.lval.scalar
  { frame := bits x 7 0, pad := bits x 15 8, tile := bits x 23 16, cache := bits x 31 24 }

def Split.limitsOk (p : Split) : Bool :=
  4 ≤ p.frame && p.frame ≤ 32 && p.pad ≤ 64 && 4 ≤ p.tile && p.tile ≤ 88 && p.cache ≤ 88

/-- Which roles a cut changes (R217): PAD, TILE, CACHE. -/
def padChanges (a b : Split) : Bool := a.frame != b.frame || a.pad != b.pad
def tileChanges (a b : Split) : Bool := padChanges a b || a.tile != b.tile
def cacheChanges (a b : Split) : Bool := tileChanges a b || a.cache != b.cache

def EWord.flush (w : EWord) : Bool := bit w.mods 0
def EWord.reloc (w : EWord) : Bool := bit w.mods 1
def EWord.wait (w : EWord) : Bool := bit w.mods 2
def EWord.refuse (w : EWord) : Bool := bit w.mods 3

/-- POOLCUT fires (R216): kinds pass, a FAULT also marks, DATA waits to be applied or is answered from its record. -/
def execPoolcut (w : EWord) (s : State) : Out :=
  withSel s fun f =>
    match plan w.pm f [f.l] with
    | .absorb => .next (s.absorb f [f.l])
    | .emit k v => .next ((if k.isFault then s.mark f v else s).emit f w.t0 w.t1 k v)
    | .run => match s.keptOf f with
      | some kp => .next (s.emitKept f w.t0 w.t1 kp)
      | none => .next (s.addPend ⟨.poolcut w, f, .perform, 0⟩)

/-- The result of R220 under the split in force. -/
def cutResult (p : Split) (code : Nat) : Val :=
  scNat (p.cache * 2 ^ 56 + p.tile * 2 ^ 48 + p.pad * 2 ^ 40 + p.frame * 2 ^ 32 + code)

/-- A cut is made or refused: `pool.last`, the record for a replay, the result (R218, R220). -/
def State.cutDone (s : State) (q : Pend) (w : EWord) (code : Nat) : State :=
  let c := q.f.core
  let s := s.setCore c { s.core c with poolLast := code }
  let v := cutResult (s.core c).split code
  (s.keep q.f [(.data, v)]).emit q.f w.t0 w.t1 .data v

/-- The numbers below `n`, from the top down: a move that takes an entry out leaves the numbers still to come. -/
def downTo (n : Nat) : List Nat := (List.range n).reverse

/-- The pending cuts of a core, oldest first, with their context and place among its waiting operations. -/
def Core.cuts (k : Core) : List (Nat × Nat × Pend) :=
  let all := (k.cxs.mapIdx fun x v => (v.pend.mapIdx fun j q => (x, j, q))).flatten
  let mine := all.filter fun e => e.2.2.st == .cut
  (List.range (mine.map (fun e => e.2.2.sseq + 1)).sum).flatMap fun n => mine.filter fun e => e.2.2.sseq == n

/-- POOLCUT_APPLY (R218): the first tests; a cut that passes them is pending behind the earlier ones. -/
def execPoolcutApply (core ctx k : Nat) (s : State) : Out :=
  match (s.cx core ctx).pend[k]? with
  | some q => match q.st, q.i with
    | .perform, .poolcut w =>
      if !s.oldest q.f then .next s
      else
        let p := cutOf q.f
        let others := (s.core core).cuts
        let s' := s.dropPend core ctx k
        if p.frame + p.pad + p.tile + p.cache ≠ 96 then .next (s'.cutDone q w 5)
        else if !p.limitsOk then .next (s'.cutDone q w 4)
        else if s.poolLock core then .next (s'.cutDone q w 6)
        else if !others.isEmpty && EWord.refuse w then .next (s'.cutDone q w 7)
        else .next (s'.addPend { q with st := .cut, sseq := (others.map fun e => e.2.2.sseq + 1).foldl max 0 })
    | _, _ => .next s
  | none => .next s

/-- Is a byte one of a role of core `c` that a cut changes (R217)? -/
def roleChanges (c : Nat) (old new : Split) (pa : Nat) : Bool :=
  match region pa with
  | .win d .frame _ => d == c && old.frame != new.frame
  | .win d .pad _ => d == c && padChanges old new
  | .win d .tile _ => d == c && tileChanges old new
  | _ => false

/-- The writes that running commands of a core have begun, and that `p` picks, are made. -/
def State.finishWrites (s : State) (c : Nat) (p : Nat → Bool) : State :=
  (downTo (s.core c).late.length).foldl (fun s n =>
    if ((s.core c).late[n]?).any fun l => l.runs && l.bytes.any fun x => p x.1 then s.lateWrite c n p else s) s

/-- Commands that have begun to read bytes that `p` picks read those bytes to the end: a NETSEND its buffer, a command that has
read a part of its sources the others of them. -/
def State.finishReads (s : State) (c : Nat) (p : Nat → Bool) : State :=
  let k := s.core c
  let go (m : Cmd) : Cmd := match m.i with
    | .netsend _ => if m.st == .accepted && m.status == 0 && !ntWrites true m.f && m.pas.any p then
        { m with a := s.netBytes c m, pas := [] } else m
    | .intsect _ => m
    | i =>
      if m.st == .accepted && m.got.any fun g => p g.1 then
        let src := m.pas ++ moveSrc i m.f
        { m with got := m.got ++ (src.filter p).map fun pa => (pa, s.cmdByte c m pa) }
      else m
  { s.setCore c { k with cmds := k.cmds.map go } with draw := s.draw + 1 }

/-- Running INTSECTs that are accessing a changed role read what they have not read yet. -/
def State.finishFibres (s : State) (c : Nat) (p : Nat → Bool) : State :=
  let k := s.core c
  let go (m : Cmd) : Cmd := match m.i with
    | .intsect _ =>
      if m.st == .started && (s.cmdPoints m.i m.f).any (fun a => (s.namesByte c a).any p) then s.isFinishes c m else m
    | _ => m
  s.setCore c { k with cmds := k.cmds.map go }

/-- The engine commands of every core that are already accessing a role that the cut changes finish their accesses to it
(R219). -/
def State.finishAccesses (s : State) (c : Nat) (old new : Split) : State :=
  (List.range s.cores.length).foldl (fun s d =>
    if (s.core d).cmds.isEmpty then s
    else ((s.finishWrites d (roleChanges c old new)).finishReads d (roleChanges c old new)).finishFibres d
      (roleChanges c old new)) s

/-- The transition of R219. -/
def State.transition (s : State) (c : Nat) (new : Split) (flush reloc : Bool) : State :=
  let old := (s.core c).split
  let k := s.core c
  let mem := Memory.clear s.mem (frameAddr c (new.size .frame)) (padAddr c 0)
  let mem := if !padChanges old new then mem
    else Memory.clear mem (padAddr c (if reloc then k.padHigh else 0)) (tileAddr c 0)
  let keepT := if reloc then min (old.size .tile) (new.size .tile) else 0
  let mem := if !tileChanges old new then mem else Memory.clear mem (tileAddr c keepT) (windowBase (c + 1))
  let s := { s with mem }
  let s := s.setCore c { k with
    padMarks := if padChanges old new && !reloc then [] else k.padMarks,
    tileMarks := if tileChanges old new then k.tileMarks.filter (fun l => 64 * l < keepT) else k.tileMarks }
  let s := if !cacheChanges old new then s
    else
      let s := if flush then s.cacheRelease c else s
      s.setCore c { s.core c with cache := [], cacheHw := 0 }
  s.setCore c { s.core c with split := new, cutting := none }

/-- POOL_TRANSITION (R218, R219): the oldest pending cut is refused, waits for TILE references to drain, or runs its
transition as one step, before which the accesses under way to the changed roles end. -/
def execPoolTransition (core : Nat) (s : State) : Out :=
  match (s.core core).cuts with
  | [] => .next (s.setCore core { s.core core with cutting := none })
  | (x, j, q) :: _ => match q.i with
    | .poolcut w =>
      let old := (s.core core).split
      let new := cutOf q.f
      let s' := s.setCore core { s.core core with cutting := none }
      let s' := s'.dropPend core x j
      let refs := tileChanges old new && s.tileRefs core
      if new = old then .next (s'.cutDone q w 0)
      else if refs && !EWord.wait w then .next (s'.cutDone q w 2)
      else if refs then
        .next (s.setCore core { s.core core with cutting := some ⟨new, EWord.flush w, EWord.reloc w⟩ })
      else if new.size .frame < (s.core core).frameExtent then .next (s'.cutDone q w 1)
      else if EWord.reloc w && new.size .pad < (s.core core).padHigh then .next (s'.cutDone q w 3)
      else .next (((s'.finishAccesses core old new).transition core new (EWord.flush w) (EWord.reloc w)).cutDone q w 0)
    | _ => .next s

/-! ## POOLMOVE -/

/-- The status of the range check (R222). -/
def moveStatus (k : Core) (w : EWord) (f : Firing) : Nat :=
  let (a, d, n) := moveOf f
  let lines := k.split.pad * 4096
  if n = 0 then 0 else if lines < a + n || (!EWord.drop w && lines < d + n) then 1 else 0

/-- POOLMOVE fires (R222): accepted with its status; with status 1, or nothing to move, it is complete. -/
def execPoolmove (w : EWord) (s : State) : Out :=
  fireAs s w.pm w.t0 w.t1 both fun f =>
    issue s (.poolmove w) w f 1 fun s t =>
      let st := moveStatus (s.core f.core) w f
      let s := s.emitHeld 63 f w.t0 w.t1 t .data (scNat st)
      if st = 1 then s.finishTag f.core t .none
      else
        let (_, d, n) := moveOf f
        let s := if EWord.drop w then s
          else s.markLines ((List.range n).map fun j => padAddr f.core (64 * (d + j)))
        s.addAccepted f.core (mkCmd (.poolmove w) f 63 t 1)

/-- POOLMOVE_COMPLETION (R222): the lines are read, as if into a temporary buffer, and their writes are under way; then it
completes. -/
def execPoolmoveCompletion (core k : Nat) (s : State) : Out :=
  match s.cmd? core k with
  | some m => match m.i with
    | .poolmove w =>
      let (a, d, n) := moveOf m.f
      let gone := (List.range n).filterMap fun j =>
        if !EWord.drop w && d ≤ a + j && a + j < d + n then none else some (a + j)
      let zeros := gone.flatMap fun l => place (padAddr core (64 * l)) (List.replicate 64 0)
      match m.st with
      | .accepted =>
        let copied := if EWord.drop w then []
          else place (padAddr core (64 * d)) ((moveSrc m.i m.f).map (s.cmdByte core m))
        .next ((s.setCmd core k { m with st := .started }).beginWrites core m.ord (copied ++ zeros))
      | .started =>
        let s := (s.dropCmd core k).endWrites core m.ord 1
        let c := s.core core
        let s := s.setCore core { c with padMarks := c.padMarks.filter fun l => !gone.contains l }
        .next (s.complete core m .none)
      | _ => .next s
    | _ => .next s
  | none => .next s

/-! ## POOLQRY -/

/-- A counter by its selector (R225). -/
def State.poolCounter (s : State) (c : Nat) (n : Nat) : Nat :=
  let k := s.core c
  match n with
  | 0 => k.split.frame
  | 1 => k.split.pad
  | 2 => k.split.tile
  | 3 => k.split.cache
  | 4 => k.frameLive
  | 5 => 64 * k.padMarks.length
  | 6 => 64 * k.tileMarks.length
  | 7 => k.cacheLive
  | 8 => k.frameExtent
  | 9 => k.padHigh
  | 10 => k.tileHigh
  | 11 => k.cacheHw
  | 12 => if k.cuts.isEmpty then 0 else 1
  | 13 => if s.poolLock c then 1 else 0
  | 14 => k.poolLast
  | _ => 0

/-- POOLQRY (R225). A transition is one step, so none is under way when it fires. -/
def execPoolqry (w : EWord) (s : State) : Out :=
  fireAs s w.pm w.t0 w.t1 leftOnly fun f =>
    let n := w.mods.toNat % 32
    let v := if n = 31 then Val.vec (vecOf 32 ((List.range 15).map (s.poolCounter f.core)))
      else scNat (s.poolCounter f.core n)
    let k := s.core f.core
    let s := if bit w.mods 5 then s.setCore f.core { k with cacheHw := k.cacheLive } else s
    s.emit f w.t0 w.t1 .data v

end Sys2Proof.Machine
end

