-- ==== Sys2Proof/Machine/Channels.lean ====
section
/-! DEFINITION. Channels between graphs: where an entry goes, room and windows, entering and leaving the FIFO in FRAME
(R53, R85, R86, R332-R334). -/

namespace Sys2Proof.Machine

/-- The members of a context's channel group; a lone context is its own group (R85). -/
def State.membersOf (s : State) (c x : Nat) : List (Nat × Nat) :=
  let l := (s.cx c x).lau.members
  if l.isEmpty then [(c, x)] else l

/-- Where channel `ch` of a context leads: core, context and slot (R85). -/
def State.chanDest (s : State) (c x ch : Nat) : Option (Nat × Nat × Nat) :=
  match chanFind (s.cx c x).lau.image ch with
  | none => none
  | some e => ((s.membersOf c x)[e.dimage]?).map fun m => (m.1, m.2, e.dslot)

def Ctx.fifo (v : Ctx) (slot : Nat) : Option Fifo := v.fifos.find? (·.slot == slot)
def Ctx.setFifo (v : Ctx) (q : Fifo) : Ctx := { v with fifos := v.fifos.map fun o => if o.slot = q.slot then q else o }

/-- The words that widen a channel (R156). -/
def chanWidens (img : List Word) (ch : Nat) : List Word :=
  ((List.range (imgNblocks img)).flatMap fun b => insWords img (blkAt img b)).filter fun w =>
    wordOp w == 0x153 && (wordTargets w).any fun t => match t with
      | .chan c => c.toNat == ch
      | _ => false

/-- The scope at which a channel's entries release and its reads acquire (R156, R333): its dscope, or that of a WIDEN
that feeds it. -/
def chanScope (img : List Word) (e : ChanEnt) : Nat := ((chanWidens img e.chan).map fun w => bits w 21 19).foldl max e.dscope

/-- What is left on a channel whose receiver has ended (log 21). -/
def Ctx.goneRoom (v : Ctx) (ch : Nat) : Nat := ((v.gone.find? (·.1 == ch)).map (·.2)).getD 0

/-- Room for entries on a channel (R47, R334): free entries of the FIFO, or the window of an inter-core channel. -/
def State.chanRoom (s : State) (c x ch : Nat) : Nat :=
  match s.chanDest c x ch with
  | none => 0
  | some (dc, dx, slot) => if dx = homeless then (s.cx c x).goneRoom ch else match (s.cx dc dx).fifo slot with
    | none => 0
    | some q => if dc = c then q.depth - q.ents.length else q.window

/-- FRAME address of entry `k` of a FIFO counted from the head. -/
def Fifo.addr (q : Fifo) (c k : Nat) : Nat := frameAddr c (q.base + 64 * ((q.head + k) % q.depth))

/-- An entry enters the FIFO (R53). -/
def State.fifoPut (s : State) (c x slot : Nat) (k : Kind) (v : Val) : State :=
  match (s.cx c x).fifo slot with
  | none => s
  | some q =>
    let bytes := place (q.addr c q.ents.length) (natBytes (if v.isVec then 64 else 8) v.wide)
    let s := { s with mem := Memory.putAll s.mem bytes }
    s.setCx c x ((s.cx c x).setFifo { q with ents := q.ents ++ [(k, v.isVec)] })

/-- The token that entry `k` of a FIFO gives: its value bytes as FRAME holds them now (R56). -/
def State.fifoGet (s : State) (c : Nat) (q : Fifo) (k : Nat) : Option (Kind × Val) :=
  (q.ents[k]?).map fun e =>
    (e.1, if e.2 then .vec (BitVec.ofNat 512 (bytesToNat (Memory.read s.mem (q.addr c k) 64)))
      else .sc (BitVec.ofNat 64 (bytesToNat (Memory.read s.mem (q.addr c k) 8))))

/-- The head entry leaves; an inter-core channel owes its sender one credit (R334). -/
def State.fifoDrop (s : State) (c x slot : Nat) : State :=
  match (s.cx c x).fifo slot with
  | none => s
  | some q =>
    let remote := q.src.any (· != c)
    s.setCx c x ((s.cx c x).setFifo
      { q with head := if q.depth = 0 then 0 else (q.head + 1) % q.depth, ents := q.ents.drop 1,
               credits := if remote then q.credits + 1 else q.credits })

/-- The receiving FIFO knows the core of its sender, and the scope at which a read acquires (R156, R333). -/
def Fifo.fedBy (q : Fifo) (c : Nat) (img : List Word) (ch : Nat) : Fifo :=
  match chanFind img ch with
  | none => { q with src := some c }
  | some e => { q with src := some c, scope := chanScope img e, widened := !(chanWidens img ch).isEmpty }

/-- An entry leaves its sender (R48, R333-R335). -/
def State.chanSend (s : State) (c x ch : Nat) (k : Kind) (v : Val) : State :=
  match s.chanDest c x ch with
  | none => s
  | some (dc, dx, slot) =>
    if dx = homeless then
      let u := s.cx c x
      s.setCx c x { u with gone := u.gone.map fun g => if g.1 = ch then (g.1, g.2 - 1) else g }
    else match (s.cx dc dx).fifo slot with
      | none => s
      | some q =>
        let q := q.fedBy c (s.cx c x).lau.image ch
        if dc = c then (s.setCx dc dx ((s.cx dc dx).setFifo q)).fifoPut dc dx slot k v
        else s.setCx dc dx ((s.cx dc dx).setFifo { q with window := q.window - 1, transit := q.transit ++ [(k, v)] })

/-- Does a channel-bound slot's channel cross a link that has failed (R396)? -/
def State.chanStalls (s : State) (c x slot : Nat) : Bool :=
  match ((s.cx c x).fifo slot).bind (·.src) with
  | some m => s.linkFailed (dieOf m) (dieOf c)
  | none => false

/-- CHANNEL_ENTRY_ARRIVAL (R335): the oldest entry in transit enters the FIFO. -/
def execChannelEntryArrival (core ctx slot : Nat) (s : State) : Out :=
  match (s.cx core ctx).fifo slot with
  | none => .next s
  | some q => if s.chanStalls core ctx slot then .next s else match q.transit with
    | [] => .next s
    | (k, v) :: rest =>
      let s := s.setCx core ctx ((s.cx core ctx).setFifo { q with transit := rest })
      .next (s.fifoPut core ctx slot k v)

/-- SEAM_CREDIT (R334): one flit returns up to 32 credits. -/
def execSeamCredit (core ctx slot : Nat) (s : State) : Out :=
  match (s.cx core ctx).fifo slot with
  | none => .next s
  | some q =>
    let n := if s.chanStalls core ctx slot then 0 else min 32 q.credits
    .next (s.setCx core ctx ((s.cx core ctx).setFifo { q with window := q.window + n, credits := q.credits - n }))

end Sys2Proof.Machine
end

