-- ==== Sys2Proof/Machine/Gather.lean ====
section
/-! DEFINITION. Gather units (R255-R257), intersect units (R258-R260), sparse accumulators (R261-R263). -/

namespace Sys2Proof.Machine

/-! ## GATH -/

/-- Is a command an open request of a gather unit? -/
def Cmd.opn (m : Cmd) (port : Nat) : Bool := m.port == port && m.st == .accepted

/-- The row block of a request: its first physical byte's aligned 1 KiB (R256). -/
def Cmd.block (m : Cmd) : Nat := m.pas.headD 0 / 1024

/-- A request that its unit holds fails under the mode of its context (R141, R257); the request while the unit is frozen. -/
def State.gathFails (s : State) (c : Nat) (m : Cmd) (e : AccErr) : State × Option Cmd :=
  match s.engineFails m.f m.port e m.gseq .island with
  | (s, .frozen) => (s, some { m with frozen := true })
  | (s, .chaff) => ((s.cmdEmit m .chaff (.sc 0)).complete c m .chaff, none)
  | (s, .fault n) => ((s.cmdEmit { m with ctag := none } .fault (faultVal n)).freeTag c m.ctag, none)

/-- One request of an entry that is being issued: it reads its bytes, or fails on one that memory does not give (R384). -/
def State.gathTake (s : State) (c ord : Nat) (m : Cmd) : State × Option Cmd :=
  match m.pas.find? (s.badIsland c) with
  | none => (s, some { m with st := .issued, ord, a := s.readPas c m.pas })
  | some pa => if s.portFull c (portOf m.f.elem) then (s, some m) else s.gathFails c m ⟨7, pa⟩

/-- Issue the entry that holds a row block: every request of it reads its bytes at this one moment (R256). At a frozen unit the
requests of the context behind the failing one stay (R252). -/
def State.gathIssue (s : State) (c port block : Nat) : State :=
  let k := s.core c
  let ord := ((k.cmds.filter fun m => m.port == port && m.st == .issued).map (·.ord + 1)).foldl max 1
  let go (t : State × List Cmd) (m : Cmd) : State × List Cmd :=
    if m.opn port && m.block == block && !m.frozen &&
        !(t.2.any fun o => o.port == port && o.f.ctx == m.f.ctx && (o.frozen || o.st == .sent)) then
      let r := t.1.gathTake c ord m
      (r.1, t.2 ++ r.2.toList)
    else (t.1, t.2 ++ [m])
  let t := k.cmds.foldl go (s, [])
  t.1.setCore c { t.1.core c with cmds := t.2 }

/-- The distinct row blocks that a unit has open, in the order they were opened. -/
def Core.gathOpen (k : Core) (port : Nat) : List Nat :=
  ((k.cmds.filter (·.opn port)).map Cmd.block).eraseDups

/-- The next request of a context has the next sequence number of the unit (R256). -/
def State.gseqStep (s : State) (f : Firing) (port : Nat) : State :=
  let v := s.cx f.core f.ctx
  s.setCx f.core f.ctx { v with gseq := v.gseq.set (port - 34) ((v.gseq.getD (port - 34) 0 + 1) % 2 ^ 32) }

/-- Room for a request of a row block: an entry holds it or is free; with 64 open the oldest is issued first (R256). `none`
while that one cannot be, for a failed link (R396) or a frozen unit (R252). -/
def State.gathRoom (s : State) (c port blk : Nat) : Option State :=
  let k := s.core c
  match k.gathOpen port with
  | [] => some s
  | b :: rest =>
    if rest.length < 63 || (b :: rest).contains blk then some s
    else if s.linkDown c ((k.cmds.filter fun m => m.opn port && m.block == b).flatMap (·.pas)) then none
    else
      let t := s.gathIssue c port b
      if ((t.core c).gathOpen port).length < 64 then some t else none

/-- A checked request joins the entry of its row block, or opens one (R256). -/
def gathEnter (s : State) (w : EWord) (f : Firing) (port : Nat) (tag : Option Nat) (pas : List Nat) : State :=
  let n := (s.cx f.core f.ctx).gseq.getD (port - 34) 0
  let s := s.gseqStep f port
  let blk := pas.headD 0 / 1024
  let k := s.core f.core
  let opened := match k.cmds.find? fun m => m.opn port && m.block == blk with
    | some m => m.opened
    | none => k.cycle.toNat
  s.addCmd f.core { mkCmd (.gath w) f port tag (gathScope w) with st := .accepted, gseq := n, pas, opened }

/-- GATH (R255-R257): a request is checked when it fires. A request that fails under TRAP leaves its tag free (log 48); one
that fails sends CHAFF or FAULT to T1 too (DESIGN CHOICE, log 110). -/
def execGath (w : EWord) (s : State) : Out :=
  fireAs s w.pm w.t0 w.t1 leftOnly fun f =>
    let port := w.port.toNat
    let n := (s.cx f.core f.ctx).gseq.getD (port - 34) 0
    let fm := gathFmt w
    let ea := f.lval.scalar.toNat
    let vas := vasIf ea (fmtBytes fm) (spanBytes (gathType w) fm)
    if s.isFrozen f.core port f.ctx || s.portFull f.core (portOf f.elem) || s.stallsTile (.gath w) f then s.hold (.gath w) f
    else match s.takeTag f w.ctag.toNat with
      | .suppress => match s.keptOf f with
        | some kp => s.emitKept f w.t0 w.t1 kp
        | none => s.hold (.gath w) f
      | .busy => s.hold (.gath w) f
      | t =>
        if s.walkStalls f.core vas then s.hold (.gath w) f
        else
          let s := s.fillTlb f.core vas
          match s.check f.core .island ea (spanBytes (gathType w) fm) (fmtBytes fm) with
          | .ok pas => match s.gathRoom f.core port (pas.headD 0 / 1024) with
            | none => s.hold (.gath w) f
            | some s =>
              if s.isFrozen f.core port f.ctx then s.hold (.gath w) f
              else if t = .free then
                gathEnter (s.claimTag f w.ctag.toNat (gathScope w)) w f port (some w.ctag.toNat) pas
              else gathEnter s w f port none pas
          | .error e =>
            match s.engineFails f port e n .island with
            | (s, .frozen) =>
              let s := s.gseqStep f port
              let m := { mkCmd (.gath w) f port none (gathScope w) with gseq := n, frozen := true }
              if t = .free then
                (s.claimTag f w.ctag.toNat (gathScope w)).addCmd f.core { m with ctag := some w.ctag.toNat }
              else s.addCmd f.core m
            | (s, .chaff) =>
              let s := s.gseqStep f port
              let s := s.emitHeld port f w.t0 w.t1 (if t = .free then some w.ctag.toNat else none) .chaff (.sc 0)
              if t = .free then (s.claimTag f w.ctag.toNat (gathScope w)).finishTag f.core (some w.ctag.toNat) .chaff
              else s
            | (s, .fault num) => (s.gseqStep f port).emitFrom (srcIsland port) f w.t0 w.t1 .fault (faultVal num)

/-- A request that a frozen unit held is checked again, when the unit goes on (R252). -/
def State.gathAgain (s : State) (c k : Nat) (m : Cmd) (w : EWord) : State :=
  let fm := gathFmt w
  let ea := m.f.lval.scalar.toNat
  let n := spanBytes (gathType w) fm
  let vas := vasIf ea (fmtBytes fm) n
  if m.frozen || s.isFrozen c m.port m.f.ctx || s.portFull c (portOf m.f.elem) || s.walkStalls c vas then s
  else
    let s := s.fillTlb c vas
    match s.check c .island ea n (fmtBytes fm) with
    | .error e => match s.gathFails c m e with
      | (s, some m) => s.setCmd c k m
      | (s, none) => s.dropCmd c k
    | .ok pas => match s.gathRoom c m.port (pas.headD 0 / 1024) with
      | none => s
      | some s =>
        let v := s.core c
        let go (o : Cmd) : Cmd := if o = m then { m with st := .accepted, pas, opened := v.cycle.toNat } else o
        s.setCore c { v with cmds := v.cmds.map go }

/-- GATHER_ENTRY_ISSUE (R256): an entry that has been open for 256 cycles. -/
def execGatherEntryIssue (core k : Nat) (s : State) : Out :=
  match s.cmd? core k with
  | some m =>
    match m.i with
    | .gath w =>
      if m.st == .sent then .next (s.gathAgain core k m w)
      else if m.st == .accepted && !s.linkDown core m.pas && m.opened + 256 ≤ (s.core core).cycle.toNat then
        .next (s.gathIssue core m.port m.block)
      else .next s
    | _ => .next s
  | none => .next s

/-- One request returns: the result to T0, the sequence number to T1 (R256). -/
def State.gathReturn (s : State) (c : Nat) (m : Cmd) : State :=
  match m.i with
  | .gath w =>
    let v := loadValue (gathType w) (gathFmt w) oneF32 m.a
    let out := [(Kind.data, v), (Kind.data, scNat m.gseq)]
    let s := if m.ctag.isSome then s.keep m.f out else s
    let s := if m.orphan then s
      else (s.emitKept m.f w.t0 w.t1 ⟨m.f.hdl, m.f.seq, m.f.idx, out⟩).relabel c (s.core c).fabric.length (srcIsland m.port)
    s.complete c m .none
  | _ => s

/-- GATHER_RETURN (R256): entries return in the order they were issued, their requests in sequence order. -/
def execGatherReturn (core k : Nat) (s : State) : Out :=
  match s.cmd? core k with
  | some m =>
    let same (o : Cmd) : Bool := o.port == m.port && o.st == .issued
    if !same m || (s.core core).cmds.any fun o => same o && o.ord < m.ord then .next s
    else
      let c := s.core core
      let out := c.cmds.filter fun o => same o && o.ord == m.ord
      let s := s.setCore core { c with cmds := c.cmds.filter fun o => !(same o && o.ord == m.ord) }
      .next (out.foldl (fun s o => s.gathReturn core o) s)
  | none => .next s

/-! ## INTSECT -/

def EWord.chanNum (w : EWord) : Nat := bits w.mods 8 3

/-- The status of acceptance (R258). -/
def isStatus (f : Firing) : Nat :=
  if !isFltCode (isVfmt f) then 1 else if 2 ^ 20 < isNb f then 2 else if dfield f 57 7 ≠ 0 then 3 else 0

/-- INTSECT fires: the unit takes the command and its status is emitted; with a status of 1 to 3 it is complete (R258). -/
def execIntsect (w : EWord) (s : State) : Out :=
  fireAs s w.pm w.t0 w.t1 leftOnly fun f =>
    let port := w.port.toNat
    if s.isFrozen f.core port f.ctx || s.stallsTile (.intsect w) f then s.hold (.intsect w) f
    else issue s (.intsect w) w f (scopeLow w) fun s t =>
      let st := isStatus f
      let s := s.emitHeld port f w.t0 w.t1 t .data (scNat st)
      if st ≠ 0 then (s.releaseAt f.core (scopeLow w)).finishTag f.core t .none
      else s.addAccepted f.core (mkCmd (.intsect w) f port t (scopeLow w))

/-- A stream token's value: lanes 0 to 3 (R259). -/
def streamVal (l : List Nat) : Val := .vec (vecOf 32 l)

/-- The walk of one fibre pair from `p`, `q` on: the next match, or none (R259). -/
def walkPair (ac bc : Nat → Nat) (na nb : Nat) : Nat → Nat → Nat → Option (Nat × Nat)
  | 0, _, _ => none
  | n + 1, p, q =>
    if na ≤ p || nb ≤ q then none
    else if ac p = bc q then some (p, q)
    else if ac p < bc q then walkPair ac bc na nb n (p + 1) q
    else walkPair ac bc na nb n p (q + 1)

/-- The stream of an INTSECT ends with one FAULT entry, which names a record (R260). -/
def State.isEnds (s : State) (c n : Nat) (m : Cmd) (w : EWord) (num : Nat) : State :=
  ((s.chanSend c m.f.ctx (EWord.chanNum w) .fault (faultVal num)).dropCmd c n).complete c m (.fault num)

/-- A failing fibre check (R260): `m` is command `n`; the entries that stand for it need room, which the caller has
tested. `lane` is the index of the fibre, `next` the walk's next fibre. -/
def isFails (s : State) (c n : Nat) (m : Cmd) (e : AccErr) (sseq lane next : Nat) : State :=
  match m.i with
  | .intsect w =>
    match s.engineFails m.f m.port e sseq .island m.ord with
    | (s, .frozen) => s.setCmd c n { m with frozen := true }
    | (s, .chaff) =>
      let s := s.chanSend c m.f.ctx (EWord.chanNum w) .chaff (streamVal [0, 0, 0, lane])
      s.setCmd c n { m with st := .started, status := 1, j := next, m := 0, opened := 0 }
    | (s, .fault num) => s.isEnds c n m w num
  | _ => s

/-- One move of a running INTSECT: it opens the A fibre, opens a B fibre, or sends the next token (R259, R260). Fields of
the command: `j` the fibre, `opened` whether it is read, `p` and `q` the walk, `m` the matches, `a` and `b` the fibres'
bytes, `status` 1 once a fibre has yielded CHAFF, 2 and more the number of the record of a frozen read that yields FAULT; `pas` are
the B fibres that a cut has made it read before (R219), and `got` their bytes, each with its fibre. -/
def isMove (s : State) (c n : Nat) (m : Cmd) (w : EWord) : State :=
  let f := m.f
  let es := fmtSize (isVfmt f)
  let ch := EWord.chanNum w
  let send (s : State) (k : Kind) (l : List Nat) : State := s.chanSend c f.ctx ch k (streamVal l)
  if 2 ≤ m.status then s.isEnds c n m w (m.status - 2)
  else if m.st == .accepted then
    match s.readFibre c (isAptr f) (isAcrd f) (isAval f) es (isRow f) with
    | none => s
    | some (s, .error e) => isFails s c n m e 0 (isNb f) (isNb f)
    | some (s, .ok fb) =>
      s.setCmd c n { m with st := .started, a := fb.bytes, j := if fb.n = 0 then isNb f else 0, opened := 0, m := 0 }
  else if isNb f ≤ m.j then
    let s := send s (.stop 1) [0, 0, 0, isNb f]
    (s.dropCmd c n).complete c m (if m.status = 1 then .chaff else .none)
  else if m.opened = 0 && m.pas.contains m.j then
    s.setCmd c n { m with b := (m.got.filter (·.1 == m.j)).map (·.2), opened := 1, p := 0, q := 0, m := 0 }
  else if m.opened = 0 then
    match s.readFibre c (isBptr f) (isBcrd f) (isBval f) es m.j with
    | none => s
    | some (s, .error e) => isFails s c n m e (m.j + 1) m.j (m.j + 1)
    | some (s, .ok fb) => s.setCmd c n { m with b := fb.bytes, opened := 1, p := 0, q := 0, m := 0 }
  else
    let na := m.a.length / (4 + es)
    let nb := m.b.length / (4 + es)
    let ac (i : Nat) : Nat := bytesNat m.a (4 * i) 4
    let bc (i : Nat) : Nat := bytesNat m.b (4 * i) 4
    let ff := ((Fmt.ofNat? (isVfmt f)).bind FF.ofFmt).getD .f32
    let val (bs : List Byte) (len i : Nat) : Nat :=
      roundNum .f32 .rne false (ff.decode (bytesNat bs (4 * len + es * i) es))
    match walkPair ac bc na nb (na + nb + 1) m.p m.q with
    | some (p, q) =>
      (send s .data [val m.a na p, val m.b nb q, ac p, m.j]).setCmd c n { m with p := p + 1, q := q + 1, m := m.m + 1 }
    | none =>
      let s := if 0 < m.m then send s (.stop 0) [0, 0, 0, m.j] else s
      s.setCmd c n { m with j := m.j + 1, opened := 0, m := 0 }

/-- Has an INTSECT room for its next token? What one sends whose context has ended is lost (R49; DEDUCED, log 21). -/
def State.isRoom (s : State) (c : Nat) (m : Cmd) (w : EWord) : Bool :=
  m.f.ctx == homeless || s.chanRoom c m.f.ctx (EWord.chanNum w) != 0

/-- INTSECT_STREAM_SEND (R259, R260): the oldest INTSECT of its unit moves on while the channel has room. -/
def execIntsectStreamSend (core k : Nat) (s : State) : Out :=
  match s.cmd? core k with
  | some m => match m.i with
    | .intsect w =>
      let first := (s.core core).cmds.findIdx? fun o => o.port == m.port && match o.i with
        | .intsect _ => true
        | _ => false
      if first ≠ some k || m.frozen || s.behindFrozen core k m || !s.isRoom core m w || s.portFull core (portOf m.f.elem) then
        .next s
      else .next (isMove s core k m w)
    | _ => .next s
  | none => .next s

/-! ## SPACC and SPFLUSH (R261, R262) -/

/-- PAD byte of the bitmap byte and of the value of coordinate `j`. -/
def spBit (w : EWord) (j : Nat) : Nat := 64 * spLine w + j / 8
def spVal (w : EWord) (j : Nat) : Nat := 64 * (spLine w + spWidth w / 512) + 4 * j

/-- The range check of the tile: the first byte beyond PAD (R261). -/
def State.spCheck (s : State) (c : Nat) (w : EWord) : Option AccErr :=
  let sz := (s.core c).split.size .pad
  let fin := 64 * (spLine w + spWidth w / 512 + spWidth w / 16)
  if fin ≤ sz then none else some ⟨2, max sz (64 * spLine w)⟩

def State.padByte (s : State) (c a : Nat) : Nat := (Memory.get s.mem (padAddr c a)).toNat
def State.padWord (s : State) (c a : Nat) : Nat := bytesToNat (Memory.read s.mem (padAddr c a) 4)

/-- What waiting loads have read of the lines of some bytes is read again, so that each load sees one state of each line
(R263). -/
def State.rereads (s : State) (pas : List Nat) : State :=
  let lines := (pas.map (· / 64)).eraseDups
  let again (q : Pend) : Pend := match q.st with
    | .load l got => { q with st := .load l (got.filter fun g => !lines.contains (g.1 / 64)) }
    | _ => q
  { s with cores := s.cores.map fun k =>
      { k with cxs := k.cxs.map fun v => if v.pend.isEmpty then v else { v with pend := v.pend.map again } } }

/-- Write PAD bytes of an own core, marking their lines. -/
def State.padStore (s : State) (c a : Nat) (bs : List Byte) : State :=
  let l := place (padAddr c a) bs
  ((s.store l).markLines (l.map (·.1))).rereads (l.map (·.1))

/-- SPACC fires (R261): answered from the value kept for a replay, or waiting to be applied, as one does that a RETRY tries
again under the tag that it holds. -/
def execSpacc (w : EWord) (s : State) : Out :=
  fireAs s w.pm w.t0 w.t1 both fun f =>
    if s.isFrozen f.core w.port.toNat f.ctx then s.hold (.spacc w) f
    else match s.keptOf f, s.adopt (.spacc w) f with
      | some kp, _ => s.emitKept f w.t0 w.t1 kp
      | none, some s => s
      | none, none => match s.takeTag f w.ctag.toNat with
        | .noTag | .suppress => s.addPend ⟨.spacc w, f, .perform, 0⟩
        | .free => (s.claimTag f w.ctag.toNat 1).addPend ⟨.spacc w, f, .perform, 0⟩
        | .busy => s.hold (.spacc w) f

/-- The tag that a waiting SPACC holds. -/
def State.spTag (s : State) (f : Firing) (w : EWord) : Option Nat :=
  if s.granted f w.ctag.toNat && ((s.core f.core).ctag w.ctag.toNat).owner == some f.owner then some w.ctag.toNat else none

/-- The update of an SPACC (R261): the new state and the emitted token. -/
def spUpdate (s : State) (c : Nat) (w : EWord) (x j : Nat) : State × Kind × Val :=
  if spWidth w ≤ j then (s, .null, .sc 0)
  else
    let b := s.padByte c (spBit w j)
    if b.testBit (j % 8) then
      let y := f32add (s.padWord c (spVal w j)) x
      (s.padStore c (spVal w j) (natBytes 4 y), .data, scNat y)
    else
      let s := s.padStore c (spVal w j) (natBytes 4 x)
      (s.padStore c (spBit w j) [BitVec.ofNat 8 (b + 2 ^ (j % 8))], .data, scNat x)

/-- What an applied SPACC comes to: the result is kept with the tag's mark, and its unit emits it (R167, R244, R261). -/
def State.spDone (s : State) (q : Pend) (w : EWord) (k : Kind) (v : Val) (mark : Mark) : State :=
  let c := q.f.core
  let s := (s.keep q.f [(k, v)]).finishTag c (s.spTag q.f w) mark
  if q.sseq = 1 then s else s.emitFrom (srcIsland w.port.toNat) q.f w.t0 w.t1 k v

/-- A failed check of an SPACC (R141, R261). One whose instance was squashed leaves nothing: the replay makes it again. -/
def State.spFails (s : State) (q : Pend) (w : EWord) (e : AccErr) : State :=
  let c := q.f.core
  let tag := s.spTag q.f w
  if q.sseq = 1 then s.freeTag c tag
  else
    let (s, ord) := s.takeOrd c
    match s.engineFails q.f w.port.toNat e 0 .atomic ord with
    | (s, .frozen) => s.addPend { q with st := .frozen w.port.toNat }
    | (s, .chaff) => s.spDone q w .chaff (.sc 0) .chaff
    | (s, .fault n) => (s.emitFrom (srcIsland w.port.toNat) q.f w.t0 w.t1 .fault (faultVal n)).freeTag c tag

/-- SPACC_APPLY (R261): a coordinate beyond the width makes no access. Two units that serve one tile apply their updates one
after the other here, so that none is lost (DESIGN CHOICE, log 111). -/
def execSpaccApply (core ctx k : Nat) (s : State) : Out :=
  match (s.cx core ctx).pend[k]? with
  | some q => match q.st, q.i with
    | .perform, .spacc w =>
      let port := w.port.toNat
      if !s.due q || s.isFrozen core port ctx || s.portFull core (portOf q.f.elem) then .next s
      else
        let s := s.dropPend core ctx k
        let j := q.f.rval.scalar.toNat
        match (if spWidth w ≤ j then none else s.spCheck core w) with
        | some e => .next (s.spFails q w e)
        | none =>
          let (s, kd, v) := spUpdate s core w (q.f.lval.scalar.toNat % 2 ^ 32) j
          .next (s.spDone q w kd v .none)
    | _, _ => .next s
  | none => .next s

/-- SPFLUSH fires (R262): a command to its unit. -/
def execSpflush (w : EWord) (s : State) : Out :=
  fireAs s w.pm w.t0 w.t1 both fun f =>
    if s.isFrozen f.core w.port.toNat f.ctx || s.stallsTile (.spflush w) f then s.hold (.spflush w) f
    else issue s (.spflush w) w f (scopeLow w) fun s t =>
      s.addAccepted f.core (mkCmd (.spflush w) f w.port.toNat t (scopeLow w))

/-- The coordinates whose bits are set, ascending. -/
def State.spSet (s : State) (c : Nat) (w : EWord) : List Nat :=
  (List.range (spWidth w)).filter fun j => (s.padByte c (spBit w j)).testBit (j % 8)

/-- Checks of every byte that a flush writes: the physical bytes of each coordinate and value. -/
def State.spChecks (s : State) (c : Nat) : List ((Nat × Nat) × (Nat × Nat)) → Except AccErr (List (List Nat × List Nat))
  | [] => .ok []
  | ((a, n), (b, m)) :: rest => match s.check c .store a n n with
    | .error e => .error e
    | .ok ps => match s.check c .store b m m with
      | .error e => .error e
      | .ok qs => match s.spChecks c rest with
        | .error e => .error e
        | .ok more => .ok ((ps, qs) :: more)

/-- The two addresses of output `n` of a flush, each with its size (R262). -/
def spOut (w : EWord) (f : Firing) (n : Nat) : (Nat × Nat) × (Nat × Nat) :=
  let es := fmtSize (bits w.mods 6 3)
  ((effAddr f.lval.scalar.toNat ((4 * n : Nat)), 4), (effAddr f.rval.scalar.toNat ((es * n : Nat)), es))

/-- The bytes that a flush writes for the coordinates `js`, whose outputs have the physical bytes `pas` (R262). -/
def State.spBytes (s : State) (c : Nat) (w : EWord) (js : List Nat) (pas : List (List Nat × List Nat)) :
    List (Nat × Byte) :=
  let code := bits w.mods 6 3
  let ff := ((Fmt.ofNat? code).bind FF.ofFmt).getD .f32
  (List.zip js pas).flatMap fun jp =>
    List.zip jp.2.1 (natBytes 4 jp.1) ++
    List.zip jp.2.2 (natBytes (fmtSize code) (roundNum ff .rne false (FF.f32.decode (s.padWord c (spVal w jp.1)))))

/-- A failed check of a flush (R141, R262); its record has stream sequence number 0 (DESIGN CHOICE, log 19). -/
def State.flushFails (s : State) (c k : Nat) (m : Cmd) (e : AccErr) : State :=
  match s.engineFails m.f m.port e 0 .store m.ord with
  | (s, .frozen) => s.setCmd c k { m with frozen := true }
  | (s, .chaff) => ((s.dropCmd c k).cmdEmit m .chaff (.sc 0)).complete c m .chaff
  | (s, .fault n) => ((s.dropCmd c k).cmdEmit { m with ctag := none } .fault (faultVal n)).freeTag c m.ctag

/-- A flush is applied: its writes are under way, and its bits are cleared (R262). -/
def State.flushRun (s : State) (c k : Nat) (m : Cmd) (w : EWord) : State :=
  let js := s.spSet c w
  let at_ := (List.range js.length).map (spOut w m.f)
  match s.spCheck c w, s.fillLoads c (at_.flatMap fun a => [a.1, a.2]) with
  | some e, _ => s.flushFails c k m e
  | none, none => s
  | none, some s => match s.spChecks c at_ with
    | .error e => s.flushFails c k m e
    | .ok pas =>
      let outs := s.spBytes c w js pas
      let dst := outs.map (·.1)
      let s := (s.markLines dst).setCmd c k { m with st := .started, j := js.length, pas := dst }
      let s := s.beginWrites c m.ord outs
      if js.isEmpty then s else s.padStore c (64 * spLine w) (List.replicate (spWidth w / 8) 0)

/-- SPFLUSH_COMPLETION (R262): it is applied, or emits its count once its writes are visible at the scope. -/
def execSpflushCompletion (core k : Nat) (s : State) : Out :=
  match s.cmd? core k with
  | some m => match m.i with
    | .spflush w =>
      if m.frozen || s.behindFrozen core k m || s.portFull core (portOf m.f.elem) || s.linkDown core m.pas then .next s
      else if m.st = .accepted then .next (s.flushRun core k m w)
      else .next ((((s.dropCmd core k).endWrites core m.ord m.scope).cmdEmit m .data (scNat m.j)).complete core m .none)
    | _ => .next s
  | none => .next s

end Sys2Proof.Machine
end

