-- ==== Sys2Proof/Machine/Coll.lean ====
section
/-! DEFINITION. Collectives (R264-R266) and the network port: NETSEND, NETRECV (R267-R269), queue pairs (R394), peers
of the network (R269, R357). -/

namespace Sys2Proof.Machine

/-- The engine record of a completion with mark FAULT (R338, R339): kind 13, the status in its detail. -/
def State.engineRecord (s : State) (m : Cmd) (status : Nat) : State × Nat :=
  s.portRecord m.f.core m.f.ctx (portOf m.f.elem) (s.newRec m.f 13 40 0 0 (BitVec.ofNat 64 status) 0) 0 m.ord

/-- Completion of a command of port 40 with a status: a status other than 0 marks FAULT (R265, R268). -/
def State.engineDone (s : State) (c : Nat) (m : Cmd) (bad : Bool) (status : Nat) : State :=
  if bad then
    let (s, n) := s.engineRecord m status
    s.complete c m (.fault n)
  else s.complete c m .none

/-- Bytes of a save image in memory, when it has an area. -/
def State.poke (s : State) (area : List Nat) (off : Nat) (bs : List Byte) : State :=
  s.writeMem ((bs.mapIdx fun n b => (off + n, b)).filterMap fun t => (area[t.1 / 64]?).map fun a => (a + t.1 % 64, t.2))

/-- A completion tag of context `x`: its state in bits 1:0, its mark in bits 3:2, an owner of that context in bit 4. -/
def Ctag.byte (g : Ctag) (x : Nat) : Nat :=
  (match g.st with
    | .free => 0
    | .busy => 1
    | .done => 2) +
  4 * (match g.mark with
    | .none => 0
    | .chaff => 1
    | .fault _ => 2) + (if g.owner.any (·.ctx == x) then 16 else 0)

/-- Where the entries of the tags stand that tell more of each: behind the sections of fixed place. -/
def tagEntries : Nat := 1792

/-- What more an image says of a tag: the record number of its mark in bits 15:0, the index of its owner in bits 22:16, how far
the owner's sequence number lies below the next one of its strand in bits 26:23 (15 for more than 14), and whether it is the
handler strand in bit 27. -/
def Ctag.entry (g : Ctag) (next hNext : Nat) : Nat :=
  (match g.mark with
    | .fault n => n % 2 ^ 16
    | _ => 0) +
  match g.owner with
  | none => 0
  | some o => (o.idx % 128) * 2 ^ 16 + min 15 ((if o.hdl then hNext else next) - o.seq) * 2 ^ 23 + b2n o.hdl * 2 ^ 27

/-- The next sequence numbers of the strand and of the handler strand. -/
def Ctx.resumeSeq (v : Ctx) : Nat :=
  match v.want, v.trapped with
  | some w, _ => w.seq
  | none, some t => t.seq
  | none, none => v.nextSeq
def Ctx.resumeHandler (v : Ctx) : Nat := (v.hWant.map fun w : Want => w.seq).getD v.hNext

/-- A completion tag of a saved context as it stands in its image (R353, R354). -/
def State.writeTag (s : State) (v : Saved) (t : Option Nat) : State :=
  match t.bind fun t => v.tags.find? (·.1 == t) with
  | none => s
  | some (t, g) =>
    (s.poke v.area (1664 + t) (natBytes 1 (g.byte v.ctx))).poke v.area (tagEntries + 4 * t)
      (natBytes 4 (g.entry v.cx.resumeSeq v.cx.resumeHandler))

/-- A command of port 40 whose context is saved completes: its tag is DONE in the image, with its mark (R353). -/
def State.savedDone (s : State) (c : Nat) (m : Cmd) (bad : Bool) (status : Nat) : State :=
  let port := portOf m.f.elem
  let r := s.newRec m.f 13 40 0 0 (BitVec.ofNat 64 status) 0
  let upd (v : Saved) : Saved :=
    if v.id + 8 ≠ m.f.ctx then v
    else
      let slot := ((List.range 32).find? fun n => !v.recs.any fun o => o.2.port == port && o.2.slot == n).getD 0
      let mark : Mark := if bad then .fault (32 * port + slot) else .none
      let rs : List (Nat × RSlot) :=
        if bad then [(0xFFFF, ⟨port, slot, v.ctx, 0, none, { r with cgen := v.cx.cgen.toNat }⟩)] else []
      { v with
        recs := rs ++ v.recs,
        tags := v.tags.map fun t => if m.ctag == some t.1 then (t.1, { t.2 with st := .done, mark }) else t }
  let s := s.releaseAt c m.scope
  let s := { s with parts := s.parts.map fun p : Part => { p with pool := p.pool.map upd } }
  let mine := s.parts.flatMap fun p : Part => p.pool.filter fun v => v.id + 8 == m.f.ctx
  mine.foldl (fun s v => s.writeTag v m.ctag) s

/-- Completion of a command of port 40, for a context that is resident or saved. -/
def State.portDone (s : State) (c : Nat) (m : Cmd) (bad : Bool) (status : Nat) : State :=
  if 8 ≤ m.f.ctx then s.savedDone c m bad status else s.engineDone c m bad status

/-! ## COLL -/

/-- The status of acceptance (R264). -/
def clStatus (f : Firing) : Nat :=
  if clCount f = 0 || 2 ^ 24 < clCount f || 2 < clOp f || (clOp f ≠ 1 && 2 < clRed f) ||
      !(clFmt f == 4 || clFmt f == 5 || clFmt f == 2) || clParts f ≤ clRank f || clParts f < 2 || 72 < clParts f then 2
  else if dfield f 25 1 ≠ 0 || dfield f 32 32 ≠ 0 then 3 else 0

/-- Check stores in order and give their physical bytes. -/
def State.checkStores (s : State) (c : Nat) : List (Nat × Nat) → Except AccErr (List Nat)
  | [] => .ok []
  | (a, n) :: rest => match s.check c .store a n n with
    | .error e => .error e
    | .ok ps => match s.checkStores c rest with
      | .error e => .error e
      | .ok qs => .ok (ps ++ qs)

/-- Is a command a waiting member of an instance (R265)? -/
def Cmd.collOf (m : Cmd) (group epoch : Nat) : Bool :=
  match m.i with
  | .coll _ => m.st == .accepted && clGroup m.f == group && clEpoch m.f == epoch
  | _ => false

/-- The waiting members of an instance of a partition, with core and place. -/
def State.collMembers (s : State) (p group epoch : Nat) : List (Nat × Nat × Cmd) :=
  (s.cores.mapIdx fun c k => if (s.part p).cores.toNat.testBit c then
    (k.cmds.mapIdx fun n m => (c, n, m)).filter fun t => t.2.2.collOf group epoch else []).flatten

/-- Does a command fit the members already there: op, red, fmt, count, nparts, and a rank of its own (R265)? -/
def collFits (f : Firing) (m : Cmd) : Bool :=
  clOp f == clOp m.f && clRed f == clRed m.f && clFmt f == clFmt m.f && clCount f == clCount m.f &&
  clParts f == clParts m.f && clRank f != clRank m.f

/-- The elements that a COLL reads and those that it writes. -/
def clRd (f : Firing) : List (Nat × Nat) := arrayAt (clSrc f) (clSize f) 0 (clReads f)
def clWr (f : Firing) : List (Nat × Nat) := arrayAt (clDst f) (clSize f) 0 (clWrites f)

/-- The addresses that a COLL translates. -/
def clVas (f : Firing) : List Nat := (clRd f ++ clWr f).flatMap fun a => vasIf a.1 a.2 a.2

/-- The accesses of a COLL whose shape is right are checked, source before destination; one that fails completes it with mark
FAULT (R18), or acts as R141 says of the other modes (DEDUCED, log 44); a frozen port holds it (R252). -/
def collRun (s : State) (c : Nat) (m : Cmd) : State :=
  let s := s.fillTlb c (clVas m.f)
  let (s, ord) := if m.ord = 0 then s.takeOrd c else (s, m.ord)
  let m := { m with ord }
  let fails (e : AccErr) (k : AKind) : State :=
    match s.engineFails m.f 40 e 0 k ord with
    | (s, .frozen) => s.addCmd c { m with st := .sent, frozen := true }
    | (s, .chaff) => (s.cmdEmit m .data (.sc 0)).complete c m .chaff
    | (s, .fault n) => (s.cmdEmit m .data (.sc 0)).complete c m (.fault n)
  match s.checkLoads c (clRd m.f) with
  | .error e => fails e .island
  | .ok ps => match s.checkStores c (clWr m.f) with
    | .error e => fails e .store
    | .ok qs =>
      ((s.markLines qs).cmdEmit m .data (.sc 0)).addCmd c { m with st := .accepted, frozen := false, pas := ps ++ qs }

/-- A COLL of the right shape joins its instance; one that does not fit completes with mark FAULT (R265). -/
def collJoin (s : State) (c : Nat) (m : Cmd) : State :=
  let p := (s.partOfCore c).getD 0
  if (s.collMembers p (clGroup m.f) (clEpoch m.f)).any fun o => !collFits m.f o.2.2 then
    let (s, ord) := if m.ord = 0 then s.takeOrd c else (s, m.ord)
    (s.cmdEmit m .data (.sc 0)).engineDone c { m with ord } true 0
  else collRun s c m

/-- COLL is accepted (R264). -/
def collAccept (s : State) (w : EWord) (f : Firing) (t : Option Nat) : State :=
  let c := f.core
  let st := clStatus f
  let m := mkCmd (.coll w) f 40 t (scopeLow w)
  if st ≠ 0 then ((s.emitHeld 40 f w.t0 w.t1 t .data (scNat st)).releaseAt c m.scope).finishTag c t .none
  else collJoin s c m

/-- Can port 40 take a command of this firing (R250, R252)? -/
def State.netTakes (s : State) (f : Firing) : Bool :=
  !(s.isFrozen f.core 40 f.ctx || s.portFull f.core (portOf f.elem))

def execColl (w : EWord) (s : State) : Out :=
  fireAs s w.pm w.t0 w.t1 leftOnly fun f =>
    if !s.netTakes f || s.stallsTile (.coll w) f || (s.links.any (·.failed) && s.walkStalls f.core (clVas f)) then
      s.hold (.coll w) f
    else issue s (.coll w) w f (scopeLow w) fun s t => collAccept s w f t

/-- One step of a fold over ranks (R265). -/
def collFold (fmt red : Nat) (acc x : Nat) : Nat :=
  if fmt = 2 then
    match red with
    | 0 => (acc + x) % 2 ^ 32
    | 1 => if sval 32 acc < sval 32 x then x else acc
    | _ => if sval 32 x < sval 32 acc then x else acc
  else
    let ff : FF := if fmt = 5 then .bf16 else .f32
    match red with
    | 0 => f32add acc x
    | 1 => fMax ff acc x
    | _ => fMin ff acc x

/-- The fold of the ranks' codes of one element, rank 0 first; a sum of floats runs in FP32 (R265). -/
def collElem (fmt red : Nat) (xs : List Nat) : Nat :=
  let ff : FF := if fmt = 5 then .bf16 else .f32
  let fsum := fmt ≠ 2 ∧ red = 0
  let xs := if fsum then xs.map fun x => roundNum .f32 .rne false (ff.decode x) else xs
  match xs with
  | [] => 0
  | x :: rest =>
    let r := rest.foldl (collFold fmt red) x
    if fsum then roundNum ff .rne false (FF.f32.decode r) else r

/-- What the member of rank `r` receives, from the source bytes of the ranks in order (R265). -/
def collResult (f : Firing) (srcs : List (List Byte)) (r : Nat) : List Byte :=
  let es := clSize f
  let n := clCount f
  let at_ (bs : List Byte) (e : Nat) : Nat := bytesNat bs (es * e) es
  match clOp f with
  | 1 => srcs.flatten
  | 0 => (List.range n).flatMap fun e => natBytes es (collElem (clFmt f) (clRed f) (srcs.map fun b => at_ b e))
  | _ => (List.range n).flatMap fun e => natBytes es (collElem (clFmt f) (clRed f) (srcs.map fun b => at_ b (r * n + e)))

/-- COLL_INSTANCE (R265): once every rank has arrived, every source is read and each member holds what it will write. -/
def execCollInstance (part group epoch : Nat) (s : State) : Out :=
  match s.collMembers part group epoch with
  | [] => .next s
  | (c, n, m) :: rest =>
    let all := (c, n, m) :: rest
    let np := clParts m.f
    let byRank (r : Nat) : Option (Nat × Nat × Cmd) := all.find? fun t => clRank t.2.2.f == r
    if (!(List.range np).all fun r => (byRank r).isSome) || all.any (fun t => s.linkDown t.1 t.2.2.pas) then .next s
    else
      let srcs := (List.range np).map fun r => match byRank r with
        | some (c, _, m) => s.readPas c (m.pas.take (clReads m.f * clSize m.f))
        | none => []
      .next (all.foldl (fun s t =>
        s.setCmd t.1 t.2.1 { t.2.2 with st := .started, b := collResult t.2.2.f srcs (clRank t.2.2.f) }) s)

/-- May a COLL that a frozen port held be checked again (R252)? -/
def State.collAgain (s : State) (c : Nat) (m : Cmd) : Bool :=
  !m.frozen && s.netTakes m.f && !(s.links.any (·.failed) && s.walkStalls c (clVas m.f))

/-- COLL_COMPLETION (R266): a member begins to write its destination, and completes; one that a frozen port held is checked
again. -/
def execCollCompletion (core k : Nat) (s : State) : Out :=
  match s.cmd? core k with
  | some m => match m.i with
    | .coll _ =>
      if s.linkDown core m.pas then .next s
      else match m.st with
        | .started =>
          let dst := m.pas.drop (clReads m.f * clSize m.f)
          .next ((s.setCmd core k { m with st := .consumed }).beginWrites core m.ord (List.zip dst m.b))
        | .consumed => .next (((s.dropCmd core k).endWrites core m.ord m.scope).portDone core m false 0)
        | .sent => .next (if s.collAgain core m then collJoin (s.dropCmd core k) core m else s)
        | _ => .next s
    | _ => .next s
  | none => .next s

/-! ## Queue pairs -/

def State.qp (s : State) (n : Nat) : QP := (s.qps.find? (·.num == n)).getD ⟨n, 0, 0, 0, 0, 0⟩
def State.setQp (s : State) (q : QP) : State := { s with qps := q :: s.qps.filter (·.num != q.num) }

/-- Fields of `qp.cfg` (R394). -/
def QP.state (q : QP) : Nat := bits q.cfg 2 0
def QP.part (q : QP) : Nat := bits q.cfg 10 8
def QP.granted (q : QP) : Bool := bit q.cfg 11
def QP.command (q : QP) : Bool := bit q.cfg 12
/-- Does a queue pair receive: ready to receive, or ready to send? -/
def QP.receives (q : QP) : Bool := q.state == 2 || q.state == 3

/-! ## NETSEND and NETRECV -/

/-- The status of acceptance (R267): NETSEND needs a queue pair that is ready to send, NETRECV one that receives. -/
def ntStatus (s : State) (send : Bool) (f : Firing) : Nat :=
  let q := s.qp (ntQp f)
  if 4095 < ntQp f || 2 ^ 31 < ntLen f || (send && 2 < ntOp f) then 2
  else if (if send then dfield f 3 1 ≠ 0 ∨ dfield f 28 4 ≠ 0 else dfield f 2 2 ≠ 0 ∨ dfield f 16 16 ≠ 0) ∨
      dfield f 40 24 ≠ 0 then 3
  else if !q.granted || s.partOfCore f.core ≠ some q.part || !(if send then q.state == 3 else q.receives) then 4
  else 0

/-- A local address of a network command fails its check: it is logged as R357 and R384 say. -/
def State.netFails (s : State) (c : Nat) (f : Firing) (k : AKind) (e : AccErr) : State :=
  let s := match s.partOfCore c with
    | some p => if e.code = 6 then s.logViolation p ⟨e.addr, if k.writes then 4 else 3, c, f.ctx, 40, 0⟩ else s
    | none => s
  if e.code = 7 then s.noteUe e.addr else s

/-- Bytes of the completion word of an accepted command: its field `q` is one more than the physical address, 0 for none. -/
def Cmd.wordPas (m : Cmd) : List Nat := if m.q = 0 then [] else (List.range 8).map fun j => m.q - 1 + j

/-- The addresses that a network command translates. -/
def ntVas (f : Firing) : List Nat :=
  touched (ntAddr f) (ntLen f) ++ if ntWord f = 0 then [] else touched (ntWord f) 8

/-- The port's output takes a message. -/
def State.sendNet (s : State) (m : NetMsg) : State := { s with netTx := s.netTx ++ [m] }

/-- A command joins its queue pair: its local addresses are checked, and one that fails leaves status 2 (R268). The commands of
the queue pairs are numbered in the order they are accepted, in `gseq`. An RDMA READ sends its request: the remote address
and key, and the length as its data (R267). The caller has translated the addresses. -/
def netJoin (s : State) (send : Bool) (c : Nat) (m : Cmd) : State :=
  let f := m.f
  let k : AKind := if ntWrites send f then .store else .island
  let gseq := (s.cores.flatMap fun k => k.cmds.map fun o => if o.port = 40 then o.gseq + 1 else 0).foldl max 0
  let (s, ord) := s.takeOrd c
  let m := { m with st := .accepted, ord, gseq }
  let buf := s.check c k (ntAddr f) (ntLen f) 1
  let (s, m) := match (if ntWord f = 0 then .ok [] else s.check c .store (ntWord f) 8 8 : Except AccErr (List Nat)) with
    | .ok [] => (s, m)
    | .ok (pa :: _) => (s.markLines ((List.range 8).map (pa + ·)), { m with q := pa + 1 })
    | .error e => (s.netFails c f .store e, { m with status := 2 })
  match buf with
  | .error e => (s.netFails c f k e).addCmd c { m with status := 2 }
  | .ok ps =>
    if m.status = 2 then s.addCmd c m
    else
      let s := s.markLines (if ntWrites send f then ps else [])
      let s := if send && ntOp f = 2 then s.sendNet ⟨ntQp f, 2, BitVec.ofNat 64 (ntRemote f), ntKey f, natBytes 4 (ntLen f)⟩
        else s
      s.addCmd c { m with pas := ps, a := if ntWrites send f then [] else s.readPas c ps }

/-- A network command is accepted (R267). -/
def netAccept (s : State) (i : Instr) (w : EWord) (send : Bool) (f : Firing) (t : Option Nat) : State :=
  let st := ntStatus s send f
  let s := if st = 0 then s.fillTlb f.core (ntVas f) else s
  let s := s.emitHeld 40 f w.t0 w.t1 t .data (scNat st)
  let m := mkCmd i f 40 t (scopeLow w)
  if st ≠ 0 then (s.releaseAt f.core m.scope).finishTag f.core t .none else netJoin s send f.core m

def startNet (s : State) (i : Instr) (w : EWord) (send : Bool) : Out :=
  fireAs s w.pm w.t0 w.t1 leftOnly fun f =>
    if !s.netTakes f || s.stallsTile i f || s.walkStalls f.core (ntVas f) then s.hold i f
    else issue s i w f (scopeLow w) fun s t => netAccept s i w send f t

def execNetsend (w : EWord) (s : State) : Out := startNet s (.netsend w) w true
def execNetrecv (w : EWord) (s : State) : Out := startNet s (.netrecv w) w false

/-- The end of a network command (R268): the completion word, then the tag. -/
def State.netDone (s : State) (c k : Nat) (m : Cmd) (count status : Nat) : State :=
  ((s.dropCmd c k).writeIsland c m.scope (List.zip m.wordPas (natBytes 8 (count % 2 ^ 32 + status * 2 ^ 32)))).portDone c m
    (status ≠ 0) status

/-- What the network brought is on its way into the local buffer (R268, R326): the count of bytes and the status are kept for
the completion. -/
def State.netFill (s : State) (c k : Nat) (m : Cmd) (data : List Byte) (count status : Nat) : State :=
  (s.setCmd c k { m with st := .started, j := count, m := status }).beginWrites c m.ord (List.zip m.pas data)

def isNet (i : Instr) : Bool :=
  match i with
  | .netsend _ | .netrecv _ => true
  | _ => false

def isSend (i : Instr) : Bool :=
  match i with
  | .netsend _ => true
  | _ => false

/-- Is a receive buffer that was posted to the same queue pair before still being filled (R269)? -/
def State.netBehind (s : State) (m : Cmd) : Bool :=
  s.cores.any fun k => k.cmds.any fun o => match o.i, m.i with
    | .netrecv _, .netrecv _ => o.st == .started && ntQp o.f == ntQp m.f && o.gseq < m.gseq
    | _, _ => false

/-- The end of a command whose buffer is filled: its writes are made, then the completion word and the tag (R268). -/
def State.netEnds (s : State) (c k : Nat) (m : Cmd) : State := (s.endWrites c m.ord m.scope).netDone c k m m.j m.m

/-- Ops of the port's output: those of R267, and the answers to a peer. -/
def netNotReady : Nat := 3
def netReadReply : Nat := 4
def netError : Nat := 5

/-- NET_COMPLETION (R268): a NETSEND ends with a status that the network gives, 0, 2 or 3; `data` is what an RDMA READ
brought, and its length counts the bytes of a command that failed. A status that the port has set itself wins. A NETRECV
ends with such a status, and either one once the bytes that came for it are in its buffer. A restored command joins its queue
pair again first (R355). -/
def execNetCompletion (core k status : Nat) (data : List Byte) (s : State) : Out :=
  match s.cmd? core k with
  | some m =>
    if s.portFull core (portOf m.f.elem) || s.linkDown core (m.pas ++ m.wordPas) then .next s
    else if m.st = .started && isNet m.i then (if s.netBehind m then .next s else .next (s.netEnds core k m))
    else if m.st = .sent && isNet m.i then
      if s.walkStalls core (ntVas m.f) then .next s else .next (netJoin ((s.fillTlb core (ntVas m.f)).dropCmd core k) (isSend m.i) core m)
    else if m.st ≠ .accepted then .next s
    else match m.i with
      | .netrecv _ => if m.status ≠ 0 then .next (s.netDone core k m 0 m.status) else .next s
      | .netsend _ =>
        let n := ntLen m.f
        if m.status ≠ 0 then .next (s.netDone core k m 0 m.status)
        else if status = 2 ∨ status = 3 then .next (s.netDone core k m (min n data.length) status)
        else if status ≠ 0 then .next s
        else if ntOp m.f = 2 then
          if data.length ≠ n then .next s else .next (s.netFill core k m data n 0)
        else
          let s := s.sendNet ⟨ntQp m.f, ntOp m.f, if ntOp m.f = 1 then BitVec.ofNat 64 (ntRemote m.f) else 0,
            if ntOp m.f = 1 then ntKey m.f else 0, s.netBytes core m⟩
          .next ({ s with draw := s.draw + 1 }.netDone core k m n 0)
      | _ => .next s
  | none => .next s

/-- The oldest receive buffer posted to a queue pair: core, place and command (R268). -/
def State.oldestRecv (s : State) (qp : Nat) : Option (Nat × Nat × Cmd) :=
  let all := (s.cores.mapIdx fun c k => (k.cmds.mapIdx fun n m => (c, n, m)).filter fun t => match t.2.2.i with
    | .netrecv _ => t.2.2.st == .accepted && t.2.2.status == 0 && ntQp t.2.2.f == qp
    | _ => false).flatten
  all.foldl (fun b t => match b with
    | none => some t
    | some u => if t.2.2.gseq < u.2.2.gseq then some t else some u) none

/-- SEND_ARRIVAL (R268): the bytes go to the oldest buffer; without one the peer is told that the receiver is not ready. -/
def execSendArrival (qp : Nat) (data : List Byte) (s : State) : Out :=
  let q := s.qp qp
  if !q.receives || q.command then .next s
  else match s.oldestRecv qp with
    | none => .next (s.sendNet ⟨qp, netNotReady, 0, 0, []⟩)
    | some (c, k, m) =>
      let n := ntLen m.f
      if s.linkDown c (m.pas ++ m.wordPas) then .next s
      else .next (s.netFill c k m data (min n data.length) (if n < data.length then 1 else 0))

/-! ## Accesses of peers -/

/-- The translation of an address under a partition's tables (R392). -/
def State.lookupPart (s : State) (p va : Nat) : Except XErr TlbE :=
  if va >>> 48 != 0 then .error .notPresent else s.walk va (s.part p).ttb walkLevels

/-- One byte of a peer's access: its physical address, or the check that fails (R140, R357). -/
def State.peerByte (s : State) (p : Nat) (k : AKind) (va : Nat) : Except AccErr Nat :=
  match s.lookupPart p va with
  | .error .notPresent => .error ⟨4, va⟩
  | .error (.memError pa) => .error ⟨7, pa⟩
  | .ok e =>
    let pa := e.pbase + (va - e.vbase)
    if k.writes && !e.w then .error ⟨5, va⟩
    else if !s.owned p pa then .error ⟨6, pa⟩
    else if !k.writes && s.isBad pa then .error ⟨7, pa⟩
    else .ok pa

def State.peerBytes (s : State) (p : Nat) (k : AKind) : List Nat → Except AccErr (List Nat)
  | [] => .ok []
  | a :: rest => match s.peerByte p k a with
    | .error e => .error e
    | .ok x => match s.peerBytes p k rest with
      | .error e => .error e
      | .ok xs => .ok (x :: xs)

/-- The error response to a peer, with the violation logged (R357, source 6). -/
def State.peerFails (s : State) (qp p : Nat) (e : AccErr) : State :=
  let s := if e.code = 6 then s.logViolation p ⟨e.addr, 6, 0xFF, 0, 0, 0⟩
    else if e.code = 7 then s.noteUe e.addr else s
  s.sendNet ⟨qp, netError, 0, 0, []⟩

/-- RDMA_WRITE_ARRIVAL (R269, R357). -/
def execRdmaWriteArrival (qp : Nat) (addr : Word) (data : List Byte) (s : State) : Out :=
  let q := s.qp qp
  if !q.receives || !q.granted then .next s
  else match s.peerBytes q.part .store ((List.range data.length).map fun j => (addr.toNat + j) % 2 ^ 64) with
    | .error e => .next (s.peerFails qp q.part e)
    | .ok ps => .next (s.writeMem (List.zip ps data))

/-- RDMA_READ_REQUEST (R357, R394). -/
def execRdmaReadRequest (qp : Nat) (addr : Word) (len : Nat) (s : State) : Out :=
  let q := s.qp qp
  if !q.receives || !q.granted then .next s
  else match s.peerBytes q.part .load ((List.range len).map fun j => (addr.toNat + j) % 2 ^ 64) with
    | .error e => .next (s.peerFails qp q.part e)
    | .ok ps => .next (s.sendNet ⟨qp, netReadReply, addr, 0, ps.map (Memory.get s.mem)⟩)

end Sys2Proof.Machine
end

