-- ==== Sys2Proof/Machine/Sampling.lean ====
section
/-! DEFINITION. RNG (R303-R306), SPECRES (R307-R309), the soft-maximum state (R296, R297). -/

namespace Sys2Proof.Machine

/-! ## RNG -/

/-- One round of Philox4x32-10 on the counter under a key (R304). -/
def philoxRound (k0 k1 : Nat) (c : Nat × Nat × Nat × Nat) : Nat × Nat × Nat × Nat :=
  let (c0, c1, c2, c3) := c
  let p0 := 0xD2511F53 * c0
  let p1 := 0xCD9E8D57 * c2
  (p1 / 2 ^ 32 ^^^ c1 ^^^ k0, p1 % 2 ^ 32, p0 / 2 ^ 32 ^^^ c3 ^^^ k1, p0 % 2 ^ 32)

/-- `n` rounds, the key stepped before every round but the first (R304). -/
def philox (k0 k1 : Nat) (c : Nat × Nat × Nat × Nat) : Nat → Nat × Nat × Nat × Nat
  | 0 => c
  | n + 1 => philox ((k0 + 0x9E3779B9) % 2 ^ 32) ((k1 + 0xBB67AE85) % 2 ^ 32) (philoxRound k0 k1 c) n

/-- The raw word of a key, position, draw and global lane (R304). -/
def rngRaw (key p q g : Nat) : Nat :=
  let (c0, c1, c2, c3) := philox (key % 2 ^ 32) (key / 2 ^ 32 % 2 ^ 32) (p, q, g / 4, 0) 10
  match g % 4 with
  | 0 => c0
  | 1 => c1
  | 2 => c2
  | _ => c3

/-- The uniform of a raw word (R305). -/
def uniform (x : Nat) : Nat := roundNum .f32 .rtz false (.fin false (2 * (x / 2 ^ 8) + 1) (-25))

/-- The uniform for a key, position, draw and global lane. -/
def rngU (key p q g : Nat) : Nat := uniform (rngRaw key p q g)

def execRng (w : GWord) (s : State) : Out := binG s w fun a b =>
  let x := b.scalar
  .vec (vecOf 32 ((List.range 16).map fun i => rngU a.scalar.toNat (bits x 31 0) (bits x 47 32) (16 * bits x 63 48 + i)))

/-! ## SPECRES -/

/-- Is an f32 code greater than zero? -/
def f32pos (x : Nat) : Bool := 0 < x && x ≤ 0x7F800000
/-- pos of R308. -/
def posPart (x : Nat) : Nat := if f32pos x then x else 0
/-- a > b as IEEE 754 compares: false when either is NaN, and −0 equals +0 (R308). -/
def f32gt (a b : Nat) : Bool := floatRel .f32 4 a b

/-- The carry words of R307. -/
structure SpecCarry where
  T : Nat
  Tp : Nat
  base : Nat
  flags : Nat
  u : Nat
  t : Nat
  c : Nat
  k : Nat
  deriving DecidableEq, Repr

def SpecCarry.ofVal (v : Val) : SpecCarry :=
  let wd (i : Nat) : Nat := (v.wide >>> (32 * i)) % 2 ^ 32
  ⟨wd 0, wd 1, wd 2, wd 3 % 32, wd 4, wd 5, wd 6, wd 7⟩

def SpecCarry.toVal (x : SpecCarry) : Val := .vec (vecOf 32 [x.T, x.Tp, x.base, x.flags, x.u, x.t, x.c, x.k])

def SpecCarry.has (x : SpecCarry) (b : Nat) : Bool := x.flags.testBit b
def SpecCarry.set (x : SpecCarry) (b : Nat) : SpecCarry := { x with flags := x.flags ||| 2 ^ b }

/-- res of R308. -/
def specRes (pq : Nat × Nat) : Nat := posPart (f32sub pq.1 pq.2)

/-- The first link of the walk fixes the threshold (R308). -/
def specArm (x : SpecCarry) : SpecCarry :=
  if x.has 4 then x
  else
    let y := if f32pos x.T then { x with t := f32mul x.u x.T }
      else if f32pos x.Tp then { x with t := f32mul x.u x.Tp }.set 1
      else x.set 3
    { y with c := 0, k := 0xFFFFFFFF }.set 4

/-- One step of the walk (R308). -/
def specStep (x : SpecCarry) (e : Nat × Nat × Nat) : SpecCarry :=
  let r := if x.has 1 then posPart e.2.1 else specRes e.2
  if f32pos r && !x.has 2 then
    let c := f32add x.c r
    let y := { x with c, k := (x.base + e.1) % 2 ^ 32 }
    if f32gt c x.t then y.set 2 else y
  else x

/-- One link of the chain (R308). -/
def specLink (a : Val) (x : SpecCarry) : SpecCarry :=
  let pq := (List.range 8).map fun i => (i, a.lane 32 i, a.lane 32 (8 + i))
  let y :=
    if !x.has 0 then
      pq.foldl (fun x e => { x with T := f32add x.T (specRes e.2), Tp := f32add x.Tp (posPart e.2.1) }) x
    else
      let x := specArm x
      if x.has 3 then x else pq.foldl specStep x
  { y with base := (y.base + 8) % 2 ^ 32 }

/-- The rise of `ctl.specfb` at the commit of an instance, once however many SPECRES of it set FALLBACK (R309), also when one
fires after the commit (log 4). -/
def State.postFallback (s : State) (f : Firing) : State :=
  let mine (i : Inst) : Bool := i.hdl == f.hdl && i.seq == f.seq
  let v := s.cx f.core f.ctx
  if (s.instOf f).isSome then
    if (s.instOf f).any fun i => i.post.contains .specfb then s else s.addPost f .specfb
  else if v.left.any fun i => mine i && i.post.contains .specfb then s
  else
    let mark (i : Inst) : Inst := if mine i then { i with post := [.specfb] } else i
    (s.setCx f.core f.ctx { v with left := v.left.map mark }).applyPost f.core f.ctx .specfb

/-- SPECRES (R307-R309): a result that sets FALLBACK raises `ctl.specfb` when its instance commits. -/
def execSpecres (w : GWord) (s : State) : Out :=
  fireAs s w.pm w.t0 w.t1 both fun f =>
    let x := SpecCarry.ofVal f.rval
    let y := specLink f.lval x
    let s := if y.has 1 && !x.has 1 then s.postFallback f else s
    s.emit f w.t0 w.t1 .data y.toVal

/-! ## Soft-maximum state -/

def oneF : Nat := 0x3F800000
def minusInf : Nat := 0xFF800000

/-- SMAXINIT (R296). -/
def execSmaxinit (w : GWord) (s : State) : Out := unG s w fun a =>
  let q (x : Nat) : List Nat := List.replicate 4 x
  .vec (vecOf 32 ((List.range 4).map (a.lane 32) ++ q oneF ++ q oneF ++ q 0))

/-- One row of SMAXUPD: the new maximum, sum, and the two factors (R297). -/
def smaxRow (m l mb sb : Nat) : Nat × Nat × Nat × Nat :=
  let mn := fMax .f32 m mb
  let ex (x : Nat) : Nat := fpExp2 .f32 (FF.f32.decode (f32sub x mn))
  let (a, b) := if mn = minusInf then (oneF, 0) else (ex m, ex mb)
  (mn, f32add (f32mul l a) (f32mul sb b), a, b)

/-- The whole state of SMAXUPD. -/
def smaxVal (a b : Val) : Val :=
  let rows := (List.range 4).map fun r => smaxRow (a.lane 32 r) (a.lane 32 (4 + r)) (b.lane 32 r) (b.lane 32 (4 + r))
  .vec (vecOf 32 (rows.map (·.1) ++ rows.map (·.2.1) ++ rows.map (·.2.2.1) ++ rows.map (·.2.2.2)))

/-- The state that a masked block leaves (R297). -/
def smaxMasked (a : Val) : Val :=
  .vec (vecOf 32 ((List.range 8).map (a.lane 32) ++ List.replicate 4 oneF ++ List.replicate 4 0))

/-- SMAXUPD (R297): a NULL summary leaves the state; every other kind follows R28. -/
def execSmaxupd (w : GWord) (s : State) : Out :=
  withSel s fun f =>
    match plan w.pm f [f.l, f.r], (f.r.map Tok.kind : Option Kind) with
    | .absorb, _ => .next (s.absorb f [f.l, f.r])
    | .run, _ => .next (s.emit f w.t0 w.t1 .data (smaxVal f.lval f.rval))
    | .emit k v, some .null =>
      if k = .null && gate w.pm f = .fire && (f.l.map Tok.kind : Option Kind) = some .data then
        .next (s.emit f w.t0 w.t1 .data (smaxMasked f.lval))
      else .next (s.emit f w.t0 w.t1 k v)
    | .emit k v, _ => .next (s.emit f w.t0 w.t1 k v)

end Sys2Proof.Machine
end

