-- ==== Sys2Proof/Machine/Sequences.lean ====
section
/-! DEFINITION. Soft tokens (R273-R278), logs (R280-R283), key-value pages (R287, R288), basting (R290-R293). -/

namespace Sys2Proof.Machine

/-! ## Soft-token registers -/

/-- SKSET (R274, R275): a HIDDEN operand reads its vector, which counts as a load. -/
def execSkset (w : GWord) (s : State) : Out :=
  fireAs s w.pm w.t0 w.t1 leftOnly fun f =>
    match skCheck (BitVec.ofNat 512 f.lval.wide) with
    | .invalid => s.emit f w.t0 w.t1 .data (.sc 1)
    | .value v => (s.addPost f (.sk w.value.toNat v)).emit f w.t0 w.t1 .data (.sc 0)
    | .hidden fmt dim addr =>
      let n := dim * hiddenEs fmt
      let vas := vasIf addr (hiddenEs fmt) n
      if !s.portTakes f || s.walkStalls f.core vas then s.hold (.skset w) f
      else
        let s := s.fillTlb f.core vas
        match s.check f.core .load addr n (hiddenEs fmt) with
        | .ok pas => s.addPend ⟨.skset w, f, .load pas [], 0⟩
        | .error e => s.readFails (.skset w) f 0 e .load

/-- SKMIX (R274, R275). -/
def execSkmix (w : GWord) (s : State) : Out :=
  fireAs s w.pm w.t0 w.t1 leftOnly fun f =>
    let n := f.lval.wide >>> 480 % 2 ^ 32
    let lane (i : Nat) : Nat := (f.lval.wide >>> (32 * i)) % 2 ^ 32
    if n = 0 || 6 < n then s.emit f w.t0 w.t1 .data (.sc 1)
    else
      let v := mkMixture ((List.range n).map fun i => (lane (2 * i), lane (2 * i + 1)))
      (s.addPost f (.sk w.value.toNat v)).emit f w.t0 w.t1 .data (.sc 0)

/-- SKGET (R274): waits for the older writers of its register (R273). -/
def execSkget (w : GWord) (s : State) : Out :=
  fireAs s w.pm w.t0 w.t1 leftOnly fun f =>
    match s.skRead f w.value.toNat with
    | some v => s.emit f w.t0 w.t1 .data (.vec v)
    | none => s.hold (.skget w) f

/-! ## COLLAPSE -/

/-- The greater of two entries for the arg-max: NaN is never chosen, on equal weights the lower id (R278). -/
def mixBetter (best : Option (Nat × Nat)) (e : Nat × Nat) : Option (Nat × Nat) :=
  if (FF.f32.decode e.2).isNan then best
  else match best with
    | none => some e
    | some b =>
      let d := Num.cmp (FF.f32.decode e.2) (FF.f32.decode b.2)
      if 0 < d || (d == 0 && e.1 < b.1) then some e else best

/-- The walk of a sampled draw over the entries with positive weight (R278). -/
def mixWalk (t : Nat) : Nat → List (Nat × Nat) → Option Nat
  | _, [] => none
  | c, e :: es =>
    let c := f32add c e.2
    if f32gt c t || es.isEmpty then some e.1 else mixWalk t c es

/-- The id that a MIXTURE collapses to (R278). -/
def mixChoose (smp : Bool) (key p q : Nat) (es : List (Nat × Nat)) : Option Nat :=
  if !smp then (es.foldl mixBetter none).map (·.1)
  else
    let cs := es.filter fun e => f32pos e.2
    match cs.find? fun e => e.2 == 0x7F800000 with
    | some e => some e.1
    | none =>
      let total := cs.foldl (fun t e => f32add t e.2) 0
      mixWalk (f32mul (rngU key p q 0) total) 0 cs

/-- COLLAPSE of a register value (R278): id, status and what is written. -/
def collapseOf (smp : Bool) (key p q : Nat) (src : Vec) : Nat × Nat × Option Vec :=
  match skKind src with
  | 0 => (skId src, 1, some src)
  | 1 => (0xFFFFFFFF, 2, none)
  | _ => match mixChoose smp key p q (skEntries src) with
    | none => (0xFFFFFFFF, 3, none)
    | some id => (id, 0, some (mkText id (if smp then 3 else 1) (skDigest src)))

/-- COLLAPSE (R277, R278): mode 1 reads the key on the right. -/
def execCollapse (w : GWord) (s : State) : Out :=
  fireAs s w.pm w.t0 w.t1 (if w.mode = 1 then both else leftOnly) fun f =>
    let x := f.lval.scalar
    match s.skRead f (bits x 3 0) with
    | none => s.hold (.collapse w) f
    | some src =>
      let (id, st, new) := collapseOf (w.mode == 1) f.rval.scalar.toNat (bits x 63 32) (bits x 15 8) src
      let s := match new with
        | some v => s.addPost f (.sk (bits x 7 4) v)
        | none => s
      s.emit f w.t0 w.t1 .data (scNat (id + st * 2 ^ 32))

/-! ## Logs -/

/-- Fields of the right operand of LOGREC and REPLAY (R280, R282). -/
def logPos (f : Firing) : Nat := f.rval.wide % 2 ^ 32
def logReg (f : Firing) : Nat := f.rval.wide >>> 32 % 16
def logSpill (f : Firing) : Nat := f.rval.wide >>> 64 % 2 ^ 64

/-- LOGREC with its register known (R280): the translations and checks of the record, the spill and the vector, then the
buffered store. -/
def logrecRun (s : State) (w : MWord) (f : Firing) (v : Vec) : State :=
  let sp := logSpill f
  let soft := skKind v ≠ 0
  let n := if skKind v = 1 then skCount v * hiddenEs (skByte1 v) else 8 * skCount v
  let spills := soft && sp ≠ 0
  let copies := spills && skKind v = 1
  let fails (s : State) (e : AccErr) : State := s.writeFails (.logrec w) f w.lsid.toNat e
  let vas := (if spills then vasIf sp 4 n else []) ++ (if copies then touched (skAddr v) n else [])
  match s.check f.core .store (MWord.ea w f) 32 32 with
  | .error e => fails s e
  | .ok rec_ =>
    if s.walkStalls f.core vas then s.hold (.logrec w) f
    else
      let s := s.fillTlb f.core vas
      match (if spills then s.check f.core .store sp n 4 else .ok []) with
      | .error e => fails s e
      | .ok dst =>
        match (if copies then s.check f.core .load (skAddr v) n 1 else .ok []) with
        | .error e => fails s e
        | .ok src =>
          let r := mkRecord (logPos f) v (if spills then sp else if skKind v = 1 then skAddr v else 0)
            (spills || skKind v == 1)
          let words := if spills && !copies then
              List.zip dst ((skEntries v).flatMap fun e => natBytes 4 e.1 ++ natBytes 4 e.2) else []
          let b := plainStore f w (words ++ List.zip rec_ r)
          (s.buffer f w { b with copySrc := src, copyDst := if copies then dst else [] }).markLines dst

/-- LOGREC (R280). -/
def execLogrec (w : MWord) (s : State) : Out :=
  startStore s (.logrec w) w both (fun f => vasIf (MWord.ea w f) 32 32) fun s f =>
    match s.skRead f (logReg f) with
    | none => s.hold (.logrec w) f
    | some v => logrecRun s w f v

/-- Read `n` bytes of a log on the instruction's own account (R281, R283), as the core's islands read (R321). -/
def State.logBytes (s : State) (c a n al : Nat) : Except AccErr (List Byte) :=
  match s.check c .island a n al with
  | .error e => .error e
  | .ok pas => .ok (s.readPas c pas)

/-- PFXCMP from record `k` on, with `n` records left to compare (R281). -/
def pfxWalk (s : State) (c a b : Nat) : Nat → Nat → Except AccErr (Nat × Nat)
  | 0, k => .ok (k, 0)
  | n + 1, k =>
    match s.logBytes c (effAddr a ((32 * k : Nat))) 32 32 with
    | .error e => .error e
    | .ok r => match s.logBytes c (effAddr b ((32 * k : Nat))) 32 32 with
      | .error e => .error e
      | .ok t =>
        if recKind r ≠ recKind t || recInvalid r || recInvalid t then .ok (k, 1)
        else if recKind r = 0 || recKind r = 3 then
          if recId r ≠ recId t then .ok (k, 2) else pfxWalk s c a b n (k + 1)
        else if recFmt r ≠ recFmt t || recCount r ≠ recCount t then .ok (k, 3)
        else if recId r ≠ recId t then .ok (k, 4)
        else if recFlags r % 2 = 0 || recFlags t % 2 = 0 then .ok (k, 5)
        else match s.logBytes c (recSpill r) (recSpillLen r) 1 with
          | .error e => .error e
          | .ok u => match s.logBytes c (recSpill t) (recSpillLen r) 1 with
            | .error e => .error e
            | .ok v => if u = v then pfxWalk s c a b n (k + 1) else .ok (k, 5)

/-- The addresses that a PFXCMP translates for records from `k` on, as far as the two logs agree. -/
def State.pfxVas (s : State) (c a b : Nat) : Nat → Nat → List Nat
  | 0, _ => []
  | n + 1, k =>
    let p := effAddr a ((32 * k : Nat))
    let q := effAddr b ((32 * k : Nat))
    vasIf p 32 32 ++ vasIf q 32 32 ++ match s.logBytes c p 32 32, s.logBytes c q 32 32 with
      | .ok r, .ok t =>
        let soft := recKind r ≠ 0 && recKind r ≠ 3
        if recKind r ≠ recKind t || recInvalid r || recInvalid t || recId r ≠ recId t ||
            (soft && (recFmt r ≠ recFmt t || recCount r ≠ recCount t || recFlags r % 2 = 0 || recFlags t % 2 = 0)) then []
        else (if soft then touched (recSpill r) (recSpillLen r) ++ touched (recSpill t) (recSpillLen r) else []) ++
          s.pfxVas c a b n (k + 1)
      | _, _ => []

/-- PFXCMP (R281): one step on the memory of the moment it fires. -/
def execPfxcmp (w : EWord) (s : State) : Out :=
  fireAs s w.pm w.t0 w.t1 both fun f =>
    let a := f.lval.scalar.toNat
    let b := f.rval.scalar.toNat
    let n := bits w.mods 15 0
    if n = 0 then s.emitPort f w.t0 w.t1 .data (.sc 0)
    else
      let vas := s.pfxVas f.core a b n 0
      if !s.portTakes f || s.walkStalls f.core vas then s.hold (.pfxcmp w) f
      else
        let s := s.fillTlb f.core vas
        match pfxWalk s f.core a b n 0 with
        | .error e => s.readFails (.pfxcmp w) f 0 e .load
        | .ok (k, why) => s.emitPort f w.t0 w.t1 .data (scNat (k + why * 2 ^ 32))

/-- REPLAY fires (R282): it waits until every older instance has committed. -/
def execReplay (w : MWord) (s : State) : Out :=
  fireAs s w.pm w.t0 w.t1 both fun f =>
    if !s.portTakes f then s.hold (.replay w) f else s.addPend ⟨.replay w, f, .perform, 0⟩

/-- What REPLAY makes of a record and its spilled bytes (R282): status and the register. -/
def replayOf (r spill : List Byte) (addr : Nat) : Nat × Option Vec :=
  match recKind r with
  | 0 => (0, some (mkText (recId r) 0 0))
  | 3 => (0, some (mkText (recId r) (1 + recFlags r / 2 % 2 * 2) (bytesNat r 25 7 * 256)))
  | 1 =>
    let d := digest (words32 spill)
    if d = recId r then (0, some (mkHidden (recFmt r) (recCount r) d addr)) else (1, none)
  | _ =>
    if digest (words32 spill) = recId r then
      (0, some (mkMixture ((List.range (recCount r)).map fun i => (bytesNat spill (8 * i) 4, bytesNat spill (8 * i + 4) 4))))
    else (1, none)

/-- The end of a REPLAY: the register at commit, the status at once (R282). -/
def State.replayDone (s : State) (q : Pend) (w : MWord) (st : Nat) (new : Option Vec) : State :=
  let s := match new with
    | some v => s.addPost q.f (.sk (logReg q.f) v)
    | none => s
  s.emitPort q.f w.t0 w.t1 .data (scNat st)

/-- REPLAY_PERFORM (R282): record and spill are read as loads at its LSID, which allocate their lines (R320), and the copy is
made at once. -/
def execReplayPerform (core ctx k : Nat) (s : State) : Out :=
  match (s.cx core ctx).pend[k]? with
  | some q => match q.st, q.i with
    | .perform, .replay w =>
      let f := q.f
      let place := placeOf q.i
      let dst := logSpill f
      let vas := vasIf (MWord.ea w f) 32 32
      if !s.oldest f || !s.portTakes f || s.walkStalls core vas then .next s
      else
        let t := (s.fillTlb core vas).dropPend core ctx k
        match t.check core .load (MWord.ea w f) 32 32 with
        | .error e => .next (t.readFails (.replay w) f w.lsid.toNat e .load)
        | .ok pas =>
          if !s.readAllowed f place pas || s.acquireStalls q then .next s
          else
            let (t, got) := (t.acquireOf q pas).loadBytes f place pas
            let t := t.allocLines core pas
            let r := got.map (·.2)
            if recInvalid r then .next (t.replayDone q w 3 none)
            else if recKind r = 0 || recKind r = 3 then
              let (st, new) := replayOf r [] 0
              .next (t.replayDone q w st new)
            else if recFlags r % 2 = 0 then .next (t.replayDone q w 2 none)
            else
              let copies := recKind r = 1 ∧ dst ≠ 0
              let vas := touched (recSpill r) (recSpillLen r) ++ if copies then vasIf dst 4 (recSpillLen r) else []
              if s.walkStalls core vas then .next s
              else
                let t := t.fillTlb core vas
                match t.check core .load (recSpill r) (recSpillLen r) 1 with
                | .error e => .next (t.readFails (.replay w) f w.lsid.toNat e .load)
                | .ok sp =>
                  match (if copies then t.check core .store dst (recSpillLen r) 4 else .ok []) with
                  | .error e => .next (t.readFails (.replay w) f w.lsid.toNat e .store)
                  | .ok d =>
                    if !s.readAllowed f place (sp ++ d) then .next s
                    else
                      let (t, got) := (t.acquireOf q sp).loadBytes f place sp
                      let bs := got.map (·.2)
                      let t := t.allocLines core sp
                      let t := if copies then
                          ((t.rememberOld f place d).storeStrand core w.scope.code (List.zip d bs)).markLines d
                        else t
                      let (st, new) := replayOf r bs (if copies then dst else recSpill r)
                      .next (t.replayDone q w st new)
    | _, _ => .next s
  | none => .next s

/-! ## Key-value pages -/

/-- KVMAP fires (R286): a load of the header that its operands name. -/
def execKvmap (w : MWord) (s : State) : Out :=
  fireAs s w.pm w.t0 w.t1 both fun f =>
    let ea := MWord.ea w f
    let h := effAddr ea ((64 * (f.rval.scalar.toNat % 2 ^ 32 / 64) : Nat))
    let vas := if ea % 64 ≠ 0 then [] else vasIf h 64 64
    if !s.portTakes f || s.walkStalls f.core vas then s.hold (.kvmap w) f
    else
      let s := s.fillTlb f.core vas
      match (if ea % 64 ≠ 0 then .error ⟨1, ea % 2 ^ 64⟩ else s.check f.core .load h 64 64) with
      | .ok pas => s.addPend ⟨.kvmap w, f, .load pas [], 0⟩
      | .error e => s.readFails (.kvmap w) f w.lsid.toNat e .load

def execKvapp (w : MWord) (s : State) : Out := startAtomic s (.kvapp w) w

/-- The control lane of a KVAPP: chunk, half, last (R287). -/
def kvCtl (f : Firing) : Nat := if f.lval.isVec then f.lval.lane 32 3 else 0

/-- The result of a KVAPP (R287). -/
def kvResult (status f : Nat) (clip : Bool) : Val := scNat (status + f * 2 ^ 8 + if clip then 2 ^ 16 else 0)

/-- One element of a KVAPP: its code, and whether it was clipped (R287). -/
def kvElem (ty : RType) (ff : FF) (sc x : Nat) : Nat × Bool :=
  let v := (laneFmt ty).decode x
  let d := FF.f32.decode sc
  let clipped := match ff.decode (fpDiv ff .rne false v d) with
    | .fin _ _ _ => false
    | _ => !v.isNan
  (fpDiv ff .rne true v d, clipped)

/-- PAD bytes of an entry appended to a write set (R290, R291). -/
def State.basteEntry (s : State) (c W h f : Nat) : State :=
  let n := s.padByte c (W + 10)
  (s.padStore c (W + 64 + 16 * n) (natBytes 8 h ++ natBytes 1 f ++ List.replicate 7 0)).padStore c (W + 10)
    (natBytes 1 (n + 1))

/-- Is the fill write of a KVAPP, or the whole of it, a release (R288)? -/
def kvRel (w : MWord) (f : Firing) : Bool := MWord.rel w || (kvCtl f).testBit 5

/-- A KVAPP that writes: header at `hp` with bytes `h`, elements at `ep`, seen fill `fill` (R287, R288, R291). -/
def kvWrite (s : State) (q : Pend) (w : MWord) (ff : FF) (ea : Nat) (hp ep : List Nat) (h : List Byte) (fill : Nat) :
    State :=
  let f := q.f
  let ctl := kvCtl f
  let v := ctl.testBit 4
  let last := ctl.testBit 5
  let flags := bytesNat h 11 1
  let fix := if v then 2 else 1
  let so := if v then 16 else 12
  let sc := if flags.testBit fix then bytesNat h so 4 else pairScale f.lval
  let es := (readLanes w.ty f.rval).map (kvElem w.ty ff sc)
  let clips := (es.filter (·.2)).length
  let s := (s.showBelow f w.lsid.toNat (kvRel w f) ep).settleBytes ep
  let s := (s.cacheForAtomic f.core ep).rememberOld f (placeOf q.i) (ep ++ hp)
  let flags' := (flags ||| 2 ^ fix) ||| (if 0 < clips then 1 else 0)
  let bast := s.basted f.core f.ctx ea
  let fill' := if last && bast.isNone then fill + 1 else bytesNat h 10 1
  let h' := natBytes 1 fill' ++ natBytes 1 flags' ++ (if v then (h.drop 12).take 4 ++ natBytes 4 sc
    else natBytes 4 sc ++ (h.drop 16).take 4)
  let s := (s.store (List.zip ep (es.flatMap fun e => natBytes (fmtBytes w.fmt) e.1))).markLines ep
  let s := (s.atomicStore f.core w.scope.code (kvRel w f) (List.zip (hp.drop 10) h')).markLines hp
  let s := match last, bast with
    | true, some (_, W) => s.basteEntry f.core W ea fill
    | _, _ => s
  let x := s.cx f.core f.ctx
  let s := s.setCx f.core f.ctx { x with ctl := { x.ctl with kvclip := x.ctl.kvclip + BitVec.ofNat 64 clips } }
  let r := kvResult 0 fill (0 < clips)
  (s.keep f [(.data, r)]).emitAfter q w.t0 w.t1 .data r

/-- A KVAPP of a checked header (R287), under the timing of R152: what must be visible before it is, and then it reads. With a
status of 2, 3 or 4 the pseudocode gives the result's f no value: it is the fill as in the other cases (DESIGN CHOICE, log
107). -/
def kvPerform (s : State) (q : Pend) (w : MWord) (ea : Nat) (hp : List Nat) : Option State :=
  let f := q.f
  let c := f.core
  let s := s.showBelow f w.lsid.toNat (kvRel w f) hp
  let s := if kvRel w f && wideScope w.scope.code then s.cacheRelease c else s
  let s := (s.settleBytes hp).cacheForAtomic c hp
  let released := hp.any (s.readsRelease c)
  let h := hp.map (Memory.get s.mem)
  let ctl := kvCtl f
  let n := laneCount w.ty
  let chunk := ctl % 16
  let fill := s.seenFill c f.ctx ea (bytesNat h 10 1)
  let done (st : Nat) : State :=
    let r := kvResult st fill false
    ((s.keep f [(.data, r)]).emitAfter q w.t0 w.t1 .data r).atomicAcquire c w released
  let owner := bytesNat h 8 1
  let full : Bool := match s.basted c f.ctx ea with
    | some (_, W) => ctl.testBit 5 && 64 ≤ s.padByte c (W + 10)
    | none => false
  if owner = 0 || 3 ≤ owner then some (done 3)
  else if bytesNat h 9 1 ≠ w.fmt.code then some (done 2)
  else if 128 / n ≤ chunk then some (done 4)
  else if fill = 64 then some (done 1)
  else if full then some (done 5)
  else
    let es := fmtBytes w.fmt
    let row := effAddr (bytesNat h 0 8) ((64 * 128 * es * (if ctl.testBit 4 then 1 else 0) + 128 * es * fill + es * n * chunk : Nat))
    let vas := vasIf row es (es * n)
    if s.walkStalls c vas then none
    else
      let s := s.fillTlb c vas
      match s.check c .store row (es * n) es with
      | .error e => some (s.atomicFails q w e)
      | .ok ep =>
        if !s.readAllowed f (placeOf q.i) ep then none
        else some ((kvWrite s q w ((FF.ofFmt w.fmt).getD .bf16) ea hp ep h fill).atomicAcquire c w released)

/-- Does an older KVAPP of the strand to the same header wait, at a frozen port perhaps (R288)? -/
def State.kvBehind (s : State) (q : Pend) (ea : Nat) : Bool :=
  (s.cx q.f.core q.f.ctx).pend.any fun o => o.f.hdl == q.f.hdl && precedes o.at_ q.at_ && match o.i with
    | .kvapp w => MWord.ea w o.f == ea
    | _ => false

/-- KVAPP_PERFORM (R287): the timing of R152. -/
def execKvappPerform (core ctx k : Nat) (s : State) : Out :=
  match (s.cx core ctx).pend[k]? with
  | some q => match q.st, q.i with
    | .perform, .kvapp w =>
      let ea := MWord.ea w q.f
      let vas := vasIf ea 64 64
      if !s.portTakes q.f || s.kvBehind q ea || s.walkStalls core vas || !s.atomicAllowed q w (kvRel w q.f) [] then .next s
      else
        let t := s.fillTlb core vas
        match t.check core .atomic ea 64 64 with
        | .error e => .next ((t.dropPend core ctx k).atomicFails q w e)
        | .ok hp =>
          if !s.atomicAllowed q w (kvRel w q.f) hp then .next s
          else match kvPerform (t.dropPend core ctx k) q w ea hp with
            | some s' => .next s'
            | none => .next s
    | _, _ => .next s
  | none => .next s

/-! ## Basting -/

/-- The speculation slot of a word (R290). -/
def specSlot (w : EWord) : Nat := bits w.mods 1 0

/-- SPECBEG and SPECCMT fire: answered from the record on a replay, or waiting to be applied (R290, R165). -/
def execSpecbeg (w : EWord) (s : State) : Out :=
  fireAs s w.pm w.t0 w.t1 both fun f =>
    match s.keptOf f with
    | some kp => s.emitKept f w.t0 w.t1 kp
    | none => (s.adopt (.specbeg w) f).getD (s.addPend ⟨.specbeg w, f, .perform, 0⟩)
def execSpeccmt (w : EWord) (s : State) : Out :=
  fireAs s w.pm w.t0 w.t1 leftOnly fun f =>
    match s.keptOf f with
    | some kp => s.emitKept f w.t0 w.t1 kp
    | none => (s.adopt (.speccmt w) f).getD (s.addPend ⟨.speccmt w, f, .perform, 0⟩)

def State.setSpec (s : State) (c x k : Nat) (v : Spec) : State :=
  let y := s.cx c x
  s.setCx c x { y with specs := y.specs.set k v }

/-- SPECBEG applied (R290): its status and the state. The entry area, whose bytes the table gives only with an entry, is
cleared (DESIGN CHOICE, log 108). -/
def specBegin (s : State) (w : EWord) (f : Firing) : State × Nat :=
  let L := f.lval.scalar.toNat
  let W := bits f.rval.scalar 31 0
  let N := bits f.rval.scalar 47 32
  let k := specSlot w
  if ((s.cx f.core f.ctx).specs.getD k ⟨false, 0⟩).isOpen then (s, 1)
  else if (s.core f.core).split.size .pad < W + 1088 || N = 0 || L % 64 ≠ 0 || W % 64 ≠ 0 then (s, 2)
  else
    let s := s.padStore f.core W (natBytes 8 L ++ natBytes 2 N ++ [0, 1] ++ List.replicate 1076 0)
    (s.setSpec f.core f.ctx k ⟨true, W⟩, 0)

/-- Entry `j` of a write set: header address and slot. -/
def State.specEntry (s : State) (c W j : Nat) : Nat × Nat :=
  (bytesToNat (Memory.read s.mem (padAddr c (W + 64 + 16 * j)) 8), s.padByte c (W + 64 + 16 * j + 8))

/-- Checks of the fill bytes of some entries: their physical addresses. -/
def State.specFills (s : State) (c W : Nat) : List Nat → Except AccErr (List (Nat × Nat))
  | [] => .ok []
  | j :: js => match s.check c .atomic (effAddr (s.specEntry c W j).1 10) 1 1 with
    | .error e => .error e
    | .ok ps => match s.specFills c W js with
      | .error e => .error e
      | .ok more => .ok ((ps.headD 0, (s.specEntry c W j).2) :: more)

/-- SPECCMT applied to an open slot (R292): its result and the state. -/
def specCommit (s : State) (w : EWord) (f : Firing) (W : Nat) : Except AccErr (State × Val) :=
  let c := f.core
  let cnt := min (s.padByte c (W + 10)) 64
  let k := min f.lval.scalar.toNat cnt
  match s.specFills c W (List.range k) with
  | .error e => .error e
  | .ok l =>
    let s := if wideScope (bits w.mods 4 2) then s.cacheRelease c else s
    let s := (s.settleBytes (l.map (·.1))).cacheForAtomic c (l.map (·.1))
    let s := l.foldl (fun s e =>
      let now := (Memory.get s.mem e.1).toNat
      (s.atomicStore c (bits w.mods 4 2) true [(e.1, BitVec.ofNat 8 (max now (e.2 + 1)))]).markLines [e.1]) s
    let s := s.padStore c (W + 10) [0, 0]
    .ok (s.setSpec c f.ctx (specSlot w) ⟨false, W⟩, scNat (k + (cnt - k) * 2 ^ 8))

/-- SPEC_APPLY (R290, R292): once every older instance has committed. A failed check of one whose instance was squashed
leaves nothing: the replay makes it again. -/
def execSpecApply (core ctx k : Nat) (s : State) : Out :=
  match (s.cx core ctx).pend[k]? with
  | some q => match q.st, q.i with
    | .perform, .specbeg w =>
      if !s.due q then .next s
      else
        let (s, st) := specBegin (s.dropPend core ctx k) w q.f
        .next ((s.keep q.f [(.data, scNat st)]).emitDue q w.t0 w.t1 .data (scNat st))
    | .perform, .speccmt w =>
      if !s.due q || !s.portTakes q.f then .next s
      else
        let sp := (s.cx core ctx).specs.getD (specSlot w) ⟨false, 0⟩
        let n := min q.f.lval.scalar.toNat (min (s.padByte core (sp.w + 10)) 64)
        let vas := if sp.isOpen then (List.range n).map fun j => effAddr (s.specEntry core sp.w j).1 10 else []
        let s' := (s.dropPend core ctx k).fillTlb core (vas.filter fun a => !isPaToken a)
        if s.links.any (·.failed) && (s.dirtyStalls core || s.walkStalls core (vas.filter fun a => !isPaToken a)) then .next s
        else if !sp.isOpen then
          let v := scNat (2 * 2 ^ 16)
          .next ((s'.keep q.f [(.data, v)]).emitDue q w.t0 w.t1 .data v)
        else match specCommit s' w q.f sp.w with
          | .ok (s, v) => .next ((s.keep q.f [(.data, v)]).emitDue q w.t0 w.t1 .data v)
          | .error e => .next (if q.sseq = 1 then s' else s'.readFails (.speccmt w) q.f 0 e .atomic)
    | _, _ => .next s
  | none => .next s

end Sys2Proof.Machine
end

