-- ==== Sys2Proof/Machine/Cfgload.lean ====
section
/-! DEFINITION. CFGLOAD (R94-R99): the check of R96 as a list of visited words, each with its
conditions and the words that their verdicts read, and the installing and releasing of handles. -/

namespace Sys2Proof.Machine

/-- One condition on a visited word: the code that a breach gives, the image words that its verdict reads beyond the
visited one, and whether it is broken. -/
structure Check where
  code : Nat
  needs : List Nat
  bad : Bool
  deriving DecidableEq, Repr

/-- One visited word (R96): the words that hold it (none for a record whose first word lies outside the image), its
conditions by rising code, and its name. -/
structure Visit where
  word : List Nat
  checks : List Check
  blk : Nat
  wrd : Nat
  deriving DecidableEq, Repr

/-- A condition that the visited word alone, or words visited before it, decide. -/
def own (code : Nat) (bad : Bool) : Check := ⟨code, [], bad⟩

/-- Image words that hold bytes `o` to `o + n - 1`. -/
def wordsOf (o n : Nat) : List Nat := if n = 0 then [] else (List.range ((o + n - 1) / 8 + 1 - o / 8)).map fun k => o / 8 + k

/-- A visited word outside any block record. -/
def outside (n : Nat) (checks : List Check) : Visit := ⟨[n], checks, 0xFFFF, n⟩

/-! ## Header, tables and in-list -/

/-- Does a section break R83: its alignment, or its end? -/
def secBad (img : List Word) (o n : Nat) : Bool := o % 16 != 0 || imgLength img < o + n

/-- Words of the header words 0 of records 0 to `k`. -/
def headWords (img : List Word) (k : Nat) : List Nat := (List.range (k + 1)).map fun j => (blkAt img j).off / 8

/-- Is byte `o` of the image at most the 8th from its end? Words beyond are left to the visit of their own record. -/
def reaches (img : List Word) (o : Nat) : Bool := o + 8 ≤ imgLength img && o + 8 ≤ 2 ^ 24

/-- Does the handler field break R83? A record outside the image is left to its own visit (DEDUCED, log 93). -/
def handlerBad (img : List Word) : Bool :=
  let h := imgHandler img
  h != 0xFFFF && (decide (imgNblocks img ≤ h) ||
    (let b := blkAt img h
     reaches img b.off && b.kind != 3))

/-- Bytes of one placement variant (R88). -/
def variantSize (img : List Word) : Nat := (8 + imgNblocks img + 7) / 8 * 8

/-- The header, word by word (R83, R96). A data length without a data offset breaks R83 (DESIGN CHOICE, log 93). -/
def headerVisits (img : List Word) : List Visit :=
  let h := imgHandler img
  let hn : List Nat := if h == 0xFFFF || imgNblocks img ≤ h then []
    else 3 :: 6 :: (headWords img h).filter fun w => reaches img (8 * w)
  let inlen := (imgNinch img + 15) / 16 * 16
  [outside 0 [own 1 (imgNat img 0 4 != 0x0D721A6E || imgNat img 4 2 != 1 || imgNblocks img == 0 ||
      decide (4096 < imgNblocks img))],
   outside 1 [own 1 (decide (7 < imgNfields img) || decide (63 < imgNchannels img) || imgNvariants img == 0 ||
      decide (5 < imgNvariants img) || imgNslots img == 0 || decide (256 < imgNslots img)), ⟨1, hn, handlerBad img⟩,
      own 3 (decide (4 < imgScope img))],
   outside 2 [⟨1, [6], secBad img (imgTagoff img) (8 * imgNfields img) ||
      secBad img (imgChanoff img) (16 * imgNchannels img)⟩],
   outside 3 [own 1 (imgBlockoff img % 16 != 0 || imgPatoff img % 16 != 0)],
   outside 4 [own 1 (imgNpatterns img == 0), ⟨1, [6], secBad img (imgPlaceoff img) (imgNvariants img * variantSize img)⟩],
   outside 5 [own 1 (imgDataoff img == 0 && imgDatalen img != 0),
      ⟨1, [6], imgDataoff img != 0 && secBad img (imgDataoff img) (imgDatalen img)⟩],
   outside 6 [own 1 (decide (imgLength img < 64) || decide (2 ^ 24 < imgLength img)),
      ⟨1, [7], if imgNinch img == 0 then imgInoff img != 0 else secBad img (imgInoff img) inlen⟩],
   outside 7 [own 1 (imgNat img 57 7 != 0)]]

/-- The tag-field table (R32, R84). -/
def tagVisits (img : List Word) : List Visit :=
  (List.range (imgNfields img)).map fun f =>
    let o := imgTagoff img + 8 * f
    let total := ((List.range (f + 1)).map (fieldWidth img)).sum
    outside (o / 8) [own 2 (fieldWidth img f == 0 || decide (58 < total) || 1 < imgByte img (o + 1) ||
      imgNat img (o + 2) 6 != 0)]

/-- Image words of a block record. -/
def recWords (img : List Word) (b : Nat) : List Nat := wordsOf (blkAt img b).off (blkAt img b).size

/-- The targets that word `j` of a record names, as a frame-read descriptor word or an instruction. -/
def recTargets (img : List Word) (b : Blk) (j : Nat) : List Target :=
  if 2 ≤ j && j < 2 + (b.nreads + 1) / 2 then
    ((List.range b.nreads).filter fun n => n / 2 == j - 2).flatMap fun n => [(rdDesc img b n).t0, (rdDesc img b n).t1]
  else if b.codeWord ≤ j && j < b.codeWord + b.icount then wordTargets (insWord img b (j - b.codeWord))
  else []

/-- Is word `j` of a record an instruction, and which? -/
def recIns (img : List Word) (b : Blk) (j : Nat) : Option Word :=
  if b.codeWord ≤ j && j < b.codeWord + b.icount then some (insWord img b (j - b.codeWord)) else none

/-- Does a target of word `j` of a record, other than a WIDEN's, name a channel (R85)? The channels strictly inside the range of
a ROUTE are no targets of the word and are not looked at (DEDUCED, log 93). -/
def plainChanTarget (img : List Word) (b : Blk) (j ch : Nat) : Bool :=
  !(recIns img b j).any (fun w => wordOp w == 0x153) && (recTargets img b j).any fun t => match t with
    | .chan c => c.toNat == ch
    | _ => false

/-- The channel list: two words an entry (R85). Equal dimage and dslot of two entries is met at the second word of the
later one, where both are read (DEDUCED, log 93). -/
def chanVisits (img : List Word) : List Visit :=
  (List.range (imgNchannels img)).flatMap fun k =>
    let e := chanEnt img k
    let o := imgChanoff img + 16 * k
    let widen := e.flags.testBit 0
    let qdelay := e.flags.testBit 1
    let before := (List.range k).map (chanEnt img)
    let plain (n : Nat) : List Check :=
      ⟨4, (headWords img n).filter fun w => reaches img (8 * w), false⟩ ::
      ((recWords img n).mapIdx fun j w => (j, w)).filterMap fun t =>
        if reaches img (8 * t.2) then some ⟨4, [t.2], plainChanTarget img (blkAt img n) t.1 e.chan⟩ else none
    [outside (o / 8) ([own 3 (decide (4 < e.dscope))] ++
        (if widen then (List.range (imgNblocks img)).flatMap plain else [own 4 (e.dscope != imgScope img)]) ++
        [own 5 (qdelay && e.depth != e.qblock),
         own 6 (decide (62 < e.chan) || before.any (·.chan == e.chan) || e.depth == 0 || decide (4096 < e.depth) ||
          decide (4 ≤ e.flags) || (!qdelay && e.qblock != 0))]),
     outside (o / 8 + 1) [own 6 (imgNat img (o + 10) 6 != 0 ||
        before.any fun b => b.dimage == e.dimage && b.dslot == e.dslot)]]

/-- The in-list, eight entries a word (R86). -/
def inListVisits (img : List Word) : List Visit :=
  let n := imgNinch img
  let at_ (k : Nat) : Nat := imgByte img (imgInoff img + k)
  (List.range ((n + 15) / 16 * 2)).map fun w =>
    outside (imgInoff img / 8 + w) [own 6 ((List.range 8).any fun j =>
      let k := 8 * w + j
      if n ≤ k then at_ k != 0
      else decide (imgNslots img ≤ at_ k) || (k != 0 && decide (at_ k ≤ at_ (k - 1))))]

/-! ## Block records -/

/-- Instructions of a block that decode, with their indexes. -/
def blockInstrs (img : List Word) (b : Blk) : List (Nat × Instr) :=
  ((insWords img b).mapIdx fun i w => (i, w)).filterMap fun p => match decodeWord p.2 with
    | .ok i => some (p.1, i)
    | .error _ => none

/-- LSID and opcode class of a word in the store mask (R80, R103, R280, R287). -/
def storeOps : List Nat := [0x140, 0x141, 0x142, 0x143, 0x144, 0x145, 0x146, 0x147, 0x148, 0x149, 0x150, 0x151, 0x152, 0x1C6, 0x1C9]

/-- Is word `j` of a record a store that its store mask lacks (R80)? -/
def maskLacks (img : List Word) (b : Blk) (j : Nat) : Bool :=
  (recIns img b j).any fun w => storeOps.contains (wordOp w) && !b.smask.testBit (bits w 26 22)

/-- The store mask that the words of a block give (R80). -/
def wantedMask (img : List Word) (b : Blk) : Nat :=
  (insWords img b).foldl (fun m w => if storeOps.contains (wordOp w) then m ||| 2 ^ bits w 26 22 else m) 0

/-- Exits of a block, ERET counting in a handler block (R80, R347). -/
def wantedExits (img : List Word) (b : Blk) : Nat :=
  ((insWords img b).filter fun w => exitOps.contains (wordOp w) || (wordOp w == 0x1C4 && b.kind == 3)).length

/-- Channel targets of a block (R80, R127). -/
def wantedChans (img : List Word) (b : Blk) : Nat :=
  let chanOf (t : Target) : Option Nat := match t with
    | .chan c => some c.toNat
    | _ => none
  let count (ts : List Target) : Nat := (ts.filterMap chanOf).length
  ((rdDescs img b).map fun d => count [d.t0, d.t1]).sum +
  ((insWords img b).map fun w => match wordOp w == 0x04C, (wordTargets w).map chanOf with
    | true, [some lo, some hi] => if lo ≤ hi then hi - lo + 1 else 2
    | _, _ => count (wordTargets w)).sum

/-- Is instruction `i` a second memory instruction with one LSID (R97 code 14)? -/
def lsidShared (img : List Word) (b : Blk) (i : Nat) : Bool :=
  let isM (w : Word) : Bool := (mBuild (wordOp w)).isSome
  let w := insWord img b i
  isM w && (List.range i).any fun j =>
    let v := insWord img b j
    isM v && bits v 26 22 == bits w 26 22

/-- Words that the checks of a word's targets read: those of the instructions whose right or predicate position it
names (R70, R120). -/
def targetNeeds (b : Blk) (ts : List Target) : List Nat :=
  ts.filterMap fun t => match t with
    | .right i | .pred i => if i.toNat < b.icount then some (b.off / 8 + b.codeWord + i.toNat) else none
    | _ => none

/-- Words of a record that the verdict on whether a position is fed reads: up to the first that feeds it. -/
def fedNeeds (img : List Word) (k i : Nat) (p : Pos) : List Nat :=
  let b := blkAt img k
  let l := (recWords img k).mapIdx fun j w => (j, w)
  let hit (t : Nat × Nat) : Bool := (recTargets img b t.1).any fun t => Target.names t i p
  (l.take ((l.findIdx? hit).getD l.length + 1)).map (·.2)

/-- Words that the verdict on an exit reads: the headers of the records up to the one that a direct exit reaches, or the
words that feed an indirect one. -/
def exitNeeds (img : List Word) (k i : Nat) (w : Word) : List Nat :=
  let op := wordOp w
  if op == 0x080 || op == 0x082 || op == 0x08C then
    let off := (((blkAt img k).off : Int) + 16 * sval 27 (bits w 26 0)).toNat
    ((blkOffs img).filter fun o => o ≤ off && reaches img o).map (· / 8)
  else if op == 0x081 || op == 0x083 then fedNeeds img k i .left
  else []

/-- The first visits of a record: its two header words (R79, R80). -/
def recHead (img : List Word) (k : Nat) : List Visit :=
  let b := blkAt img k
  let past := decide (imgLength img < b.off + b.size)
  let h0 := imgNat img b.off 8
  let h1 := imgNat img (b.off + 8) 8
  if imgLength img < b.off + 8 then [⟨[], [own 8 true], k, 0⟩]
  else
    [⟨[b.off / 8], [own 8 (b.magic != 0xB7 || decide (32 < b.nreads) || decide (32 < b.nwrites) ||
        (h0 >>> 16) % 2 ^ 18 != 0 || b.blockno != k || past ||
        (b.first && (List.range k).any fun j => (blkAt img j).first))], k, 0⟩,
     ⟨[b.off / 8 + 1], own 8 ((h1 >>> 23) % 512 != 0) ::
        ((recWords img k).mapIdx fun j w => ⟨14, [w], maskLacks img b j⟩) ++
        [⟨14, recWords img k, b.smask != wantedMask img b⟩, ⟨15, recWords img k, wantedExits img b != b.nexits || b.nchan != wantedChans img b⟩], k, 1⟩]

/-- Descriptor words of a record (R81, R82). -/
def recDescs (img : List Word) (k : Nat) : List Visit :=
  let b := blkAt img k
  let rd (n : Nat) : List Check :=
    let x := rdRaw img b n
    let t0 := (x >>> 18) % 512
    let t1 := (x >>> 9) % 512
    if b.nreads ≤ n then [own 8 (x != 0)]
    else [⟨12, targetNeeds b ([t0, t1].filterMap Target.ofCode?), !(targetCodeOk img b t0 && targetCodeOk img b t1)⟩,
      own 13 (x >>> 27 != 0 || (t0 == 0x1FF && t1 == 0x1FF) || decide (imgNslots img ≤ x % 256))]
  let wr (n : Nat) : List Check :=
    let x := wrRaw img b n
    if b.nwrites ≤ n then [own 8 (x != 0)]
    else [own 13 (decide (256 ≤ x) || decide (imgNslots img ≤ x % 256) || (inList img).contains (x % 256) ||
      (List.range n).any fun j => wrRaw img b j % 256 == x % 256)]
  let byCode (l : List Check) : List Check := [8, 12, 13].flatMap fun c => l.filter (·.code == c)
  let rw_ := (b.nreads + 1) / 2
  let ww := (b.nwrites + 3) / 4
  (List.range rw_).map (fun j => ⟨[b.off / 8 + 2 + j], byCode (rd (2 * j) ++ rd (2 * j + 1)), k, 2 + j⟩) ++
  (List.range ww).map (fun j => ⟨[b.off / 8 + 2 + rw_ + j],
    byCode (wr (4 * j) ++ wr (4 * j + 1) ++ wr (4 * j + 2) ++ wr (4 * j + 3)), k, 2 + rw_ + j⟩)

/-- Instruction words of a record, then its padding (R107, R97, R78). -/
def recInstrs (img : List Word) (k : Nat) : List Visit :=
  let b := blkAt img k
  (List.range b.icount).map (fun i =>
    let w := insWord img b i
    let early := match wordCheck img b w with
      | .ok _ => 0
      | .error c => c
    ⟨[b.off / 8 + b.codeWord + i],
     [own 9 (early == 9), own 10 (early == 10)] ++
     (if wordOp w == 0x1C1 && bits w 30 28 == 1 then [⟨10, fedNeeds img k i .right, sampleBad img b i w⟩] else []) ++
     [own 11 (early == 11), ⟨12, targetNeeds b (wordTargets w), early == 12⟩, own 14 (lsidShared img b i),
      ⟨15, exitNeeds img k i w, exitBad img b i w⟩], k, b.codeWord + i⟩) ++
  (if 8 * (b.codeWord + b.icount) < b.size then
    [⟨[b.off / 8 + b.codeWord + b.icount],
      [own 8 (imgNat img (b.off + 8 * (b.codeWord + b.icount)) 8 != 0)], k, b.codeWord + b.icount⟩] else [])

/-- Some record must be the first (R96). -/
def firstVisit (img : List Word) : Visit :=
  ⟨[], [own 8 (!(List.range (imgNblocks img)).any fun k => (blkAt img k).first)], 0xFFFF, 0⟩

/-! ## Patterns and variants -/

/-- A pattern record (R87): offset, variant, rectangles. -/
structure Pat where
  off : Nat
  variant : Nat
  nrects : Nat
  deriving DecidableEq, Repr

def Pat.rectBytes (p : Pat) : Nat := (4 * p.nrects + 7) / 8 * 8
def Pat.size (p : Pat) : Nat := 8 + p.rectBytes + 256

def patRead (img : List Word) (o : Nat) : Pat := ⟨o, imgByte img o, imgByte img (o + 1)⟩

def patsFrom (img : List Word) (o : Nat) : Nat → List Pat
  | 0 => []
  | n + 1 => let p := patRead img o
    p :: patsFrom img (o + p.size) n

/-- Pattern records of an image whose length bounds them. -/
def imgPats (img : List Word) : List Pat := patsFrom img (imgPatoff img) (min (imgNpatterns img) (imgLength img / 264 + 1))

/-- Rectangle `j`: first row, first column, rows, columns. -/
def Pat.rect (img : List Word) (p : Pat) (j : Nat) : Nat × Nat × Nat × Nat :=
  let o := p.off + 8 + 4 * j
  (imgByte img o, imgByte img (o + 1), imgByte img (o + 2), imgByte img (o + 3))

def rectElems (r : Nat × Nat × Nat × Nat) : List (Nat × Nat) :=
  (List.range r.2.2.1).flatMap fun i => (List.range r.2.2.2).map fun j => (r.1 + i, r.2.1 + j)

/-- Elements that a pattern reaches, row and column in the panel. -/
def Pat.elems (img : List Word) (p : Pat) : List (Nat × Nat) :=
  (List.range p.nrects).flatMap fun j => rectElems (p.rect img j)

def Pat.page (img : List Word) (p : Pat) : List Word :=
  (List.range 32).map fun i => BitVec.ofNat 64 (imgNat img (p.off + 8 + p.rectBytes + 8 * i) 8)

/-- The initial page of the element at a row and column of a variant's panel (R87). -/
def initialPage (img : List Word) (v row col : Nat) : List Word :=
  match firstBlockOnQuad img v (row / 2 * variantCols img v + col / 2) with
  | some b => blockPage img b (2 * (row % 2) + col % 2)
  | none => List.replicate 32 0

/-- Words that the initial page of the element at a row and column of a variant rests on, beyond the block records: the
variant's head and its bytes up to the first block on the quad. -/
def initialNeeds (img : List Word) (v row col : Nat) : List Nat :=
  let n := match firstBlockOnQuad img v (row / 2 * variantCols img v + col / 2) with
    | some b => b + 1
    | none => imgNblocks img
  wordsOf (variantOff img v) (8 + n)

/-- Visits of pattern record `k` (R87, R96). An empty rectangle reaches no element and is accepted; padding that is not
zero breaks R87 (DESIGN CHOICE, log 46). -/
def patVisits (img : List Word) (k : Nat) : List Visit :=
  let ps := imgPats img
  match ps[k]? with
  | none => []
  | some p =>
    let v := p.variant
    let w := p.off / 8
    let taken (j : Nat) : List (Nat × Nat) :=
      ((ps.take k).filter (·.variant == v)).flatMap (·.elems img) ++ (List.range j).flatMap fun i => rectElems (p.rect img i)
    let pads (j : Nat) : Bool := decide (p.nrects ≤ j) && imgNat img (p.off + 8 + 4 * j) 4 != 0
    let twice (j : Nat) : Bool := decide (j < p.nrects) && (rectElems (p.rect img j)).any (taken j).contains
    let beyond (j : Nat) : Bool := decide (j < p.nrects) &&
      (let r := p.rect img j
       decide (2 * variantRows img v < r.1 + r.2.2.1) || decide (2 * variantCols img v < r.2.1 + r.2.2.2))
    if imgLength img < p.off + 8 then [⟨[], [own 16 true], 0xFFFF, w⟩]
    else
      outside w [own 16 (decide (imgNvariants img ≤ v) || p.nrects == 0 || decide (64 < p.nrects) ||
        imgNat img (p.off + 2) 6 != 0 || decide (imgLength img < p.off + p.size))] ::
      (List.range (p.rectBytes / 8)).map (fun j =>
        outside (w + 1 + j) [own 16 (pads (2 * j + 1) || twice (2 * j) || twice (2 * j + 1)),
          ⟨16, [variantOff img v / 8], beyond (2 * j) || beyond (2 * j + 1)⟩]) ++
      (List.range 32).map (fun i =>
        outside (w + 1 + p.rectBytes / 8 + i) ((p.elems img).map fun e =>
          ⟨16, initialNeeds img v e.1 e.2, (p.page img).getD i 0 != (initialPage img v e.1 e.2).getD i 0⟩))

/-- Panel shape of a quad count (R88). -/
def shapeOf : Nat → Option (Nat × Nat)
  | 1 => some (1, 1) | 2 => some (1, 2) | 4 => some (2, 2) | 8 => some (2, 4) | 16 => some (4, 4) | _ => none

/-- Is a page that a variant needs left out by its patterns (R87)? -/
def undelivered (img : List Word) (v : Nat) : Bool :=
  let got := ((imgPats img).filter (·.variant == v)).flatMap (·.elems img)
  (List.range (2 * variantRows img v)).any fun r => (List.range (2 * variantCols img v)).any fun c =>
    !got.contains (r, c) && (initialPage img v r c).any (· != 0)

/-- Visits of a placement variant (R88). Of two variants of one quad count the later one is refused, and padding that is
not zero breaks R88 (DESIGN CHOICE, log 46). -/
def variantVisits (img : List Word) (v : Nat) : List Visit :=
  let o := variantOff img v
  let n := variantQuads img v
  let nb := imgNblocks img
  outside (o / 8) [
    own 7 (shapeOf n != some (variantRows img v, variantCols img v) || (List.range v).any (fun u => variantQuads img u == n) ||
      imgByte img (o + 3) != 0 || imgNat img (o + 4) 2 != nb || imgNat img (o + 6) 2 != 0),
    ⟨16, wordsOf o (variantSize img), undelivered img v⟩] ::
  (List.range (variantSize img / 8 - 1)).map fun j =>
    outside (o / 8 + 1 + j) [own 7 ((List.range 8).any fun i =>
      let k := 8 * j + i
      if nb ≤ k then imgByte img (o + 8 + k) != 0 else decide (n ≤ variantQuadOf img v k))]

/-! ## The check -/

/-- The stages of R96, in order; a stage is made only when those before it pass. -/
def checkStages (img : List Word) : List (Unit → List Visit) :=
  [fun _ => headerVisits img, fun _ => tagVisits img, fun _ => chanVisits img, fun _ => inListVisits img] ++
  (List.range (imgNblocks img)).flatMap (fun k =>
    [fun _ => recHead img k, fun _ => recDescs img k, fun _ => recInstrs img k]) ++
  [fun _ => [firstVisit img]] ++
  (List.range (imgPats img).length).map (fun k => fun _ => patVisits img k) ++
  (List.range (imgNvariants img)).map fun v => fun _ => variantVisits img v

/-- Why a word of an image cannot be read: its access fails, or waits for a failed link (R396). -/
inductive Bar where
  | fault (e : AccErr)
  | stall
  deriving DecidableEq, Repr

/-- What a check comes to: it met a word that cannot be read, it refuses a word, or it passes. -/
inductive CheckEnd where
  | barred (b : Bar)
  | refuse (code blk wrd : Nat)
  | pass
  deriving DecidableEq, Repr

/-- The conditions of a visited word, lowest code first: the first broken one refuses; a word that a verdict reads and
that cannot be read is a fault. -/
def runChecks (fail : Nat → Option Bar) (blk wrd : Nat) : List Check → CheckEnd
  | [] => .pass
  | k :: ks => match k.needs.findSome? fail with
    | some e => .barred e
    | none => if k.bad then .refuse k.code blk wrd else runChecks fail blk wrd ks

/-- The visited words in order (R96): the check stops at the first that breaks a condition. -/
def runVisits (fail : Nat → Option Bar) : List Visit → CheckEnd
  | [] => .pass
  | v :: vs => match v.word.findSome? fail with
    | some e => .barred e
    | none => match runChecks fail v.blk v.wrd v.checks with
      | .pass => runVisits fail vs
      | r => r

def runStages (fail : Nat → Option Bar) : List (Unit → List Visit) → CheckEnd
  | [] => .pass
  | g :: gs => match runVisits fail (g ()) with
    | .pass => runStages fail gs
    | r => r

/-- The check of an image whose words can all be read. -/
def checkImage (img : List Word) : CheckEnd := runStages (fun _ => none) (checkStages img)

/-! ## CFGLOAD -/

/-- The access to word `n` of the image at an address. An image address that is not a multiple of 8 is misaligned (R139
with words of 8 bytes; DESIGN CHOICE, log 93). -/
def State.imageRead (s : State) (c a n : Nat) : Except AccErr (List Nat) := s.check c .load (effAddr a ((8 * n : Nat))) 8 8

/-- A word of the image as the firing's load reads it (R99, R147). -/
def State.imageWord (s : State) (f : Firing) (a n : Nat) : Word :=
  match s.imageRead f.core a n with
  | .ok pas => BitVec.ofNat 64 (bytesToNat (pas.map (s.loadByte f 0)))
  | .error _ => 0

/-- What bars the reading of a word of the image. -/
def State.imageErr (s : State) (c a n : Nat) : Option Bar :=
  if s.walkStalls c (vasIf (effAddr a ((8 * n : Nat))) 8 8) then some .stall
  else match s.imageRead c a n with
    | .ok pas => if s.linkDown c pas then some .stall else none
    | .error e => some (.fault e)

/-- Words of an image of a length: an image is at most 16 MiB long (R83). -/
def imageCount (len : Nat) : Nat := max 8 ((min len (2 ^ 24) + 7) / 8)

/-- The words of the image at an address: its header first, then as many as the length field names. -/
def State.imageWords (s : State) (f : Firing) (a : Nat) : List Word :=
  let head := (List.range 8).map (s.imageWord f a)
  head ++ (List.range (imageCount (imgLength head) - 8)).map fun k => s.imageWord f a (8 + k)

/-- An installed handle of a partition (R95, R98). -/
def Part.installed (p : Part) (h : Nat) : Option Image := p.images.find? fun m => m.handle == h && m.alloc.isNone

/-- Records that a queue holds: queued, in the assembly buffer, reserved. -/
def Queue.records (q : Queue) : List LRec := q.units.flatMap (·.recs) ++ q.asm ++ q.resv.map (·.1)

/-- Contexts of a partition: core, context, content. -/
def State.contextsOf (s : State) (p : Nat) : List (Nat × Nat × Ctx) :=
  (s.cores.mapIdx fun c k => if (s.part p).cores.toNat.testBit c then k.cxs.mapIdx fun x v => (c, x, v) else []).flatten.filter
    fun t => t.2.2.phase != .free

/-- Does a queued record or a dispatched context name a handle (R95)? -/
def State.handleBusy (s : State) (p h : Nat) : Bool :=
  (s.part p).queues.any (fun q => q.records.any (·.handle == h)) ||
  (s.contextsOf p).any (fun t => t.2.2.lau.handle == h) || (s.part p).pool.any fun v => v.cx.lau.handle == h

/-- The lowest free handle of 256 (R95). -/
def Part.freeHandle (p : Part) : Option Nat := (List.range 256).find? fun h => !p.images.any (·.handle == h)

def Firing.ref (f : Firing) : InstRef := ⟨f.core, f.ctx, f.hdl, f.seq⟩

/-- The result of R95. -/
def cfgResult (code h blk wrd : Nat) : Val := scNat (code + h * 2 ^ 8 + blk * 2 ^ 24 + wrd % 2 ^ 24 * 2 ^ 40)

/-- RELEASE (R95, R98); the result holds the handle in bits 23:8. -/
def cfgRelease (s : State) (w : GWord) (f : Firing) (p : Nat) : State :=
  let h := bits f.lval.scalar 15 0
  let out (s : State) (code : Nat) : State := s.emit f w.t0 w.t1 .data (cfgResult code h 0 0)
  let v := s.part p
  if (v.installed h).isNone then out s 18
  else if s.handleBusy p h then out s 19
  else
    let hit (m : Image) : Bool := m.handle == h && m.alloc.isNone
    if (s.instOf f).isNone then out (s.setPart p { v with images := v.images.filter fun m => !hit m }) 0
    else out (s.setPart p { v with images := v.images.map fun m => if hit m then { m with rel := f.ref :: m.rel } else m }) 0

/-- The check, and unless CHECK is set the copy (R95-R99). The reads act as acquires at PKG; while one of them waits for a failed
link, the instruction waits. Block and word of the result are 0 where no word is refused (DESIGN CHOICE, log 93). -/
def cfgInstall (s : State) (w : GWord) (f : Firing) (p : Nat) (only : Bool) : State :=
  let c := f.core
  let a := f.lval.scalar.toNat
  let s0 := s
  let s := s.cacheAcquire c
  let img := s.imageWords f a
  let out (s : State) (code h blk wrd : Nat) : State := s.emit f w.t0 w.t1 .data (cfgResult code h blk wrd)
  match runStages (s.imageErr c a) (checkStages img) with
  | .barred .stall => s0.hold (.cfgload w) f
  | .barred (.fault e) => s.readFails (.cfgload w) f 0 e .load
  | .refuse code blk wrd => (s.fillTlb c (touched a 64)).emit f w.t0 w.t1 .data (cfgResult code 0 blk wrd)
  | .pass =>
    let all := touched a (imgLength img)
    if only then out s 0 0 0 0
    else if s.walkStalls c all then s0.hold (.cfgload w) f else
    let s := s.fillTlb c all
    let whole := s.check c .load a (imgLength img) 1
    match (s.part p).freeHandle with
      | none => out s 17 0 0 0
      | some h => match whole with
        | .error e => s.readFails (.cfgload w) f 0 e .load
        | .ok pas =>
          if s.linkDown c pas then s0.hold (.cfgload w) f else
          let v := s.part p
          out (s.setPart p { v with images := ⟨h, img, if (s.instOf f).isNone then none else some f.ref, []⟩ :: v.images }) 0 h 0 0

/-- CFGLOAD (R94-R99). Its reads wait as those of a load do (R147-R149). -/
def execCfgload (w : GWord) (s : State) : Out :=
  fireAs s w.pm w.t0 w.t1 (if w.imm then leftOnly else both) fun f =>
    let opts := (rightOf w f).scalar
    let p := (s.partOfCore f.core).getD 0
    if opts.toNat / 4 ≠ 0 then s.emit f w.t0 w.t1 .data (cfgResult 20 0 0 0)
    else if bit opts 1 then cfgRelease s w f p
    else if !s.portTakes f || !s.readAllowed f 0 [] then s.hold (.cfgload w) f
    else cfgInstall s w f p (bit opts 0)

end Sys2Proof.Machine
end

