-- ==== Sys2Proof/Machine/Control.lean ====
section
/-! DEFINITION. Control registers: GETC, SETC (R349, R350), TRAP (R348), ERET (R347), TAKEIN (R352), the issue of
CTXSAVE and CTXREST (R355). -/

namespace Sys2Proof.Machine


/-- The marking record as the handler reads it (R349). -/
def State.trec (s : State) (c x : Nat) : Nat :=
  let v := s.cx c x
  match v.trapped with
  | some t => if v.ctl.inHandler then ((s.record c x t.num).map FRec.encode).getD 0 else 0
  | none => 0

/-- A control register as GETC reads it (R349). -/
def State.ctlReg (s : State) (c x n : Nat) : Val :=
  let k := s.core c
  let v := s.cx c x
  match n with
  | 0 => .sc k.cycle
  | 1 => scNat (x + c * 2 ^ 8 + dieOf c * 2 ^ 16 + v.lau.part * 2 ^ 20)
  | 2 => .sc v.ctl.ctagmask
  | 3 => scNat (b2n v.ctl.cancel)
  | 4 => scNat v.ctl.smode.toNat
  | 5 => scNat k.xgen.toNat
  | 6 => .sc v.ctl.hintdrop
  | 7 => .sc v.ctl.kvclip
  | 8 => .sc v.ctl.specfb
  | 9 => .sc v.ctl.rpend
  | 10 => .sc v.ctl.rlim
  | 11 => scNat (b2n v.ctl.priv)
  | 12 => .sc v.ctl.tcause
  | 13 => .sc v.ctl.tseq
  | 14 => .sc v.ctl.ttag
  | 15 => .sc v.ctl.tblk
  | 16 => .vec (BitVec.ofNat 512 (s.trec c x))
  | 18 => scNat (b2n v.ctl.inHandler + 2 * b2n v.ctl.pending)
  | _ => .sc 0

/-- GETC (R350). -/
def execGetc (w : GWord) (s : State) : Out :=
  fireAs s w.pm w.t0 w.t1 leftOnly fun f => s.emit f w.t0 w.t1 .data (s.ctlReg f.core f.ctx w.value.toNat)

/-- SETC (R350): the token goes on; the register is written at commit. -/
def execSetc (w : GWord) (s : State) : Out :=
  fireAs s w.pm w.t0 w.t1 leftOnly fun f =>
    (s.addPost f (.setc w.value.toNat f.lval.scalar)).emit f w.t0 w.t1 .data f.lval

/-- SETC of `ctl.fclr` (R341, R350). -/
def execSetcFclr (w : GWord) (s : State) : Out :=
  fireAs s w.pm w.t0 w.t1 leftOnly fun f => (s.addPost f .fclr).emit f w.t0 w.t1 .data f.lval

/-- TRAP (R348): a DATA operand makes a SOFT record and marks the instance; other kinds are absorbed, but for a FAULT. -/
def execTrap (w : GWord) (s : State) : Out :=
  withSel s fun f =>
    match plan w.pm f [f.l] with
    | .absorb => .next (s.absorb f [f.l])
    | .emit .fault v => .next (s.mark f v)
    | .emit _ _ => .next s
    | .run =>
      if (s.instOf f).isNone then .next s
      else
        let (s, num) := s.ctxFault f 12 48 (BitVec.ofNat 64 (w.value.toNat % 2 ^ 16 + f.lval.scalar.toNat % 2 ^ 48 * 2 ^ 16))
        .next (s.mark f (faultVal num))

/-- ERET (R347) is an exit that starts no block; it takes effect when its instance commits: it returns (`State.eret`), or
outside a handler makes an ILLEGAL record (`State.eretOutside`). -/
def execEret (w : GWord) (s : State) : Out :=
  withSel s fun f =>
    match gate w.pm f with
    | .absorb => .next (s.absorb f [f.l])
    | .emit .fault v => .next (s.mark f v)
    | .emit _ _ => .next s
    | .fire =>
      match (f.l.map Tok.kind : Option Kind) with
      | some .fault => .next (s.mark f f.lval)
      | some .null => .next s
      | _ =>
        match s.instOf f with
        | none => .next s
        | some i =>
          if i.exit.isSome then .next s
          else .next (s.setExit f ⟨f.idx, true, none, f.tag, [], none, false, some (w.mode == 1)⟩)

/-! ## Take-in requests -/

/-- Quads of the panel in force. -/
def Panel.count (p : Panel) : Nat := p.rows * p.cols
def Ctx.quadsNow (v : Ctx) : Nat := (v.panel.map Panel.count).getD 0

/-- The variant that a take-in under a quad limit chooses: the largest count at most `n` and below the count in force
(R351). -/
def Ctx.smaller (v : Ctx) (n : Nat) : Option Nat :=
  let img := v.lau.image
  (List.range (imgNvariants img)).foldl (fun b k =>
    let q := variantQuads img k
    if n < q || v.quadsNow ≤ q then b
    else match b with
      | none => some k
      | some j => if variantQuads img j < q then some k else b) none

/-- It ends, and fetch resumes (R351 step 5). -/
def State.endTakeIn (s : State) (c x : Nat) : State :=
  let v := s.cx c x
  s.setCx c x { v with takeIn := none, ctl := { v.ctl with pending := false } }

/-- Is a take-in or save of the context pending, or asked for by an instance that has not committed? -/
def Ctx.takePending (v : Ctx) : Bool :=
  v.takeIn.isSome || (v.insts ++ v.hInsts).any fun i => i.post.any fun p => match p with
    | .takeIn _ => true
    | _ => false

/-- The take-in that begins when the firing's instance commits, at once if it has (R352). -/
def State.postTakeIn (s : State) (f : Firing) : State :=
  let n := f.lval.scalar.toNat
  if (s.instOf f).isSome then s.addPost f (.takeIn n) else s.beginTakeIn f.core f.ctx n true

/-- Is a kept result that of a TAKEIN that is DONE, whose procedure is still to begin (R352)? -/
def Kept.takesIn (k : Kept) : Bool := k.out.any fun o => o.1 == .data && bits o.2.scalar 7 0 == 0

/-- TAKEIN (R352): applied once every older instance has committed; the code for a pending one comes first, then that
for a limit that is not smaller. The procedure begins when the instance commits, at once if it has. -/
def execTakein (w : EWord) (s : State) : Out :=
  fireAs s w.pm w.t0 w.t1 leftOnly fun f =>
    match s.keptOf f with
    | some kp => (if Kept.takesIn kp then s.postTakeIn f else s).emitKept f w.t0 w.t1 kp
    | none =>
      if !s.oldest f then s.hold (.takein w) f
      else
        let v := s.cx f.core f.ctx
        let n := f.lval.scalar.toNat
        let out (s : State) (count code : Nat) : State :=
          let r := scNat (code + count * 2 ^ 8)
          (s.keep f [(.data, r)]).emit f w.t0 w.t1 .data r
        if v.takePending then out s v.quadsNow 3
        else if v.quadsNow ≤ n then out s v.quadsNow 2
        else match v.smaller n with
          | none => out s v.quadsNow 1
          | some k =>
            out (s.postTakeIn f) (variantQuads v.lau.image k) 0

/-! ## CTXSAVE and CTXREST fire -/

def saveTarget (w : EWord) : Nat := bits w.mods 2 0
/-- The completion scope, in bits 5:3 (R355). -/
def saveScope (w : EWord) : Nat := scopeOrPkg (bits w.mods 5 3)

/-- The status with which a CTXSAVE ends at once, 0 for none (R355). -/
def ctxsaveStatus (s : State) (w : EWord) (f : Firing) : Nat :=
  let v := s.cx f.core (saveTarget w)
  if v.phase = .free || v.phase = .killed then 1
  else if saveTarget w = f.ctx then 2
  else if !(s.cx f.core f.ctx).ctl.priv then 3
  else if v.takePending then 5
  else 0

/-- CTXSAVE is issued: the target is being brought to quiescence (R353), unless the command ends at once. -/
def execCtxsave (w : EWord) (s : State) : Out :=
  fireAs s w.pm w.t0 w.t1 both fun f =>
    if !s.portTakes f || s.stallsTile (.ctxsave w) f then s.hold (.ctxsave w) f
    else issue s (.ctxsave w) w f (saveScope w) fun s t =>
      let st := ctxsaveStatus s w f
      let s := if st = 0 then s.beginTakeIn f.core (saveTarget w) 0 false else s
      s.addCmd f.core { mkCmd (.ctxsave w) f 63 t (saveScope w) with st := .accepted, status := st }

/-- CTXREST is issued; what it comes to is decided when it finishes. -/
def execCtxrest (w : EWord) (s : State) : Out :=
  fireAs s w.pm w.t0 w.t1 leftOnly fun f =>
    if !s.portTakes f || s.stallsTile (.ctxrest w) f then s.hold (.ctxrest w) f
    else issue s (.ctxrest w) w f (saveScope w) fun s t =>
      s.addCmd f.core { mkCmd (.ctxrest w) f 63 t (saveScope w) with st := .accepted }

end Sys2Proof.Machine
end

