-- ==== Sys2Proof/Machine/Digest.lean ====
section
/-! DEFINITION. The digests that the spec names: SHA-384 (R397, R399), and HKDF with it (R398, RFC 5869); SHA-512 and SHAKE, on
which the signatures of R397 rest. The spec names the functions; what they compute is that of their standards (PRESUMED,
log 6). -/

namespace Sys2Proof.Machine

/-- The greatest number below 2^72 whose `e`-th power is at most `n`. -/
def rootBelow (e n : Nat) : Nat := (List.range 72).foldr (fun k r => if (r + 2 ^ k) ^ e ≤ n then r + 2 ^ k else r) 0

/-- The first 80 primes. -/
def shaPrimes : List Nat := (List.range 410).filter fun n => 2 ≤ n && (List.range n).all fun d => d < 2 || n % d != 0

/-- The round constants, and the hash value at the start, which the primes from number `n` on give: 64 bits of the fractions of
cube roots and of square roots. -/
def shaK : List Word := shaPrimes.map fun p => BitVec.ofNat 64 (rootBelow 3 (p * 2 ^ 192))
def shaStart (n : Nat) : List Word := ((shaPrimes.drop n).take 8).map fun p => BitVec.ofNat 64 (rootBelow 2 (p * 2 ^ 128))

/-- Bytes as a big-endian number, and a number as `n` big-endian bytes. -/
def bigNat (bs : List Byte) : Nat := bytesToNat bs.reverse
def bigBytes (n x : Nat) : List Byte := (natBytes n x).reverse

/-- A message as blocks of 128 bytes: a one bit, zeros, and the length in bits. -/
def shaPad (m : List Byte) : List Byte :=
  m ++ 0x80#8 :: List.replicate ((239 - m.length % 128) % 128) 0#8 ++ bigBytes 16 (8 * m.length)

/-- The 80 schedule words of a block. -/
def shaSchedule (blk : List Byte) : List Word :=
  let start := (List.range 16).map fun j => BitVec.ofNat 64 (bigNat ((blk.drop (8 * j)).take 8))
  (List.range 64).foldl (fun (w : List Word) t =>
    let a := w.getD (t + 1) 0
    let b := w.getD (t + 14) 0
    let s0 := a.rotateRight 1 ^^^ a.rotateRight 8 ^^^ a >>> 7
    let s1 := b.rotateRight 19 ^^^ b.rotateRight 61 ^^^ b >>> 6
    w ++ [w.getD t 0 + s0 + w.getD (t + 9) 0 + s1]) start

/-- One round on the eight working words. -/
def shaRound (h : List Word) (kw : Word × Word) : List Word :=
  match h with
  | [a, b, c, d, e, f, g, z] =>
    let s1 := e.rotateRight 14 ^^^ e.rotateRight 18 ^^^ e.rotateRight 41
    let s0 := a.rotateRight 28 ^^^ a.rotateRight 34 ^^^ a.rotateRight 39
    let t := z + s1 + ((e &&& f) ^^^ (~~~e &&& g)) + kw.1 + kw.2
    [t + s0 + ((a &&& b) ^^^ (a &&& c) ^^^ (b &&& c)), a, b, c, d + t, e, f, g]
  | _ => h

/-- The 64 bytes that all blocks of a message leave. -/
def shaRun (start : List Word) (m : List Byte) : List Byte :=
  let p := shaPad m
  let h := (List.range (p.length / 128)).foldl (fun h n =>
    List.zipWith (· + ·) h ((List.zip shaK (shaSchedule ((p.drop (128 * n)).take 128))).foldl shaRound h)) start
  h.flatMap fun w => bigBytes 8 w.toNat

/-- SHA-384 as 48 bytes, and SHA-512 as 64. -/
def sha384Bytes (m : List Byte) : List Byte := (shaRun (shaStart 8) m).take 48
def sha512 (m : List Byte) : List Byte := shaRun (shaStart 0) m

/-- SHA-384 (R397, R399), byte `n` of the digest in bits 8n + 7 to 8n. -/
def sha384 (m : List Byte) : BitVec 384 := BitVec.ofNat 384 (bytesToNat (sha384Bytes m))

/-- HMAC-SHA-384. -/
def hmac384 (key m : List Byte) : List Byte :=
  let key := if 128 < key.length then sha384Bytes key else key
  let key := key ++ List.replicate (128 - key.length) 0#8
  sha384Bytes (key.map (· ^^^ 0x5C#8) ++ sha384Bytes (key.map (· ^^^ 0x36#8) ++ m))

/-- `n` bytes, up to 48, of HKDF-SHA-384 without a salt (RFC 5869). -/
def hkdf384 (seed info : List Byte) (n : Nat) : List Byte :=
  (hmac384 (hmac384 (List.replicate 48 0#8) seed) (info ++ [1#8])).take n

/-- The characters of an info string. -/
def ascii (t : String) : List Byte := t.toList.map fun c => BitVec.ofNat 8 c.toNat

/-- The seeds of the device's identity keys, derived from its fused 256-bit seed (R398). The lengths, 32 bytes each, are those
of the private keys of RFC 8032 and of the seeds of FIPS 204 (PRESUMED, log 6). -/
def identityEd : List Byte := hkdf384 (natBytes 32 Config.fusedSeed.toNat) (ascii "GBN-DX72 id ed25519") 32
def identityMl : List Byte := hkdf384 (natBytes 32 Config.fusedSeed.toNat) (ascii "GBN-DX72 id mldsa65") 32

/-! ## SHAKE (FIPS 202) -/

/-- The rotation of each lane, and the constant of each round. -/
def keccakRot : List Nat :=
  [0, 1, 62, 28, 27, 36, 44, 6, 55, 20, 3, 10, 43, 25, 39, 41, 45, 15, 21, 8, 18, 2, 61, 56, 14]
def keccakRc : List Word :=
  [0x0000000000000001, 0x0000000000008082, 0x800000000000808A, 0x8000000080008000, 0x000000000000808B, 0x0000000080000001,
   0x8000000080008081, 0x8000000000008009, 0x000000000000008A, 0x0000000000000088, 0x0000000080008009, 0x000000008000000A] ++
  [0x000000008000808B, 0x800000000000008B, 0x8000000000008089, 0x8000000000008003, 0x8000000000008002, 0x8000000000000080,
   0x000000000000800A, 0x800000008000000A, 0x8000000080008081, 0x8000000000008080, 0x0000000080000001, 0x8000000080008008]

/-- One round on the 25 lanes; lane `x + 5 y` is the one at column `x` of row `y`. -/
def keccakRound (a : List Word) (rc : Word) : List Word :=
  let col := (List.range 5).map fun x => (List.range 5).foldl (fun r y => r ^^^ a.getD (x + 5 * y) 0) 0
  let mix := (List.range 5).map fun x => col.getD ((x + 4) % 5) 0 ^^^ (col.getD ((x + 1) % 5) 0).rotateLeft 1
  let turned := (List.range 25).map fun n => (a.getD n 0 ^^^ mix.getD (n % 5) 0).rotateLeft (keccakRot.getD n 0)
  -- lane (x, y) comes from lane (x + 3 y, x)
  let b := (List.range 25).map fun n => turned.getD ((n % 5 + 3 * (n / 5)) % 5 + 5 * (n % 5)) 0
  (List.range 25).map fun n =>
    let at_ (d : Nat) : Word := b.getD ((n % 5 + d) % 5 + 5 * (n / 5)) 0
    at_ 0 ^^^ (~~~(at_ 1) &&& at_ 2) ^^^ if n = 0 then rc else 0

def keccak (a : List Word) : List Word := keccakRc.foldl keccakRound a

/-- The lanes with a block of bytes added. -/
def keccakAdd (a : List Word) (blk : List Byte) : List Word :=
  a.mapIdx fun n w => w ^^^ BitVec.ofNat 64 (bytesToNat ((blk.drop (8 * n)).take 8))

/-- `n` blocks of output. -/
def keccakOut (rate : Nat) : Nat → List Word → List Byte
  | 0, _ => []
  | n + 1, a => (a.flatMap fun w => natBytes 8 w.toNat).take rate ++ keccakOut rate n (keccak a)

/-- The first `n` bytes of SHAKE with a rate of so many bytes: 168 for SHAKE128, 136 for SHAKE256. -/
def shake (rate : Nat) (m : List Byte) (n : Nat) : List Byte :=
  let m := m ++ [0x1F#8]
  let m := m ++ List.replicate ((rate - m.length % rate) % rate) 0#8
  let m := m.dropLast ++ [m.getLastD 0 ^^^ 0x80#8]
  let a := (List.range (m.length / rate)).foldl (fun a k => keccak (keccakAdd a ((m.drop (rate * k)).take rate)))
    (List.replicate 25 0)
  (keccakOut rate ((n + rate - 1) / rate) a).take n

end Sys2Proof.Machine
end

