-- ==== Sys2Proof/Machine/Ed25519.lean ====
section
/-! DEFINITION. Ed25519 (RFC 8032), under which the boot ROM verifies a manifest (R397) and the device signs its reports (R399).
The rule names the standard; what it says is that of the standard (PRESUMED, log 6). -/

namespace Sys2Proof.Machine

/-- `b` to the power `e` modulo `m`. -/
def powMod (m b e : Nat) : Nat :=
  (List.range (Nat.log2 e + 1)).foldr (fun k r => r * r % m * (if e.testBit k then b else 1) % m) 1

/-- The field, the order of the base point, and the curve's constant `d` = -121665/121666. -/
def edP : Nat := 2 ^ 255 - 19
def edL : Nat := 2 ^ 252 + 27742317777372353535851937790883648493
def edInv (a : Nat) : Nat := powMod edP a (edP - 2)
def edD : Nat := (edP - 121665) * edInv 121666 % edP

def edAdd (a b : Nat) : Nat := (a + b) % edP
def edSub (a b : Nat) : Nat := (a + edP - b) % edP
def edMul (a b : Nat) : Nat := a * b % edP

/-- A point in extended coordinates: x = X/Z, y = Y/Z, xy = T/Z. -/
structure EdPoint where
  x : Nat
  y : Nat
  z : Nat
  t : Nat

def EdPoint.ofXY (x y : Nat) : EdPoint := ⟨x, y, 1, edMul x y⟩
def EdPoint.zero : EdPoint := ⟨0, 1, 1, 0⟩

/-- The sum of two points, which may be equal. -/
def EdPoint.add (p q : EdPoint) : EdPoint :=
  let a := edMul (edSub p.y p.x) (edSub q.y q.x)
  let b := edMul (edAdd p.y p.x) (edAdd q.y q.x)
  let c := edMul (edMul (edMul p.t 2) edD) q.t
  let d := edMul (edMul p.z 2) q.z
  let e := edSub b a
  let f := edSub d c
  let g := edAdd d c
  let h := edAdd b a
  ⟨edMul e f, edMul g h, edMul f g, edMul e h⟩

/-- `n` times a point. -/
def EdPoint.times (n : Nat) (p : EdPoint) : EdPoint :=
  (List.range (Nat.log2 n + 1)).foldr (fun k r =>
    let r := r.add r
    if n.testBit k then r.add p else r) EdPoint.zero

def EdPoint.same (p q : EdPoint) : Bool := edMul p.x q.z == edMul q.x p.z && edMul p.y q.z == edMul q.y p.z

/-- The x coordinate of a y coordinate, with the parity that is asked for. -/
def edX (y odd : Nat) : Option Nat :=
  let yy := edMul y y
  let u := edSub yy 1
  let v := edAdd (edMul edD yy) 1
  let v3 := edMul v (edMul v v)
  let v7 := edMul v3 (edMul v3 v)
  let x := edMul (edMul u v3) (powMod edP (edMul u v7) ((edP - 5) / 8))
  let root : Option Nat :=
    if edMul v (edMul x x) = u then some x
    else if edMul v (edMul x x) = edSub 0 u then some (edMul x (powMod edP 2 ((edP - 1) / 4)))
    else none
  root.bind fun x => if x = 0 && odd = 1 then none else some (if x % 2 = odd then x else edP - x)

def edBase : EdPoint :=
  let y := edMul 4 (edInv 5)
  EdPoint.ofXY ((edX y 0).getD 0) y

def EdPoint.encode (p : EdPoint) : List Byte :=
  let i := edInv p.z
  natBytes 32 (edMul p.y i + edMul p.x i % 2 * 2 ^ 255)

def EdPoint.decode (bs : List Byte) : Option EdPoint :=
  let n := bytesToNat bs
  let y := n % 2 ^ 255
  if bs.length ≠ 32 || edP ≤ y then none else (edX y (n / 2 ^ 255)).map fun x => EdPoint.ofXY x y

/-- The secret scalar of a private key, and the second half of its hash. -/
def edSecret (key : List Byte) : Nat × List Byte :=
  let h := sha512 key
  (bytesToNat (h.take 32) % 2 ^ 254 / 8 * 8 + 2 ^ 254, h.drop 32)

/-- The public key of a private key of 32 bytes. -/
def ed25519Public (key : List Byte) : List Byte := (edBase.times (edSecret key).1).encode

/-- The signature of a message. -/
def ed25519Sign (key m : List Byte) : List Byte :=
  let (a, prefix_) := edSecret key
  let r := bytesToNat (sha512 (prefix_ ++ m)) % edL
  let rb := (edBase.times r).encode
  let k := bytesToNat (sha512 (rb ++ ed25519Public key ++ m)) % edL
  rb ++ natBytes 32 ((r + k * a) % edL)

/-- Does a signature of a message verify under a public key? -/
def ed25519Verifies (key m sig : List Byte) : Bool :=
  let s := bytesToNat (sig.drop 32)
  match EdPoint.decode key, EdPoint.decode (sig.take 32) with
  | some a, some r =>
    let k := bytesToNat (sha512 (sig.take 32 ++ key ++ m)) % edL
    sig.length == 64 && decide (s < edL) &&
      ((edBase.times s).times 8).same ((r.times 8).add ((a.times k).times 8))
  | _, _ => false

end Sys2Proof.Machine
end

