-- ==== Sys2Proof/Machine/MlDsa.lean ====
section
/-! DEFINITION. ML-DSA-65 (FIPS 204), under which the boot ROM verifies a manifest (R397) and the device signs its reports
(R399), with the keys of both and what is signed under them. The rule names the standard; what it says is that of the standard,
in its pure form with an empty context string (PRESUMED, log 6). -/

namespace Sys2Proof.Machine

/-! ## Parameters: k = 6, l = 5, eta = 4, tau = 49, beta = 196, omega = 55 -/

def mlQ : Nat := 8380417
def mlGamma1 : Nat := 2 ^ 19
def mlGamma2 : Nat := (mlQ - 1) / 32
def mlBeta : Nat := 196
def mlOmega : Nat := 55

/-- The hash H of the standard. -/
def mlH (m : List Byte) (n : Nat) : List Byte := shake 136 m n

/-! ## Polynomials: 256 coefficients, lowest first, modulo q -/

def bitRev8 (n : Nat) : Nat := (List.range 8).foldl (fun r k => 2 * r + (n >>> k) % 2) 0

/-- The points at which the transform evaluates a polynomial. -/
def mlRoots : List Nat :=
  (List.range 128).flatMap fun i => let z := powMod mlQ 1753 (bitRev8 (128 + i)); [z, mlQ - z]
def mlInvRoots : List Nat := mlRoots.map fun r => powMod mlQ r (mlQ - 2)

def ntt (w : List Nat) : List Nat := mlRoots.map fun x => w.foldr (fun c r => (c + x * r) % mlQ) 0

/-- The polynomial with given values at the points: coefficient `j` is the sum of the values, each times the inverse of its
point to the power `j`, divided by 256. -/
def invNtt (v : List Nat) : List Nat :=
  let r := (List.range 256).foldl (fun (t : List Nat × List Nat) _ =>
    (List.zipWith (fun a b => a * b % mlQ) t.1 mlInvRoots, t.1.sum * 8347681 % mlQ :: t.2)) (v, [])
  r.2.reverse

def polyAdd (a b : List Nat) : List Nat := List.zipWith (fun x y => (x + y) % mlQ) a b
def polySub (a b : List Nat) : List Nat := List.zipWith (fun x y => (x + mlQ - y) % mlQ) a b
def polyMul (a b : List Nat) : List Nat := List.zipWith (fun x y => x * y % mlQ) a b
def polyZero : List Nat := List.replicate 256 0

/-- A matrix of transforms times a vector of transforms. -/
def matVec (m : List (List (List Nat))) (v : List (List Nat)) : List (List Nat) :=
  m.map fun row => (List.zip row v).foldl (fun s t => polyAdd s (polyMul t.1 t.2)) polyZero

/-- The representative of a number modulo `m` that is nearest to 0. -/
def centred (m : Nat) (r : Int) : Int := let x := r % m; if (m : Int) < 2 * x then x - m else x
def modQ (x : Int) : Nat := (x % mlQ).toNat

/-- Are all coefficients smaller than a bound? -/
def polysBelow (bound : Nat) (l : List (List Nat)) : Bool := l.all fun w => w.all fun c => (centred mlQ c).natAbs < bound

/-! ## Rounding -/

def power2Round (r : Nat) : Nat × Int := let r0 := centred (2 ^ 13) r; ((((r : Int) - r0) / 2 ^ 13).toNat, r0)

def mlDecompose (r : Nat) : Nat × Int :=
  let r0 := centred (2 * mlGamma2) r
  if (r : Int) - r0 = mlQ - 1 then (0, r0 - 1) else ((((r : Int) - r0) / (2 * mlGamma2 : Nat)).toNat, r0)

def highBits (r : Nat) : Nat := (mlDecompose r).1
def makeHint (z r : Nat) : Bool := highBits r != highBits ((r + z) % mlQ)
def useHint (h : Bool) (r : Nat) : Nat :=
  let (r1, r0) := mlDecompose r
  if !h then r1 else if 0 < r0 then (r1 + 1) % 16 else (r1 + 15) % 16

/-! ## Bytes -/

/-- Numbers of `c` bits packed into bytes, and back. -/
def packBits (c : Nat) (l : List Nat) : List Byte := natBytes (c * l.length / 8) (l.foldr (fun x r => x + 2 ^ c * r) 0)
def unpackBits (c : Nat) (bs : List Byte) : List Nat :=
  let n := bytesToNat bs
  (List.range (8 * bs.length / c)).map fun i => n / 2 ^ (c * i) % 2 ^ c

/-- The hints of all polynomials: the places of the ones, and the count after each polynomial. -/
def packHints (h : List (List Bool)) : List Byte :=
  let ones (w : List Bool) : List Nat := (List.range 256).filter fun j => w.getD j false
  let places := h.flatMap ones
  let ends := (List.range h.length).map fun i => ((h.take (i + 1)).map fun w => (ones w).length).sum
  ((places ++ List.replicate (mlOmega - places.length) 0) ++ ends).map (BitVec.ofNat 8)

def unpackHints (y : List Byte) : Option (List (List Bool)) :=
  let at_ (n : Nat) : Nat := (y.getD n 0).toNat
  let stop (i : Nat) : Nat := at_ (mlOmega + i)
  let first (i : Nat) : Nat := if i = 0 then 0 else stop (i - 1)
  let ok (i : Nat) : Bool := decide (first i ≤ stop i && stop i ≤ mlOmega) &&
    (List.range (stop i)).all fun n => n ≤ first i || decide (at_ (n - 1) < at_ n)
  let rest := (List.range mlOmega).all fun n => n < stop 5 || at_ n == 0
  if !((List.range 6).all ok && rest) then none
  else some ((List.range 6).map fun i => (List.range 256).map fun j =>
    (List.range (stop i)).any fun n => first i ≤ n && at_ n == j)

/-! ## Sampling

What the standard samples by rejection comes from so many bytes of output that more are needed with a probability far below
2^-128; the coefficients that would lack are then 0 (log 6). -/

/-- Consecutive bytes in groups of `n`. -/
def groupsOf (n : Nat) (bs : List Byte) : List (List Byte) := (List.range (bs.length / n)).map fun k => (bs.drop (n * k)).take n

/-- The first 256 of some numbers. -/
def first256 (l : List Nat) : List Nat := (l ++ polyZero).take 256

def rejNttPoly (seed : List Byte) : List Nat :=
  first256 ((groupsOf 3 (shake 168 seed 1176)).filterMap fun b =>
    let n := bytesToNat b % 2 ^ 23
    if n < mlQ then some n else none)

def rejBoundedPoly (seed : List Byte) : List Nat :=
  first256 ((mlH seed 816).flatMap fun b => [b.toNat % 16, b.toNat / 16].filterMap fun n =>
    if n < 9 then some ((mlQ + 4 - n) % mlQ) else none)

def expandA (rho : List Byte) : List (List (List Nat)) :=
  (List.range 6).map fun r => (List.range 5).map fun s => rejNttPoly (rho ++ natBytes 1 s ++ natBytes 1 r)

def expandMask (rho : List Byte) (k : Nat) : List (List Nat) :=
  (List.range 5).map fun r =>
    (unpackBits 20 (mlH (rho ++ natBytes 2 (k + r)) 640)).map fun x => (mlQ + mlGamma1 - x) % mlQ

/-- A polynomial with 49 coefficients that are 1 or -1. -/
def sampleInBall (seed : List Byte) : List Nat :=
  let out := mlH seed 544
  let signs := bytesToNat (out.take 8)
  let r := (List.range 49).foldl (fun (t : List Nat × List Byte) n =>
    let i := 207 + n
    let rest := t.2.dropWhile fun b => i < b.toNat
    let j := (rest.headD 0).toNat
    let c := t.1.set i (t.1.getD j 0)
    (c.set j (if signs.testBit n then mlQ - 1 else 1), rest.drop 1)) (polyZero, out.drop 8)
  r.1

/-! ## Keys, signing, verifying -/

/-- What a 32-byte seed makes: rho, K, s1, s2, the low and the high parts of t. -/
structure MlKey where
  rho : List Byte
  key : List Byte
  s1 : List (List Nat)
  s2 : List (List Nat)
  t0 : List (List Nat)
  t1 : List (List Nat)

def mlKeyGen (seed : List Byte) : MlKey :=
  let h := mlH (seed ++ [6#8, 5#8]) 128
  let rho := h.take 32
  let short (n : Nat) : List Nat := rejBoundedPoly ((h.drop 32).take 64 ++ natBytes 2 n)
  let s1 := (List.range 5).map short
  let s2 := (List.range 6).map fun r => short (5 + r)
  let t := List.zipWith polyAdd ((matVec (expandA rho) (s1.map ntt)).map invNtt) s2
  { rho, key := h.drop 96, s1, s2,
    t0 := t.map fun w => w.map fun c => modQ (power2Round c).2, t1 := t.map fun w => w.map fun c => (power2Round c).1 }

def MlKey.pub (k : MlKey) : List Byte := k.rho ++ k.t1.flatMap (packBits 10)
def mlDsa65Public (seed : List Byte) : List Byte := (mlKeyGen seed).pub

/-- The representative of a message under a public key. -/
def mlMu (pub m : List Byte) : List Byte := mlH (mlH pub 64 ++ [0#8, 0#8] ++ m) 64

def packHigh (w : List (List Nat)) : List Byte := w.flatMap (packBits 4)

/-- One try of the signing loop: the signature, when its parts are small enough. -/
def mlTry (k : MlKey) (a : List (List (List Nat))) (mu rho : List Byte) (kappa : Nat) : Option (List Byte) :=
  let y := expandMask rho kappa
  let w := (matVec a (y.map ntt)).map invNtt
  let tilde := mlH (mu ++ packHigh (w.map fun p => p.map highBits)) 48
  let c := ntt (sampleInBall tilde)
  let byC (l : List (List Nat)) : List (List Nat) := l.map fun p => invNtt (polyMul c (ntt p))
  let z := List.zipWith polyAdd y (byC k.s1)
  let low := List.zipWith polySub w (byC k.s2)
  let ct0 := byC k.t0
  let r0 := low.map fun p => p.map fun x => modQ (mlDecompose x).2
  let h := List.zipWith (fun p q => List.zipWith (fun x t => makeHint ((mlQ - t) % mlQ) ((x + t) % mlQ)) p q) low ct0
  if polysBelow (mlGamma1 - mlBeta) z && polysBelow (mlGamma2 - mlBeta) r0 && polysBelow mlGamma2 ct0 &&
      (h.map fun p => (p.filter id).length).sum ≤ mlOmega then
    some (tilde ++ (z.flatMap fun p => packBits 20 (p.map fun x => (mlQ + mlGamma1 - x) % mlQ)) ++ packHints h)
  else none

/-- The first try, of so many, that gives a signature. -/
def mlLoop (k : MlKey) (a : List (List (List Nat))) (mu rho : List Byte) : Nat → Nat → Option (List Byte)
  | 0, _ => none
  | n + 1, kappa => match mlTry k a mu rho kappa with
    | some sig => some sig
    | none => mlLoop k a mu rho n (kappa + 5)

/-- The signature of a message under the key of a seed, 3,309 bytes; `rnd` are 32 random bytes. 814 tries are the standard's own
bound. -/
def mlDsa65Sign (seed m rnd : List Byte) : List Byte :=
  let k := mlKeyGen seed
  let mu := mlMu k.pub m
  (mlLoop k (expandA k.rho) mu (mlH (k.key ++ rnd ++ mu) 64) 814 0).getD (List.replicate 3309 0)

/-- Does a signature of a message verify under a public key? -/
def mlDsa65Verifies (pub m sig : List Byte) : Bool :=
  let tilde := sig.take 48
  let z := (groupsOf 640 ((sig.drop 48).take 3200)).map fun b => (unpackBits 20 b).map fun x => (mlQ + mlGamma1 - x) % mlQ
  match unpackHints (sig.drop 3248) with
  | none => false
  | some h =>
    let t1 := (groupsOf 320 (pub.drop 32)).map fun b => (unpackBits 10 b).map (· * 2 ^ 13 % mlQ)
    let c := ntt (sampleInBall tilde)
    let az := matVec (expandA (pub.take 32)) (z.map ntt)
    let w := List.zipWith (fun p t => invNtt (polySub p (polyMul c (ntt t)))) az t1
    let w1 := List.zipWith (fun p q => List.zipWith useHint p q) h w
    pub.length == 1952 && sig.length == 3309 && polysBelow (mlGamma1 - mlBeta) z &&
      mlH (mlMu pub m ++ packHigh w1) 48 == tilde

/-! ## The device's keys and manifests -/

/-- SHA-384 of the two identity public keys, in the order in which R398 names them (R399). -/
def identityDigest : BitVec 384 := sha384 (ed25519Public identityEd ++ mlDsa65Public identityMl)

/-- Do the signatures of a manifest verify under keys whose hashes the fuses hold (R397)? The manifest brings the keys; their
hash is SHA-384 (PRESUMED, log 6). -/
def Manifest.edOk (m : Manifest) : Bool :=
  sha384 m.keyEd == Config.fusedKeyHash 0 && ed25519Verifies m.keyEd m.body m.sigEd
def Manifest.mlOk (m : Manifest) : Bool :=
  sha384 m.keyMl == Config.fusedKeyHash 1 && mlDsa65Verifies m.keyMl m.body m.sigMl

end Sys2Proof.Machine
end

