-- ==== Sys2Proof/Machine/Launch.lean ====
section
/-! DEFINITION. Launch records and queues (R358-R361): the check of every writer, LAUNCH and its reservation (R367), the
doorbell (R360, R390), network commands (R395), withdrawal (R369-R371). -/

namespace Sys2Proof.Machine

/-! ## Records -/

/-- The fields of a launch record (R358). -/
def recOf (b : List Byte) : LRec :=
  { handle := bytesNat b 0 2, prio := bytesNat b 2 1, quads := bytesNat b 3 1, flags := bytesNat b 4 1,
    gcount := bytesNat b 5 1, gmember := bytesNat b 6 1, gid := bytesNat b 7 1, key := BitVec.ofNat 64 (bytesNat b 8 8),
    tags := BitVec.ofNat 64 (bytesNat b 16 8), pmask := bytesNat b 24 4,
    vals := (List.range 11).map fun n => BitVec.ofNat 64 (bytesNat b (40 + 8 * n) 8) }

/-- The slots that pmask presets, ascending (R358). -/
def LRec.slots (r : LRec) : List Nat := (List.range 32).filter r.pmask.testBit

def LRec.priv (r : LRec) : Bool := r.flags.testBit 0
def LRec.preempt (r : LRec) : Bool := r.flags.testBit 1
def LRec.excl (r : LRec) : Bool := r.flags.testBit 2

/-- Does a record keep R358, given its image? A lone record has member number 0. -/
def recOk (img : List Word) (r : LRec) (b : List Byte) : Bool :=
  r.prio ≤ 7 && (shapeOf r.quads).isSome && r.flags < 8 && r.gcount ≤ 16 &&
  (if 2 ≤ r.gcount then r.gmember < r.gcount else r.gmember == 0) &&
  r.slots.length ≤ 11 && r.slots.all (· < imgNslots img) && bytesNat b 28 12 == 0 &&
  (r.vals.drop r.slots.length).all (· == 0) && (variantOfCount img r.quads).isSome

/-- The check of R86 on the images of a unit, in member order. -/
def unitOk (imgs : List (List Word)) : Bool :=
  let ents := imgs.flatMap chanList
  ents.all (fun e => match imgs[e.dimage]? with
    | some img => (inList img).contains e.dslot && imgScope img == e.dscope
    | none => false) &&
  (ents.map fun e => (e.dimage, e.dslot)).eraseDups.length == ents.length

/-- Records that a queue's assembly buffer holds for the unit of a record, reserved entries among them (R361). -/
def Queue.unitOf (q : Queue) (r : LRec) : List LRec :=
  (q.asm ++ q.resv.map (·.1)).filter fun o => 2 ≤ o.gcount && o.gid == r.gid && o.key == r.key

/-- The images of the unit that a record completes; `none` while a member is missing. -/
def Part.unitImages (p : Part) (q : Queue) (r : LRec) : Option (List (List Word)) :=
  let held := r :: q.unitOf r
  let ms := if 2 ≤ r.gcount then (List.range r.gcount).map fun m => held.find? (·.gmember == m) else [some r]
  if ms.any (·.isNone) then none
  else some (ms.map fun m => match m with
    | some o => ((p.installed o.handle).map (·.words)).getD []
    | none => [])

def Part.queue (p : Part) (q : Nat) : Queue := p.queues.getD q Queue.reset
def State.setQueue (s : State) (p q : Nat) (v : Queue) : State :=
  s.setPart p { s.part p with queues := (s.part p).queues.set q v }

/-- The check of R360, in its order; the first failure decides. During a partition reset every record gets BAD_QUEUE (R376). -/
def State.recStatus (s : State) (p q : Nat) (mayPriv : Bool) (b : List Byte) : Nat :=
  let r := recOf b
  let v := s.part p
  let qq := v.queue q
  if v.resetBusy then 5
  else match v.installed r.handle with
  | none => 1
  | some im =>
    if !recOk im.words r b then 2
    else if 2 ≤ r.gcount && (qq.unitOf r).any (·.gmember == r.gmember) then 2
    else if ((v.unitImages qq r).map unitOk) = some false then 2
    else if 256 ≤ qq.records.length then 3
    else if r.priv && !mayPriv then 4
    else if !qq.enabled then 5
    else 0

/-- Is a handle marked for release by an instance that has neither committed nor been squashed (R98, R360)? -/
def Part.releasing (p : Part) (h : Nat) : Bool := p.images.any fun m => m.handle == h && m.alloc.isNone && !m.rel.isEmpty

/-- An accepted record enters its queue, or the assembly buffer until its unit is there (R361). -/
def State.enterRec (s : State) (p q : Nat) (r : LRec) : State :=
  let qq := (s.part p).queue q
  if r.gcount < 2 then s.setQueue p q { qq with units := qq.units ++ [⟨[r], s.dcyc⟩] }
  else
    let asm := qq.asm ++ [r]
    let mine := asm.filter fun o => o.gid == r.gid && o.key == r.key
    let ms := (List.range r.gcount).map fun m => mine.find? (·.gmember == m)
    if ms.any (·.isNone) then s.setQueue p q { qq with asm }
    else
      let recs := ms.filterMap id
      s.setQueue p q { qq with asm := asm.filter fun o => !recs.contains o, units := qq.units ++ [⟨recs, s.dcyc⟩] }

/-- The reserved entries of an instance enter as it commits (R367). -/
def State.enterReserved (s : State) (p : Nat) (ref : InstRef) : State :=
  (List.range 16).foldl (fun s q =>
    let qq := (s.part p).queue q
    let mine := qq.resv.filter (·.2 == ref)
    if mine.isEmpty then s
    else
      let s := s.setQueue p q { qq with resv := qq.resv.filter (·.2 != ref) }
      mine.foldl (fun s r => s.enterRec p q r.1) s) s

/-! ## Writers outside the cores -/

/-- A reply to a network command (R395). -/
def State.netReply (s : State) (qp op value : Nat) : State :=
  s.sendNet ⟨qp, 0, 0, 0, natBytes 8 op ++ natBytes 8 value⟩

/-- The answer to a writer: its doorbell status, or a reply on its queue pair. Writers 0-7 are control cores, 8 + n is
queue pair n. -/
def State.answer (s : State) (p q who st : Nat) : State :=
  if 8 ≤ who then s.netReply (who - 8) 1 st
  else
    let qq := (s.part p).queue q
    s.setQueue p q { qq with door := qq.door.set who st }

/-- May a writer queue PRIV records (R360, R390)? -/
def Part.mayPriv (p : Part) (who : Nat) : Bool := who < 8 && bit p.privw who

/-- The check of a record from outside the cores, and its entry. -/
def State.takeRecord (s : State) (p q who : Nat) (b : List Byte) : State :=
  let st := s.recStatus p q ((s.part p).mayPriv who) b
  let s := if st = 0 then s.enterRec p q (recOf b) else s
  s.answer p q who st

/-- A record arrives from outside the cores; its check waits while its handle is marked for release (R360). One for a queue
that does not exist waits with those of queue 15 and is answered as R395 says. -/
def State.ringRecord (s : State) (p q who : Nat) (b : List Byte) : State :=
  if (s.part p).releasing (recOf b).handle then
    let held := min q 15
    let qq := (s.part p).queue held
    let qq := { qq with waiting := qq.waiting ++ [(who, q, b)], door := if who < 8 then qq.door.set who 0xFF else qq.door }
    s.setQueue p held qq
  else s.takeRecord p q who b

/-- Records whose wait is over are checked (R360). -/
def State.wakeQueue (s : State) (p q : Nat) : State :=
  let v := s.part p
  let qq := v.queue q
  let go (e : Nat × Nat × List Byte) : Bool := !v.releasing (recOf e.2.2).handle
  if !qq.waiting.any go then s
  else
    let s := s.setQueue p q { qq with waiting := qq.waiting.filter fun e => !go e }
    (qq.waiting.filter go).foldl (fun s e => s.takeRecord p e.2.1 e.1 e.2.2) s

def State.wakeDoors (s : State) : State :=
  (List.range 8).foldl (fun s p => (List.range 16).foldl (fun s q => s.wakeQueue p q) s) s

/-- The place of a partition's register (R388). -/
def partReg (p off : Nat) : Nat := 0x300001000000 + p * 0x100000 + off

/-- A write that receives an error response is logged with source 5 (R389, R357). -/
def State.refuseWrite (s : State) (p pa : Nat) : State := s.logViolation p ⟨pa, 5, 0xFF, 0, 0, 0⟩

/-- May a control core write a partition's block (R389)? -/
def State.ccOwns (s : State) (cc p : Nat) : Bool := bit (s.part p).owner cc

/-- Q_DOOR (R360, R390): the record at a physical address is read and queued. An address that no record can have is
refused with the write; a record outside the partition is a violation, and the status stays (R357). -/
def execQDoor (cc part q : Nat) (addr : Word) (s : State) : Out :=
  let a := addr.toNat
  let reg := partReg part (0x118 + 0x20 * q)
  if !s.ccOwns cc part || a % 64 ≠ 0 || 2 ^ 52 ≤ a then .next (s.refuseWrite part reg)
  else
    let pas := (List.range 128).map (a + ·)
    match pas.find? fun pa => !s.owned part pa with
    | some pa => .next (s.refuseWrite part pa)
    | none => .next (s.ringRecord part q cc (pas.map (Memory.get s.mem)))

/-! ## Withdrawal -/

/-- One withdrawal (R369, R370): records with the key go, contexts that carry it are marked; the result of R369. A key
of 0 does nothing. -/
def State.withdraw (s : State) (p : Nat) (key : Word) : State × Nat :=
  if key = 0 then (s, 0)
  else
    let v := s.part p
    let hit (r : LRec) : Bool := r.key == key
    let gone (q : Queue) : Nat := ((q.units.flatMap (·.recs) ++ q.asm).filter hit).length
    let clean (q : Queue) : Queue :=
      { q with units := q.units.filter fun u => !u.recs.any hit, asm := q.asm.filter fun r => !hit r }
    let marks (x : Ctx) : Bool := x.phase != .free && x.lau.key == key && x.lau.part == p
    let set (x : Ctx) : Ctx := if marks x then { x with ctl := { x.ctl with cancel := true } } else x
    let marked := (s.cores.map fun k => (k.cxs.filter marks).length).sum + (v.pool.filter fun e => marks e.cx).length
    let s := s.setPart p { v with queues := v.queues.map clean, pool := v.pool.map fun e => { e with cx := set e.cx } }
    let s := { s with cores := s.cores.map fun k => { k with cxs := k.cxs.map set } }
    let areas := (v.pool.filter fun e => marks e.cx).filterMap fun e => e.area[1]?
    let s := areas.foldl (fun s a => s.writeMem (place (a + 24) (natBytes 8 1))) s
    (s, (v.queues.map gone).sum % 2 ^ 32 + marked % 2 ^ 16 * 2 ^ 32)

/-- WITHDRAW (R369): applied once every older instance has committed. -/
def execWithdraw (w : EWord) (s : State) : Out :=
  fireAs s w.pm w.t0 w.t1 leftOnly fun f =>
    match s.keptOf f with
    | some kp => s.emitKept f w.t0 w.t1 kp
    | none =>
      if !s.oldest f then s.hold (.withdraw w) f
      else
        let (s, r) := s.withdraw ((s.partOfCore f.core).getD 0) f.lval.scalar
        (s.keep f [(.data, scNat r)]).emit f w.t0 w.t1 .data (scNat r)

/-- PART_WDRAW (R369, R390). -/
def execPartWdraw (cc part : Nat) (key : Word) (s : State) : Out :=
  if !s.ccOwns cc part then .next (s.refuseWrite part (partReg part 0x40))
  else
    let (s, r) := s.withdraw part key
    let v := s.part part
    .next (s.setPart part { v with wdraw := v.wdraw.set cc (BitVec.ofNat 64 r) })

/-! ## Network commands -/

/-- Does a queue pair carry network commands now (R394, R395)? -/
def QP.commands (q : QP) : Bool := q.command && q.receives

/-- Is a command of the form that R395 gives its op? -/
def netForm (data : List Byte) (n : Nat) : Bool := data.length == n && bytesNat data 2 6 == 0

/-- NET_LAUNCH (R395): as `q.door` in the queue pair's partition; a command that is not of the form of R395 is answered
with status 2. -/
def execNetLaunch (qp : Nat) (data : List Byte) (s : State) : Out :=
  let q := s.qp qp
  if !q.commands || bytesNat data 0 1 ≠ 1 then .next s
  else if !netForm data 136 then .next (s.netReply qp 1 2)
  else .next (s.ringRecord q.part (bytesNat data 1 1) (8 + qp) (data.drop 8))

/-- NET_WITHDRAW (R395). -/
def execNetWithdraw (qp : Nat) (data : List Byte) (s : State) : Out :=
  let q := s.qp qp
  if !q.commands || bytesNat data 0 1 ≠ 2 then .next s
  else if !netForm data 16 then .next (s.netReply qp 2 2)
  else
    let (s, r) := s.withdraw q.part (BitVec.ofNat 64 (bytesNat data 8 8))
    .next (s.netReply qp 2 r)

/-- NET_BAD_OP (R395). -/
def execNetBadOp (qp : Nat) (data : List Byte) (s : State) : Out :=
  let q := s.qp qp
  let op := bytesNat data 0 1
  if !q.commands || op = 1 || op = 2 then .next s else .next (s.netReply qp op 2)

/-! ## LAUNCH -/

/-- LAUNCH fires (R367): the record's read is issued. A FAULT marks the instance. -/
def execLaunch (w : EWord) (s : State) : Out :=
  withSel s fun f =>
    match plan w.pm f [f.l] with
    | .absorb => .next (s.absorb f [f.l])
    | .emit k v => .next ((if k.isFault then s.mark f v else s).emit f w.t0 w.t1 k v)
    | .run =>
      let a := f.lval.scalar.toNat
      let vas := vasIf a 64 128
      if !s.portTakes f || s.walkStalls f.core vas then .next (s.hold (.launch w) f)
      else
        let s := s.fillTlb f.core vas
        match s.check f.core .island a 128 64 with
        | .ok pas => .next (s.addPend ⟨.launch w, f, .load pas [], 0⟩)
        | .error e => .next (s.readFails (.launch w) f 0 e .island)

/-- Must the record of a LAUNCH whose instance has committed still wait, to release what comes before it (R368)? -/
def State.entryWaits (s : State) (f : Firing) : Bool :=
  (s.instOf f).isNone && (s.returnsWait f lastPlace || s.dirtyStalls f.core)

/-- LAUNCH_RESERVE (R367): the read returns; the check and the reservation are one step. The record of an instance that has
committed enters at once, as a release at PKG (R365, R368). -/
def execLaunchReserve (core ctx k : Nat) (s : State) : Out :=
  match (s.cx core ctx).pend[k]? with
  | some q => match q.st, q.i with
    | .load pas _, .launch w =>
      let p := (s.partOfCore core).getD 0
      let b := s.readPas core pas
      let r := recOf b
      if s.heldBack q.f 0 || s.linkDown core pas || (s.part p).releasing r.handle || s.entryWaits q.f then .next s
      else if (pas.find? (s.badIsland core)).isSome then
        if s.portTakes q.f then
          .next ((s.dropPend core ctx k).readFails (.launch w) q.f 0 ⟨7, (pas.find? (s.badIsland core)).getD 0⟩ .island)
        else .next s
      else
        let n := bits w.mods 3 0
        let s := s.dropPend core ctx k
        let st := s.recStatus p n (s.cx core ctx).ctl.priv b
        let qq := (s.part p).queue n
        let s := if st ≠ 0 then s
          else if (s.instOf q.f).isNone then (s.cacheRelease core).enterRec p n r
          else s.setQueue p n { qq with resv := qq.resv ++ [(r, q.f.ref)] }
        .next (s.emit q.f w.t0 w.t1 .data (scNat (st + n * 2 ^ 8)))
    | _, _ => .next s
  | none => .next s

end Sys2Proof.Machine
end

