-- ==== Sys2Proof/Machine/Fabric.lean ====
section
/-! DEFINITION. Steps of the fabric: arrival of a token (R60-R62), a failing word (R108), reconfiguration (R64), the
context switch of an element (R59), MATCH_STALL (R63, R232). -/

namespace Sys2Proof.Machine

/-! ## TOKEN_ARRIVAL -/

/-- Where a flight is bound, as far as the order of R42 goes. -/
def Flight.sameWay (a b : Flight) : Bool :=
  a.src == b.src && match a.dest, b.dest with
    | .pos e _ _, .pos g _ _ => e == g
    | .pos _ _ _, _ | _, .pos _ _ _ => false
    | _, _ => a.ctx == b.ctx

/-- A token reaches a frame-write descriptor or a channel target of its instance (R47, R30); a FAULT marks it. -/
def State.reachInst (s : State) (c : Nat) (fl : Flight) : State :=
  let s := if fl.tok.kind.isFault then s.markInst c fl.ctx fl.hdl fl.seq (fl.tok.val.scalar.toNat % 65536) else s
  s.modInst c fl.ctx fl.hdl fl.seq fun i => match fl.dest with
    | .write k => if i.writes.any (·.1 == k) then i else { i with writes := i.writes ++ [(k, fl.tok)] }
    | .chan ch o =>
      if i.chans.any (fun t => t.1 == ch && t.2.1 == o) then i else { i with chans := i.chans ++ [(ch, o, fl.tok)] }
    | .pos _ _ _ => i

/-- Does a reconfiguration of its element hold a token at the input (R64, log 20)? -/
def State.heldAtInput (s : State) (c : Nat) (fl : Flight) : Bool :=
  match fl.dest with
  | .pos e _ _ => (s.elem c e).reconf.any (·.ctx == fl.ctx)
  | _ => false

/-- Does an earlier token of the same way go first (R42)? One of another context that a reconfiguration holds at the
element's input has arrived there and holds nothing up (R64). -/
def State.goesFirst (s : State) (c : Nat) (g fl : Flight) : Bool :=
  g.sameWay fl && (g.ctx == fl.ctx || !s.heldAtInput c g)

/-- TOKEN_ARRIVAL (R60): a token that has left its output slot arrives; those of one way arrive in order (R42); one of a
context that is being reconfigured on the element is held at its input (R64); the panel's limiter holds tokens from
outside (R244). -/
def execTokenArrival (core k : Nat) (s : State) : Out :=
  let c := s.core core
  match c.fabric[k]? with
  | none => .next s
  | some fl =>
    let outside := fl.outside
    if fl.out.isSome || (c.fabric.take k).any (s.goesFirst core · fl) || (outside && !(s.cx core fl.ctx).rateOk) then
      .next s
    else
      let t := if outside then s.rateTake core fl.ctx else s
      let t := t.noteLive core fl.ctx
      let t := t.setCore core { t.core core with fabric := c.fabric.eraseIdx k }
      match fl.dest with
      | .pos e slot p =>
        if s.heldAtInput core fl then .next s
        else match t.enterElem core e ⟨fl.ctx, slot, p, fl.tok, fl.hdl, fl.seq, 0, none, false⟩ with
          | some t => .next (t.retireValues core fl.ctx)
          | none => .next s
      | _ => .next ((t.reachInst core fl).retireValues core fl.ctx)

/-! ## ILLEGAL -/

/-- ILLEGAL (R108): a token has reached a word that fails R107. The instance gets one ILLEGAL record; each target that
passes R69 and R70 gets FAULT, and none in an X-format word does; without one the instance is marked. -/
def execIllegal (word : Word) (s : State) : Out :=
  withSel s fun f =>
    match s.instOf f with
    | none => .next s
    | some i =>
      let img := s.imageOf f
      let b := blkAt img i.blk
      let (s, num) := s.ctxFault f 8 48 word
      let ok (code : Nat) : Option Target :=
        if code ≠ 0x1FF && (xBuild (wordOp word)).isNone && targetR70 img b code then Target.ofCode? code else none
      let t0 := (ok (bits word 52 44)).getD .none
      let t1 := (ok (bits word 43 35)).getD .none
      .next (s.emit f t0 t1 .fault (faultVal num))

/-! ## Reconfiguration -/

/-- The element's page of a context with some words replaced. -/
def Elem.patch (e : Elem) (r : Reconf) : Elem :=
  { e with pages := e.pages.modify r.ctx fun pg => r.words.foldl (fun pg w => pg.set w.1 w.2) pg,
           blks := match r.blk with
             | some b => e.blks.set r.ctx b
             | none => e.blks }

/-- RECONFIGURATION (R64): the token takes effect once the context's entries on the element have drained. -/
def execReconfiguration (core elem k : Nat) (s : State) : Out :=
  let el := s.elem core elem
  match el.reconf[k]? with
  | none => .next s
  | some r =>
    if (el.reconf.take k).any (·.ctx == r.ctx) || el.all.any (·.ctx == r.ctx) then .next s
    else .next (s.setElem core elem { el.patch r with reconf := el.reconf.eraseIdx k })

/-- A reconfiguration token waits on an element (R64). -/
def State.addReconf (s : State) (c e : Nat) (r : Reconf) : State :=
  let el := s.elem c e
  s.setElem c e { el with reconf := el.reconf ++ [r] }

/-- The place of a core's management registers (R388). -/
def coreReg (c off : Nat) : Nat := 0x300002000000 + c * 0x10000 + off

/-- May a control core write the block of a core (R389)? Of a core in no partition, any may. -/
def State.ccOwnsCore (s : State) (cc c : Nat) : Bool :=
  match s.partOfCore c with
  | some p => s.ccOwns cc p
  | none => true

/-- MANAGEMENT_PAGE_WRITE (R108): a reconfiguration token of one word. It is on the element at once: R64 has the
configuration network wait for the instances that use the words, and the spec does not say whether a management write does
(DESIGN CHOICE, log 103). -/
def execManagementPageWrite (cc core elem ctx slot : Nat) (word : Word) (s : State) : Out :=
  if !s.ccOwnsCore cc core then .next (s.refuseWrite ((s.partOfCore core).getD 0) (coreReg core (0x1000 * ctx)))
  else .next (s.addReconf core elem ⟨ctx, [(slot, word)], none⟩)

/-! ## ELEMENT_CONTEXT_SWITCH -/

/-- ELEMENT_CONTEXT_SWITCH (R59). -/
def execElementContextSwitch (core elem : Nat) (s : State) : Out :=
  let el := s.elem core elem
  match s.othersReady core elem with
  | [] => .next s
  | x :: _ =>
    if (s.readyOn core el.present elem).isEmpty || 256 ≤ el.run then
      .next (s.setElem core elem { el with present := x, run := 0 })
    else .next s

/-! ## MATCH_STALL -/

/-- MATCH_STALL against a context (R63): the oldest in-flight instance of the strand that it is running is marked, with a
record of the stalled token. -/
def State.matchStall (s : State) (c x : Nat) (tag : Word) (index : Nat) : State :=
  let v := s.cx c x
  let hdl := v.ctl.inHandler
  match (v.strand hdl).head? with
  | none => s
  | some i =>
    let f : Firing := ⟨c, 0, x, hdl, i.seq, index, tag, i.blk, none, none, none⟩
    let (s, num) := s.ctxFault f 11 50 0
    s.markInst c x hdl i.seq num

/-- What waits longest in the tile matching store: its tag and context (R232). -/
def Core.firstTile (k : Core) : Option (Nat × Word × Nat × Nat) :=
  let waits := k.cmds.filterMap fun m =>
    if m.port == 32 && isMat m.i && m.st == .accepted && m.ord == 0 then some (m.gseq, m.f.tag, m.f.ctx, m.f.idx) else none
  let all := waits ++ k.scales.map fun t => (t.1, t.2.tag, bits t.2.tag 63 61, 0)
  all.foldl (fun b t => match b with
    | none => some t
    | some u => if t.1 < u.1 then some t else some u) none

/-- MATCH_STALL (R63, R232): the count has reached 2^16. Element 64 is the tile matching store. -/
def execMatchStall (core elem : Nat) (s : State) : Out :=
  if elem = 64 then
    let k := s.core core
    if k.matStall < 65536 then .next s
    else match k.firstTile with
      | none => .next s
      | some (_, tag, x, idx) => .next ((s.setCore core { k with matStall := 0 }).matchStall core x tag idx)
  else
    let el := s.elem core elem
    if el.stall < 65536 then .next s
    else match firstEnt el.all with
      | none => .next s
      | some e =>
        .next ((s.setElem core elem { el with stall := 0 }).matchStall core e.ctx e.tok.tag (32 * posOf elem + e.slot))

end Sys2Proof.Machine
end

