-- ==== Sys2Proof/Machine/Strand.lean ====
section
/-! DEFINITION. Steps of a strand: block fetch (R44, R50), the bobbin (R38, R39), frame and channel reads (R52, R53),
commit (R47, R48) and trap (R49, R344). -/

namespace Sys2Proof.Machine

/-! ## BLOCK_FETCH -/

/-- A firing that stands for a whole instance. -/
def instFiring (c x : Nat) (i : Inst) : Firing := ⟨c, 0, x, i.hdl, i.seq, 0, i.tag, i.blk, none, none, none⟩

/-- What block fetch would fetch for a context: the strand, or the handler strand while its handler runs (R345). The
window has room, the quad holds the block or nothing in flight uses it, and no take-in or save is pending (R44, R50,
R129, R351). -/
def State.fetchable (s : State) (c x : Nat) : Option Want :=
  let v := s.cx c x
  let hdl := v.ctl.inHandler
  match (if hdl then v.hWant else v.want) with
  | none => none
  | some w =>
    let q := v.quadOfBlock w.blk
    let busy := (v.insts ++ v.hInsts).any fun i => i.blk != w.blk && v.quadOfBlock i.blk == q
    if v.phase = .running && v.takeIn.isNone && (v.strand hdl).length < 8 && !busy then some w else none

/-- Reconfiguration tokens that put a block on a quad: one for each element that the block uses (R41, R44, R64). -/
def State.loadBlock (s : State) (c x quad b : Nat) : State :=
  let img := (s.cx c x).lau.image
  (List.range (((blkAt img b).icount + 31) / 32)).foldl (fun s p =>
    s.addReconf c (elemAt quad p) ⟨x, (blockPage img b p).mapIdx fun n w => (n, w), some b⟩) s

/-- An instance at its fetch. -/
def newInst (hdl : Bool) (w : Want) : Inst :=
  { seq := w.seq, hdl, blk := w.blk, tag := w.tag, links := w.links, marked := none, reads := [], writes := [],
    chans := [], counted := 0, fired := [], acq := [], stores := [], post := [], exit := none, begun := false }

/-- The instance that a context wants is in flight (R50). -/
def State.fetch (s : State) (c x : Nat) (w : Want) : State :=
  let v := s.cx c x
  let hdl := v.ctl.inHandler
  let q := v.quadOfBlock w.blk
  let onQuad := (v.held.find? (·.1 == q)).map (·.2)
  let s := if onQuad = some w.blk then s else s.loadBlock c x q w.blk
  let v := s.cx c x
  let held := (q, w.blk) :: v.held.filter (·.1 != q)
  let i := newInst hdl w
  let v := if hdl then { v with held, hInsts := v.hInsts ++ [i], hWant := none, hNext := w.seq + 1 }
    else { v with held, insts := v.insts ++ [i], want := none, nextSeq := w.seq + 1 }
  let s := s.setCx c x v
  s.setCore c { s.core c with fetchLast := x }

/-- BLOCK_FETCH (R50, R373): the contexts take turns. -/
def execBlockFetch (core : Nat) (s : State) : Out :=
  let from_ := (s.core core).fetchLast
  match ((List.range 8).map fun k => (from_ + 1 + k) % 8).findSome? fun x => (s.fetchable core x).map fun w => (x, w) with
  | some (x, w) => .next (s.fetch core x w)
  | none => .next s

/-! ## The bobbin -/

/-- The instance of a context whose exit waits for an allocation, and the field (R38). -/
def Ctx.waiter (v : Ctx) : Option (Inst × Exit × Nat) :=
  (v.insts ++ v.hInsts).findSome? fun i => match i.exit with
    | some e => match e.alloc with
      | some fld => if e.done then none else some (i, e, fld)
      | none => none
    | none => none

/-- BOBBIN_ALLOCATION (R38): the exit completes. -/
def execBobbinAllocation (core ctx : Nat) (s : State) : Out :=
  match (s.cx core ctx).waiter with
  | none => .next s
  | some (i, e, fld) =>
    if s.throttles core ctx fld then .next s
    else
      let f := instFiring core ctx i
      let (s, n) := s.bobAlloc core ctx fld
      let e := { e with done := true, alloc := none, tag := setTagField (s.imageOf f) e.tag fld n }
      .next ((s.setExit f e).wantNext f e)

/-- TAG_EXHAUST (R39): the throttle has lasted 2^16 cycles. -/
def execTagExhaust (core ctx : Nat) (s : State) : Out :=
  match (s.cx core ctx).waiter with
  | none => .next s
  | some (i, e, fld) =>
    if (s.cx core ctx).bobWait < 65536 then .next s
    else
      let f := { instFiring core ctx i with idx := e.idx }
      let (s, num) := s.ctxFault f 10 49 (BitVec.ofNat 64 fld)
      let s := s.setExit f { e with alloc := none }
      let v := s.cx core ctx
      .next ((s.setCx core ctx { v with bobWait := 0 }).mark f (faultVal num))

/-! ## Frame and channel reads -/

/-- A slot as a present token: its kind and the value bytes that FRAME holds (R51, R56). -/
def State.slotTok (s : State) (c x n : Nat) : Option (Kind × Val) :=
  let v := s.cx c x
  match v.slots[n]? with
  | none => none
  | some st =>
    if !st.present then none
    else
      let a := frameAddr c (v.fp + 64 * n)
      some (st.kind, if st.vec then .vec (BitVec.ofNat 512 (bytesToNat (Memory.read s.mem a 64)))
        else .sc (BitVec.ofNat 64 (bytesToNat (Memory.read s.mem a 8))))

/-- What the older in-flight instances make of an ordinary slot (R52). -/
inductive SlotSeen where
  | frame
  | absent
  | wait
  | token (k : Kind) (v : Val)
  deriving DecidableEq, Repr

/-- Does a block read a slot with a last-read mark? -/
def readsLast (img : List Word) (b : Blk) (n : Nat) : Bool := (rdDescs img b).any fun d => d.slot == n && d.last

/-- R52 over the older instances, youngest first: a write token that is not NULL decides; a NULL leaves what comes before;
a last-read mark leaves nothing. -/
def slotSeen (img : List Word) (n : Nat) : List Inst → SlotSeen
  | [] => .frame
  | i :: rest =>
    let b := blkAt img i.blk
    let before : SlotSeen := if readsLast img b n then .absent else slotSeen img n rest
    if (wrSlots img b).contains n then
      match i.writes.find? fun w => wrRaw img b w.1 % 256 == n with
      | none => .wait
      | some (_, t) => match t.kind with
        | .fault => .wait
        | .null => before
        | k => .token k t.val
    else before

/-- The token of a frame read of an ordinary slot by an instance, once its outcome is fixed (R52). The frame writes of an older
instance whose commit has begun are made (R48). -/
def State.frameRead (s : State) (c x : Nat) (i : Inst) (n : Nat) : Option (Kind × Val) :=
  let v := s.cx c x
  let older := (v.strand i.hdl).filter fun o => o.seq < i.seq && !o.begun
  match slotSeen v.lau.image n older.reverse with
  | .token k val => some (k, val)
  | .wait => none
  | .absent => if older.isEmpty then s.slotTok c x n else none
  | .frame => match s.slotTok c x n with
    | some t => some t
    | none => none

/-- The token of a read of a channel-bound slot (R53): entry k of the FIFO, k being the number of older in-flight
instances that read the slot with a last-read mark. -/
def State.chanRead (s : State) (c x : Nat) (i : Inst) (n : Nat) : Option (Kind × Val) :=
  let v := s.cx c x
  let img := v.lau.image
  let k := ((v.strand i.hdl).filter fun o => o.seq < i.seq && readsLast img (blkAt img o.blk) n).length
  match v.fifo n with
  | none => none
  | some q => s.fifoGet c q k

/-- A read descriptor sends its token to one target; `order` places a channel token in the order of R48. -/
def State.readSend (s : State) (c x : Nat) (i : Inst) (t : Target) (order : Nat) (k : Kind) (v : Val) : State :=
  let e := elemAt ((s.cx c x).quadOfBlock i.blk) 0
  match destOf e 0 t 0 with
  | none => s
  | some (.chan ch _) => s.addFlight c ⟨srcFrame, x, i.hdl, i.seq, .chan ch order, ⟨i.tag, k, v⟩, none⟩
  | some d => s.addFlight c ⟨srcFrame, x, i.hdl, i.seq, d, ⟨i.tag, k, v⟩, none⟩

/-- Descriptor `d` of an instance has its token: it goes to the two targets. -/
def State.readDone (s : State) (c x : Nat) (i : Inst) (d : Nat) (k : Kind) (v : Val) : State :=
  let img := (s.cx c x).lau.image
  let r := rdDesc img (blkAt img i.blk) d
  let s := s.readSend c x i r.t0 (2 * d) k v
  let s := s.readSend c x i r.t1 (2 * d + 1) k v
  s.modInst c x i.hdl i.seq fun i => { i with reads := d :: i.reads }

/-- Does a read of a channel-bound slot act on CACHE, being an acquire at DIE or wider (R156, R320, R333)? -/
def State.slotAcquires (s : State) (c x : Nat) (r : RdDesc) : Bool :=
  (s.cx c x).readAcquires r && ((s.cx c x).fifo r.slot).any fun q => wideScope q.scope

/-- One read descriptor of an instance, when its token is there. -/
def State.tryRead (s : State) (c x : Nat) (i : Inst) (d : Nat) : State :=
  let img := (s.cx c x).lau.image
  let b := blkAt img i.blk
  if b.nreads ≤ d || i.reads.contains d then s
  else
    let r := rdDesc img b d
    if (inList img).contains r.slot then
      match s.chanRead c x i r.slot with
      | none => s
      | some (k, v) =>
        let s := if s.slotAcquires c x r then s.cacheAcquire c else s
        s.readDone c x i d k v
    else match s.frameRead c x i r.slot with
      | none => s
      | some (k, v) => s.readDone c x i d k v

/-- Is descriptor `d` of an instance one of a channel-bound slot? -/
def State.readsChan (s : State) (c x : Nat) (i : Inst) (d : Nat) : Bool :=
  let img := (s.cx c x).lau.image
  (inList img).contains (rdDesc img (blkAt img i.blk) d).slot

/-- FRAME_READ (R52): descriptor `d` of the `n`-th instance in flight, the handler strand's after the strand's. -/
def execFrameRead (core ctx n d : Nat) (s : State) : Out :=
  let v := s.cx core ctx
  match (v.insts ++ v.hInsts)[n]? with
  | some i => if s.readsChan core ctx i d then .next s else .next (s.tryRead core ctx i d)
  | none => .next s

/-- CHANNEL_SLOT_READ (R53). -/
def execChannelSlotRead (core ctx n d : Nat) (s : State) : Out :=
  let v := s.cx core ctx
  match (v.insts ++ v.hInsts)[n]? with
  | some i => if s.readsChan core ctx i d then .next (s.tryRead core ctx i d) else .next s
  | none => .next s

/-! ## INSTANCE_COMMIT -/

/-- Operations that return a token as loads and atomics do (R47 condition 6; SPACC by R261), and those whose register write
is due at commit (R273). -/
def holdsCommit (i : Instr) : Bool :=
  reads i || match i with
  | .xlat _ | .launch _ | .pfxcmp _ | .gath _ | .spacc _ => true
  | _ => false

def isGath (i : Instr) : Bool :=
  match i with
  | .gath _ => true
  | _ => false

/-- Does a queue hold a record that an instance reserved and that enters at its commit (R367)? -/
def State.reserves (s : State) (ref : InstRef) : Bool := s.parts.any fun p => p.queues.any fun q => q.resv.any (·.2 == ref)

/-- Entries that an instance sends to each of its channels: all but NULL. -/
def Inst.sends (i : Inst) : List (Nat × Nat × Tok) := i.chans.filter fun t => t.2.2.kind != .null

/-- The conditions of R47 for the oldest instance of a strand. -/
def State.commits (s : State) (c x : Nat) (i : Inst) : Bool :=
  let v := s.cx c x
  let img := v.lau.image
  let b := blkAt img i.blk
  let exitDone := match i.exit with
    | some e => e.done
    | none => false
  let room := i.sends.all fun t => (i.sends.filter fun u => u.1 == t.1).length ≤ s.chanRoom c x t.1
  exitDone && i.marked.isNone &&
  (List.range 32).all (fun k => !b.smask.testBit k || i.counted.toNat.testBit k) &&
  b.nwrites ≤ i.writes.length && b.nchan ≤ i.chans.length && room &&
  !(v.pend.any fun q => q.f.hdl == i.hdl && q.f.seq == i.seq && holdsCommit q.i) &&
  !((s.core c).cmds.any fun m => m.f.ctx == x && m.f.hdl == i.hdl && m.f.seq == i.seq && isGath m.i &&
    m.st != .finished && !m.orphan)

/-- A frame slot takes a token (R48 step 2). -/
def State.setSlot (s : State) (c x n : Nat) (k : Kind) (val : Val) : State :=
  let v := s.cx c x
  let bytes := place (frameAddr c (v.fp + 64 * n)) (natBytes (if val.isVec then 64 else 8) val.wide)
  let s := s.setCx c x { v with slots := v.slots.set n ⟨true, k, val.isVec⟩ }
  { s with mem := Memory.putAll s.mem bytes }

/-- R48 step 1: slots read with a last-read mark are freed. -/
def State.freeSlots (s : State) (c x : Nat) (img : List Word) (b : Blk) : State :=
  let v := s.cx c x
  let gone := ((rdDescs img b).filter fun d => d.last && !(inList img).contains d.slot).map (·.slot)
  s.setCx c x { v with slots := gone.foldl (fun l n => l.modify n fun st => { st with present := false }) v.slots }

/-- R48 step 2: the frame writes other than NULL. -/
def State.writeSlots (s : State) (c x : Nat) (img : List Word) (b : Blk) (i : Inst) : State :=
  i.writes.foldl (fun s w =>
    if w.2.kind = .null then s else s.setSlot c x (wrRaw img b w.1 % 256) w.2.kind w.2.val) s

/-- A firing that stands for everything in an instance, so that nothing of the instance is left out of what is looked at. -/
def wholeFiring (c x : Nat) (i : Inst) : Firing := { instFiring c x i with idx := 1000 }

/-- What the commit of an instance makes visible, in LSID order (R48 step 3): its buffered stores, and the release parts of
FENCEs that have not fired yet (R155). -/
def State.commitStores (s : State) (c x : Nat) (i : Inst) : List BStore :=
  let f := wholeFiring c x i
  let come := (s.fencesToCome f i).map fun g : Nat × Scope =>
    ({ idx := 1000, lsid := g.1, bytes := [], zero := [], copySrc := [], copyDst := [], scope := g.2, rel := true,
       fence := true, shown := false } : BStore)
  let all := i.stores.filter (!·.shown) ++ come
  (List.range 32).flatMap fun k => all.filter (·.lsid == k)

/-- May the next store of a committing instance become visible: every acquire before it has been performed (R149, R155), for a
release every load and atomic before it too (R148), and no failed link lies between (R396)? -/
def State.mayShow (s : State) (f : Firing) (b : BStore) : Bool :=
  !s.acquiresToCome f (b.lsid + 1) && !(b.rel && s.returnsWait f (b.lsid + 1)) &&
  !s.linkDown f.core (b.bytes.map (·.1)) && !(b.rel && wideScope b.scope.code && s.dirtyStalls f.core)

/-- Stores become visible one after the other, as long as the next one may; the others are left. -/
def State.showAll (s : State) (f : Firing) : List BStore → State × List BStore
  | [] => (s, [])
  | b :: l => if s.mayShow f b then (s.showBytes f b fun _ => true).showAll f l else (s, b :: l)

/-- R48 step 4: the channel entries leave in order, each a release at its channel's scope (R333). -/
def State.sendEntries (s : State) (c x : Nat) (img : List Word) (i : Inst) : State :=
  let out := (List.range 1258).flatMap fun o => i.sends.filter fun t => t.2.1 == o
  let wide := out.any fun t => match chanFind img t.1 with
    | some e => wideScope (chanScope img e)
    | none => false
  let s := if wide then s.cacheRelease c else s
  out.foldl (fun s t => s.chanSend c x t.1 t.2.2.kind t.2.2.val) s

/-- R48 step 5: each channel-bound slot read with a last-read mark gives up its head entry, once however many reads of
the instance carry the mark. -/
def State.dropEntries (s : State) (c x : Nat) (img : List Word) (b : Blk) : State :=
  (((rdDescs img b).filter fun d => d.last && (inList img).contains d.slot).map (·.slot)).eraseDups.foldl
    (fun s n => s.fifoDrop c x n) s

/-- Does something of a committed instance remain: a token in a store or the fabric, an operation, a command? -/
def State.remains (s : State) (c x : Nat) (i : Inst) : Bool :=
  let k := s.core c
  k.elems.any (fun e => e.all.any fun t => t.ctx == x && t.hdl == i.hdl && (t.own == i.seq || t.tok.tag == i.tag)) ||
  k.fabric.any (fun fl => fl.ctx == x && fl.hdl == i.hdl && (fl.seq == i.seq || fl.tok.tag == i.tag)) ||
  (s.cx c x).pend.any (fun q => q.f.hdl == i.hdl && q.f.seq == i.seq) ||
  k.cmds.any fun m => m.f.ctx == x && m.f.hdl == i.hdl && m.f.seq == i.seq && m.st != .finished

/-- R48 step 6: the instance leaves the window. What is left of it can still fire (R57). -/
def State.leave (s : State) (c x : Nat) (i : Inst) : State :=
  let v := s.cx c x
  let v := v.setStrand i.hdl ((v.strand i.hdl).filter (·.seq != i.seq))
  let v : Ctx := { v with
    kept := v.kept.filter fun k => !(k.hdl == i.hdl && k.seq == i.seq),
    groups := v.groups.map fun (g : Group) =>
      if g.hdl == i.hdl then { g with passed := g.passed.filter (·.1 != i.seq) } else g,
    left := (v.left ++ [{ i with stores := [], post := i.post.filter (· == Post.specfb), writes := [], chans := [] }]).filter (s.remains c x ·) }
  let past := v.past.filter fun (e : Past) => (v.left ++ v.strand e.hdl).any fun j => j.hdl == e.hdl && j.seq ≤ e.hi.1
  s.setCx c x { v with past }

/-- Handles that an instance installed or released take effect (R95, R98); records it reserved enter, as a release at PKG
(R365, R367, R368). -/
def State.commitImages (s : State) (ref : InstRef) : State :=
  match s.partOfCore ref.core with
  | none => s
  | some p =>
    let v := s.part p
    let images := (v.images.filter fun m => !m.rel.contains ref).map fun m => if m.alloc = some ref then { m with alloc := none } else m
    (s.setPart p { v with images }).enterReserved p ref

/-- What the exit of a committed instance does to the context: the return of ERET (R347), the end of HALT (R132). -/
def State.commitExit (s : State) (c x : Nat) (e : Exit) : State :=
  match e.eret with
  | some skip => s.eret c x skip
  | none =>
    if e.halt then
      let v := s.cx c x
      s.setCx c x { v with phase := .halting, want := none, hWant := none }
    else s

/-- The commit of an instance begins: reads whose outcome is fixed are delivered, slots are freed and written (R48 steps 1 and
2), and what becomes visible is settled, the bytes that a LOGREC copies before its record (R280). -/
def State.begin_ (s : State) (c x : Nat) (i : Inst) : State :=
  let img := (s.cx c x).lau.image
  let b := blkAt img i.blk
  let s := (List.range b.nreads).foldl (fun s d => s.tryRead c x i d) s
  let s := (s.freeSlots c x img b).writeSlots c x img b i
  let stores := (s.commitStores c x i).flatMap (s.unfold (wholeFiring c x i))
  s.modInst c x i.hdl i.seq fun j => { j with stores, begun := true }

/-- Does the end of a commit release what came before: it sends an entry, or a record that the instance reserved enters (R333,
R365, R368)? -/
def State.endReleases (s : State) (c x : Nat) (i : Inst) : Bool :=
  !i.sends.isEmpty || s.reserves ⟨c, x, i.hdl, i.seq⟩

/-- May a commit of which every store is visible end: what it releases has returned, and CACHE can be written back (R333, R368,
R396)? -/
def State.mayEnd (s : State) (c x : Nat) (i : Inst) : Bool :=
  !s.endReleases c x i || (!s.returnsWait (wholeFiring c x i) lastPlace && !s.dirtyStalls c)

/-- R48 steps 4 to 6, and what takes effect with the commit. -/
def State.endCommit (s : State) (c x : Nat) (i : Inst) : State :=
  let img := (s.cx c x).lau.image
  let b := blkAt img i.blk
  let s := (s.sendEntries c x img i).dropEntries c x img b
  let s := s.leave c x i
  let s := i.post.foldl (fun s p => s.applyPost c x p) s
  let s := (if s.reserves ⟨c, x, i.hdl, i.seq⟩ then s.cacheRelease c else s).commitImages ⟨c, x, i.hdl, i.seq⟩
  let s := match i.exit with
    | some e => s.commitExit c x e
    | none => s
  (s.retireValues c x).wakeDoors

/-- A commit that has begun goes on: its stores become visible as far as they may (R48 step 3), and it ends when all are. -/
def State.goOn (s : State) (c x : Nat) (i : Inst) : State :=
  let t := s.showAll (wholeFiring c x i) i.stores
  let s := t.1.modInst c x i.hdl i.seq fun j => { j with stores := t.2 }
  if t.2.isEmpty && s.mayEnd c x i then s.endCommit c x i else s

/-- The instance in flight of a context's strand with a sequence number, and `i` when there is none. -/
def State.now (s : State) (c x : Nat) (i : Inst) : Inst := ((s.cx c x).inst i.hdl i.seq).getD i

/-- The effects of a commit, in the order of R48. It is one step but for stores that must still wait for accesses before them
(R148, R149) or for a failed link (R396): then the instance stays the oldest with its commit begun (DESIGN CHOICE, log 7). -/
def State.commit (s : State) (c x : Nat) (i : Inst) : State :=
  let s := if i.begun then s else s.begin_ c x i
  s.goOn c x (s.now c x i)

/-- What a commit that has begun has still to do is done at once, whatever it waits for: its context is killed (R372). -/
def State.forceCommit (s : State) (c x : Nat) : State :=
  (([false, true].filterMap fun h => ((s.cx c x).strand h).head?).filter (·.begun)).foldl (fun s i =>
    (i.stores.foldl (fun s b => s.showBytes (wholeFiring c x i) b fun _ => true) s).endCommit c x { i with stores := [] }) s

/-- An ERET outside a handler takes effect when its instance would commit: an ILLEGAL fault, whose record's detail is 0
(R339), marks the instance (R347). -/
def State.eretOutside (s : State) (c x : Nat) (i : Inst) (e : Exit) : State :=
  let f := { instFiring c x i with idx := e.idx }
  let (s, num) := s.ctxFault f 8 48 0
  s.mark f (faultVal num)

/-- The exit of an instance that is an ERET in a strand that is no handler's (R347). -/
def Inst.strayEret (i : Inst) : Option Exit := if i.hdl then none else i.exit.filter (·.eret.isSome)

/-- The instance of a context that commits now: the oldest of its strand, whose commit has begun or whose conditions hold. A
failed context begins no commit (R346). -/
def State.committing (s : State) (c x : Nat) : Option Inst :=
  let v := s.cx c x
  ((v.strand v.ctl.inHandler).head?).filter fun i => i.begun || (v.phase == .running && s.commits c x i)

/-- INSTANCE_COMMIT (R47, R48). -/
def execInstanceCommit (core ctx : Nat) (s : State) : Out :=
  match s.committing core ctx with
  | some i => match i.strayEret with
    | some e => .next (s.eretOutside core ctx i e)
    | none => .next (s.commit core ctx i)
  | none => .next s

/-- The move `reveal`: the granule of the `g`-th byte of the next store of a committing instance becomes visible (R326). -/
def State.reveal (s : State) (c x g : Nat) : State :=
  match (s.committing c x).filter (·.strayEret.isNone) with
  | none => s
  | some i =>
    let s := if i.begun then s else s.begin_ c x i
    let i := s.now c x i
    let f := wholeFiring c x i
    match i.stores with
    | [] => s
    | b :: l =>
      if !s.mayShow f b then s
      else
        let p (pa : Nat) : Bool := match b.bytes[g]? with
          | some y => y.1 / 16 == pa / 16
          | none => true
        let rest := b.less p
        (s.showBytes f b p).modInst c x i.hdl i.seq fun j =>
          { j with stores := if rest.shown then l else rest :: l }

/-- INSTANCE_TRAP (R49, R344). -/
def execInstanceTrap (core ctx : Nat) (s : State) : Out :=
  let v := s.cx core ctx
  match v.insts.head? with
  | some i =>
    if v.phase = .running && i.marked.isSome then .next (((s.trap core ctx i).retireValues core ctx).wakeDoors)
    else .next s
  | none => .next s

end Sys2Proof.Machine
end

