-- ==== Sys2Proof/Machine/Ending.lean ====
section
/-! DEFINITION. How contexts end: CONTEXT_END (R132), kill (R372), partition reset (R376). -/

namespace Sys2Proof.Machine

/-- Commands of a context that ends: those that are still running go on without it, frozen ones are discarded. -/
def State.orphanCmds (s : State) (c x : Nat) : State :=
  let k := s.core c
  s.setCore c { k with
    cmds := (k.cmds.filter fun m => !(m.f.ctx == x && m.frozen)).map fun m =>
      if m.f.ctx == x then { m with ctag := none, ctc := none, orphan := true, f := { m.f with ctx := homeless } } else m }

/-! ## Kill -/

def isColl (i : Instr) : Bool :=
  match i with
  | .coll _ => true
  | _ => false

def isIntsect (i : Instr) : Bool :=
  match i with
  | .intsect _ => true
  | _ => false

/-- The network commands of a context complete with status 4, one after the other (R372, R394). -/
def State.flushNet (s : State) (c : Nat) (p : Cmd → Bool) : Nat → State
  | 0 => s
  | n + 1 =>
    match (s.core c).cmds.findIdx? fun m => isNet m.i && p m with
    | none => s
    | some k => match s.cmd? c k with
      | some m => ((s.endWrites c m.ord m.scope).netDone c k m 0 4).flushNet c p n
      | none => s

/-- The scale tokens of a killed context that are under way reach the island, and their SCLDs complete; a token that no MMAS
waits for is discarded, and so is an MMAS that no token will come for, which never becomes complete (R232, R372; DEDUCED, log
116). -/
def State.endScales (s : State) (c x : Nat) : State :=
  let k := s.core c
  let mine := k.scaleFlights.filter fun t => t.2.f.ctx == x
  let k := { k with scaleFlights := k.scaleFlights.filter fun t => t.2.f.ctx != x,
                    scales := k.scales ++ mine.mapIdx (fun n t => (k.ordLast + 1 + n, t.1)),
                    ordLast := k.ordLast + mine.length }
  let k := mine.foldl (fun k t => Core.matPair k t.1.tag) k
  let wants (m : Cmd) : Bool := m.port == 32 && m.ord == 0 && m.f.ctx == x && match m.i with
    | .mmas _ => true
    | _ => false
  let fed := k.scales.map (·.2.tag)
  let cmds := k.cmds.filter fun m => !(wants m && !fed.contains m.f.tag)
  let held (t : Tok) : Bool := bits t.tag 63 61 != x || cmds.any fun m => wants m && m.f.tag == t.tag
  let k := { k with cmds, scales := k.scales.filter fun t => held t.2 }
  (mine.foldl (fun s t => s.complete c t.2 .none) (s.setCore c k)).matEnter c

/-- Writes of commands that are taken away reach their coherence points. -/
def State.endWritesOf (s : State) (c : Nat) (p : Cmd → Bool) : State :=
  ((s.core c).cmds.filter fun m => p m && m.ord != 0).foldl (fun s m => s.endWrites c m.ord 4) s

/-- A resident context is killed (R372): fetch stops, a commit that has begun ends, its instances are squashed without a trap,
its records released (a fault register that names a REPAIR record keeps it, R341), its tokens discarded; issued commands run
on, but for the three exceptions. -/
def State.kill (s : State) (c x : Nat) : State :=
  let s := s.forceCommit c x
  let s := (s.squash c x false fun _ => true).squash c x true fun _ => true
  let s := s.endScales c x
  let s := s.flushNet c (fun m => m.f.ctx == x) (s.core c).cmds.length
  let s := s.endWritesOf c fun m => m.f.ctx == x && isColl m.i
  let k := s.core c
  let s := s.setCore c { k with
    cmds := k.cmds.filter fun m => !(m.f.ctx == x && (isColl m.i || m.frozen)),
    rbuf := k.rbuf.filter (·.ctx != x), fregs := k.fregs.filter fun g => g.ctx != x || g.fr.repair,
    frozen := k.frozen.filter (·.2 != x), fabric := k.fabric.filter (·.ctx != x),
    elems := k.elems.map fun e =>
      { e with store := e.store.filter (·.ctx != x), ovf := e.ovf.filter (·.ctx != x) } }
  let v := s.cx c x
  s.setCx c x { v with phase := .killed, ctl := { v.ctl with pending := true }, takeIn := none, want := none,
                       hWant := none, pend := [], kept := [], groups := [], left := [], past := [], recTab := [], trapped := none }

/-- A saved context is killed: its image is dropped, and the commands of its that still wait end (R372). -/
def State.dropSaved (s : State) (p : Nat) (e : Saved) : State :=
  let s := s.flushNet e.core (fun m => m.f.ctx == 8 + e.id) (s.core e.core).cmds.length
  let s := s.endWritesOf e.core fun m => m.f.ctx == 8 + e.id
  let k := s.core e.core
  let s := s.setCore e.core { k with cmds := k.cmds.filter fun m => m.f.ctx != 8 + e.id }
  let v := s.part p
  s.setPart p { v with pool := v.pool.filter (·.id != e.id) }

/-! ## The end of a partition reset -/

/-- Cores of a partition. -/
def Part.coreList (p : Part) : List Nat := (List.range 72).filter p.cores.toNat.testBit

/-- Every late write of a core reaches its coherence point. -/
def State.landAll (s : State) (c : Nat) : State :=
  (downTo (s.core c).late.length).foldl (fun s n => s.lateWrite c n fun _ => true) s

/-- Steps 3 and 4 of R376 for one core. -/
def State.resetCore (s : State) (c : Nat) : State :=
  let s := (s.landAll c).cacheRelease c
  let k := s.core c
  let s := s.setCore c { k with
    cache := [], cacheHw := 0, split := Split.reset, padMarks := [], tileMarks := [], cutting := none,
    barriers := Core.reset.barriers, ctags := Core.reset.ctags }
  { s with mem := Memory.clear s.mem (frameAddr c (Split.reset.size .frame)) (windowBase (c + 1)) }

/-- No context of the partition is left on a core. -/
def State.partIdle (s : State) (p : Nat) : Bool :=
  (s.part p).coreList.all fun c => (s.core c).cxs.all fun v => v.phase == .free

/-- Steps 3 to 6 of R376. -/
def State.finishReset (s : State) (p : Nat) : State :=
  let s := (s.part p).coreList.foldl State.resetCore s
  let v := s.part p
  s.setPart p { v with images := [], flog := [], flogIdx := 0, vlog := [], vlogIdx := 0, vcount := 0, pool := [],
                       lock := false, resetBusy := false }

def State.tryFinishReset (s : State) (p : Nat) : State :=
  if (s.part p).resetBusy && s.partIdle p then s.finishReset p else s

/-! ## CONTEXT_END -/

/-- Is an operation one that an ended context does not wait for: a wait that nothing will satisfy? -/
def Pend.waits (q : Pend) : Bool := q.st == .wait

/-- The commands of a killed context that have frozen are discarded, and the node goes on without them (R372). -/
def State.dropFrozen (s : State) (c x : Nat) : State :=
  let k := s.core c
  s.setCore c { k with cmds := k.cmds.filter fun m => !(m.f.ctx == x && m.frozen), frozen := k.frozen.filter (·.2 != x),
                       rbuf := k.rbuf.filter (·.ctx != x), fregs := k.fregs.filter fun g => g.ctx != x || g.fr.repair }

/-- CONTEXT_END (R132): the HALT's instance has committed (R347 included), its loads have returned, and every engine
command of committed instances has completed; for a killed context every issued command has (R372). -/
def execContextEnd (core ctx : Nat) (s : State) : Out :=
  let v := s.cx core ctx
  let s := if v.phase = .killed then s.endScales core ctx else s
  let k := s.core core
  let mine := k.cmds.filter fun m => m.f.ctx == ctx && m.st != .finished
  let flying := k.scaleFlights.any fun t => t.2.f.ctx == ctx
  let quiet := match v.phase with
    | .halting => mine.all (·.orphan) && v.pend.all Pend.waits && !flying
    | .killed => mine.isEmpty && !flying
    | _ => false
  if v.phase = .killed && mine.any (·.frozen) then .next (s.dropFrozen core ctx)
  else if !quiet then .next s
  else .next ((((s.orphanCmds core ctx).freeCtx core ctx).tryFinishReset v.lau.part).wakeDoors)

/-! ## PART_KILL and PART_RESET -/

/-- PART_KILL (R372, R390): core in bits 15:8, context in bits 2:0. A context that is not of the partition, resident or
saved, is not touched. -/
def execPartKill (cc part : Nat) (value : Word) (s : State) : Out :=
  let c := bits value 15 8
  let x := bits value 2 0
  if !s.ccOwns cc part || 72 ≤ c then .next (s.refuseWrite part (partReg part 0x48))
  else
    let v := s.cx c x
    if v.phase ≠ .free ∧ s.partOfCore c = some part then
      .next (if v.phase = .killed then s else (s.kill c x).wakeDoors)
    else match (s.part part).pool.find? fun e => e.core == c && e.ctx == x with
      | some e => .next (s.dropSaved part e)
      | none => .next s

/-- PART_RESET (R376, R390): steps 1 and 2; the rest follows when the killed contexts have ended. -/
def execPartReset (cc part : Nat) (value : Word) (s : State) : Out :=
  if !s.ccOwns cc part || value ≠ 1 then .next (s.refuseWrite part (partReg part 0x20))
  else if (s.part part).resetBusy then .next s
  else
    let v := s.part part
    let clean (q : Queue) : Queue := { q with units := [], asm := [], resv := [] }
    let s := s.setPart part { v with resetBusy := true, queues := v.queues.map clean }
    let s := (s.part part).pool.foldl (fun s e => s.dropSaved part e) s
    let all := (s.part part).coreList.flatMap fun c => (List.range 8).map fun x => (c, x)
    let s := all.foldl (fun s t =>
      if (s.cx t.1 t.2).phase = .free ∨ (s.cx t.1 t.2).phase = .killed then s else s.kill t.1 t.2) s
    .next ((s.tryFinishReset part).wakeDoors)

end Sys2Proof.Machine
end

