-- ==== Sys2Proof/Machine/Faults.lean ====
section
/-! DEFINITION. Page-in requests and replies (R342, R343, R390), resume actions of frozen nodes (R252), shootdowns (R159,
R160, R391). -/

namespace Sys2Proof.Machine

/-! ## PAGE_IN_REQUEST -/

/-- The key of a request or reply: core 7:0, context 10:8, cgen 23:16, port 28:24, slot 33:29 (R390). -/
def keyWord (core ctx cgen port slot : Nat) : Nat :=
  core % 2 ^ 8 + ctx % 2 ^ 3 * 2 ^ 8 + cgen % 2 ^ 8 * 2 ^ 16 + port % 2 ^ 5 * 2 ^ 24 + slot % 2 ^ 5 * 2 ^ 29

/-- PAGE_IN_REQUEST (R224, R342, R390): the ring takes the request; while it is full the request waits. -/
def execPageInRequest (core port slot : Nat) (s : State) : Out :=
  let k := s.core core
  match k.rbuf.find? fun r => r.port == port && r.slot == slot, s.partOfCore core with
  | some r, some p =>
    let v := s.part p
    if !r.asks || v.ringFull then .next s
    else
      let key := keyWord core r.ctx r.fr.cgen port slot + r.src * 2 ^ 44
      let bytes := natBytes 8 key ++ natBytes 8 r.fr.addr.toNat ++ natBytes 16 0
      let rbuf := k.rbuf.map fun o => if o = r then { o with key := some (core, r.ctx, port, slot) } else o
      let s := s.setCore core { k with rbuf }
      let s := s.setPart p { v with phead := (v.phead + 1) % 256 }
      .next (s.writeMem (place (v.preq + 32 * v.phead) bytes))
  | _, _ => .next s

/-! ## PART_REPLY -/

/-- A record takes a reply in TRAP or STOP mode: repaired, and in TRAP mode the status (R343). -/
def FRec.replied (r : FRec) (status : Bool) : FRec :=
  if r.frozen then { r with repaired := true } else { r with repaired := true, refused := status }

/-- A reply to a record of a resident context (R343); the fault register that names the record shows the same. -/
def State.replyRecord (s : State) (c : Nat) (r : RSlot) (status : Bool) : State :=
  let k := s.core c
  if r.fr.repair then
    let s := s.setCore c { k with rbuf := k.rbuf.filter (· != r) }
    let v := s.cx c r.ctx
    s.setCx c r.ctx { v with ctl := { v.ctl with rpend := v.ctl.rpend - 1 } }
  else
    s.setCore c { k with
      rbuf := k.rbuf.map fun o => if o = r then { o with fr := o.fr.replied status } else o,
      fregs := k.fregs.map fun g =>
        if g.ctx == r.ctx && g.num == 32 * r.port + r.slot then { g with fr := g.fr.replied status } else g }

/-- The place of fault record `n` in a save image (R354). -/
def recOff (n : Nat) : Nat := 2048 + 64 * n

/-- Byte 19 of a record: its flags (R339). -/
def FRec.flags (r : FRec) : Nat := r.encode >>> 152 % 256

/-- A reply to a record of a saved context: the saved record and `ctl.rpend`, in the image as well (R343). -/
def State.replySaved (s : State) (p : Nat) (e : Saved) (t : Nat × RSlot) (status : Bool) : State :=
  let r := t.2
  let rpend := e.cx.ctl.rpend - 1
  let e' : Saved :=
    if r.fr.repair then
      { e with recs := e.recs.filter (· != t), cx := { e.cx with ctl := { e.cx.ctl with rpend } } }
    else { e with
      recs := e.recs.map fun o => if o = t then (o.1, { o.2 with fr := o.2.fr.replied status }) else o,
      fregs := e.fregs.map fun g => if g.num = 32 * r.port + r.slot then { g with fr := g.fr.replied status } else g }
  let v := s.part p
  let s := s.setPart p { v with pool := v.pool.map fun o => if o.id = e.id then e' else o }
  if r.fr.repair then
    (s.poke e.area (recOff t.1 + 19) (natBytes 1 (r.fr.flags - 1))).poke e.area 136 (natBytes 8 rpend.toNat)
  else s.poke e.area (recOff t.1 + 19) (natBytes 1 (r.fr.replied status).flags)

/-- The record that a reply names: of a core of the partition, or of a saved context. -/
def State.replyTo (s : State) (p core ctx cgen port slot : Nat) : Option (Sum (Nat × RSlot) (Saved × (Nat × RSlot))) :=
  let hit (r : RSlot) : Bool := r.key == some (core, ctx, port, slot) && r.fr.cgen == cgen
  match (s.part p).coreList.findSome? fun c => ((s.core c).rbuf.reverse.find? hit).map fun r => (c, r) with
  | some r => some (.inl r)
  | none => ((s.part p).pool.findSome? fun e => (e.recs.find? fun t => hit t.2).map fun t => (e, t)).map .inr

/-- PART_REPLY (R343): without a record of that key and incarnation it is discarded. -/
def execPartReply (cc part : Nat) (value : Word) (s : State) : Out :=
  if !s.ccOwns cc part then .next (s.refuseWrite part (partReg part 0x78))
  else
    match s.replyTo part (bits value 7 0) (bits value 10 8) (bits value 23 16) (bits value 28 24) (bits value 33 29) with
    | some (.inl (c, r)) => .next (s.replyRecord c r (bit value 40))
    | some (.inr (e, t)) => .next (s.replySaved part e t (bit value 40))
    | none => .next s

/-- PART_PREQ (R390): the base, 64-byte aligned; the ring is empty. -/
def execPartPreq (cc part : Nat) (value : Word) (s : State) : Out :=
  if !s.ccOwns cc part || value.toNat % 64 ≠ 0 then .next (s.refuseWrite part (partReg part 0x60))
  else .next (s.setPart part { s.part part with preq := value.toNat, phead := 0, ptail := 0 })

/-! ## Resume actions -/

/-- The node of an operation that waits at a frozen node: a port's own, or an engine's. -/
def Pend.node (q : Pend) : Nat :=
  match q.i.form with
  | .e w => if w.port.toNat = 63 then portOf q.f.elem else w.port.toNat
  | _ => portOf q.f.elem

/-- Is an operation the faulting access of a node? -/
def Pend.frozenAt (q : Pend) (node : Nat) : Bool := q.st == .frozen node

/-- Insert a place into a list in stream order (R249). -/
def insertAt (a : (Nat × Nat) × Nat) : List ((Nat × Nat) × Nat) → List ((Nat × Nat) × Nat)
  | [] => [a]
  | b :: bs => if precedes a.1 b.1 then a :: b :: bs else b :: insertAt a bs

/-- Operations of a node, the frozen one first and then those it holds back, in stream order: their places in the list. -/
def Ctx.resumeOrder (v : Ctx) (node : Nat) : List Nat :=
  let all := v.pend.mapIdx fun k q => (k, q)
  let at_ (p : Pend → Bool) : List Nat :=
    (((all.filter fun t => p t.2).map fun t => (t.2.at_, t.1)).foldl (fun l a => insertAt a l) []).map (·.2)
  at_ (·.frozenAt node) ++ at_ fun q => q.st == .held && q.node == node

/-- The places again, each counted after the ones before it have been taken out. -/
def shiftPlaces (ks : List Nat) : List Nat :=
  ks.mapIdx fun n k => k - ((ks.take n).filter (· < k)).length

/-- The frozen register of a node for a context (R252, R393). -/
def State.frozenReg (s : State) (c x node : Nat) : Option FReg :=
  (s.core c).fregs.find? fun g => g.node == node && g.ctx == x && g.fr.frozen

/-- A node is no longer frozen for a context. -/
def State.thaw (s : State) (c x node : Nat) : State :=
  let k := s.core c
  s.setCore c { k with
    frozen := k.frozen.filter (· != (node, x)),
    cmds := k.cmds.map fun m => if m.f.ctx == x && m.port == node then { m with frozen := false } else m }

/-- Does one of the 64-bit fields of an operation's operands hold a physical-address token of the present generation? -/
def State.freshToken (s : State) (c : Nat) (f : Firing) : Bool :=
  [f.lval.wide, f.rval.wide].any fun v => (List.range 8).any fun k =>
    let a := v >>> (64 * k) % 2 ^ 64
    isPaToken a && (a >>> 54) % 256 == (s.core c).xgen.toNat

/-- The operation, waiting or a command, that a frozen record names. -/
def State.frozenOp (s : State) (c x : Nat) (r : FRec) : Option Firing :=
  let mine (f : Firing) : Bool := f.ctx == x && f.hdl == r.hdl && f.seq == r.seq && f.idx == r.index
  (((s.cx c x).pend.find? fun q => mine q.f).map (·.f)).or (((s.core c).cmds.find? fun m => mine m.f).map (·.f))

/-- The re-check of a RETRY (R252): does the byte that failed pass now the check that it failed (R140)? -/
def State.recheck (s : State) (c x num : Nat) (r : FRec) : Bool :=
  let a := r.addr.toNat
  let src := (((s.core c).rbuf.find? fun o => 32 * o.port + o.slot == num && o.ctx == x).map (·.src)).getD 0
  let fails (k : AKind) : Bool := match s.check c k a 1 1 with
    | .ok _ => false
    | .error e => e.code == r.kind
  match r.kind with
  | 1 => false
  | 2 => a < (s.core c).split.size .pad
  | 3 => (s.frozenOp c x r).any (s.freshToken c)
  | 6 => s.ownedBy c a
  | 7 => !s.isBad a
  | _ => !fails (if src = 1 || src = 4 then .store else if src = 2 then .atomic else .probe)

/-- RETRY of a node (R252): the faulting access is checked again. Once it passes, its record is released, and it and the held
accesses are made in stream order; while it fails, the node stays frozen with its record (R340; DEDUCED, log 97). -/
def State.retryNode (s : State) (c x node num : Nat) : State :=
  if !((s.record c x num).any (s.recheck c x num)) then s else
  let s := (s.releaseRec c x num).thaw c x node
  let v := s.cx c x
  let ks := shiftPlaces (v.resumeOrder node)
  let v := { v with pend := v.pend.map fun q => if q.frozenAt node then { q with st := .held } else q }
  let s := s.setCx c x v
  { s with agenda := ks.map (fun k => .retry c x k) ++ s.agenda }

/-- The place of a context's resume register (R393). -/
def resumeReg (c x : Nat) : Nat := coreReg c (0x1000 * x + 0xC00)

/-- RESUME_RETRY (R252, R393). -/
def execResumeRetry (cc core ctx node : Nat) (s : State) : Out :=
  if !s.ccOwnsCore cc core then .next (s.refuseWrite ((s.partOfCore core).getD 0) (resumeReg core ctx))
  else match s.frozenReg core ctx node with
    | none => .next s
    | some g => .next (s.retryNode core ctx node g.num)

/-- The faulting operation of a node yields FAULT (R30); an SPACC gives its tag back. -/
def State.yieldFault (s : State) (q : Pend) (num : Nat) : State :=
  let (t0, t1) := instrTargets q.i
  match q.i with
  | .spacc w => (s.emitFrom (srcIsland w.port.toNat) q.f t0 t1 .fault (faultVal num)).freeTag q.f.core (s.spTag q.f w)
  | _ => s.emitFrom (if q.node < 32 then srcPort q.f.elem else srcIsland q.node) q.f t0 t1 .fault (faultVal num)

/-- Is a waiting operation an access of its node? -/
def Pend.accesses (q : Pend) : Bool :=
  match memKind q.i, q.i with
  | .load, _ | .store, _ | .atomic, _ => true
  | _, .xlat _ | _, .cfgload _ | _, .pfetch _ | _, .reside _ | _, .pfxcmp _ | _, .skset _ | _, .launch _ => true
  | _, i => match i.form with
    | .e w => w.port.toNat != 63
    | _ => false

/-- Is a waiting access held back behind the access of a frozen node, whose record is `r` and which stands at `at_`: it is
younger in stream order (R249, R252)? What an engine has not accepted is younger than what it has. -/
def Pend.behind (q : Pend) (node : Nat) (r : FRec) (at_ : Nat × Nat) : Bool :=
  let waits := match q.st with
    | .held | .perform | .load _ _ => true
    | _ => false
  waits && q.accesses && q.node == node && q.f.hdl == r.hdl &&
    if node < 32 then precedes at_ q.at_ else r.seq ≤ q.f.seq

/-- A waiting access is discarded; an SPACC gives its tag back (R167). -/
def State.discard (s : State) (q : Pend) : State :=
  match q.i with
  | .spacc w => if q.st == .perform then s.freeTag q.f.core (s.spTag q.f w) else s
  | _ => s

/-- What the faulting command of a node yields (R30, R260): a FAULT result, and its tag is free again; a COLL completes with
that mark (R18, R265); an INTSECT ends its stream with a FAULT entry, when the channel has room. -/
def State.cmdTraps (s : State) (c num : Nat) (m : Cmd) : State :=
  if isIntsect m.i then s
  else if isColl m.i then (s.cmdEmit m .data (.sc 0)).complete c m (.fault num)
  else (s.cmdEmit { m with ctag := none } .fault (faultVal num)).freeTag c m.ctag

/-- The commands of a context at a node after RESUME_TRAP (R252): those that were accepted before the frozen one go on, the
frozen one goes unless it is an INTSECT, and the later ones are discarded. -/
def trapCmds (node ctx num : Nat) : List Cmd → Bool → List Cmd × List Cmd
  | [], _ => ([], [])
  | m :: ms, past =>
    let mine := m.f.ctx == ctx && m.port == node
    let (keep, gone) := trapCmds node ctx num ms (past || (mine && m.frozen))
    if mine && m.frozen then
      if isIntsect m.i then ({ m with frozen := false, status := 2 + num } :: keep, gone) else (keep, gone)
    else if mine && (past || m.st == .sent) then (keep, m :: gone)
    else (m :: keep, gone)

/-- RESUME_TRAP (R252): the faulting access yields FAULT, and the accesses held behind it are discarded, their tags free
again; its record is an ordinary one from now on, and marks the instance (R340). -/
def execResumeTrap (cc core ctx node : Nat) (s : State) : Out :=
  if !s.ccOwnsCore cc core then .next (s.refuseWrite ((s.partOfCore core).getD 0) (resumeReg core ctx))
  else match s.frozenReg core ctx node with
    | none => .next s
    | some g =>
      let k := s.core core
      let unfreeze (r : FRec) : FRec := { r with frozen := false }
      let mine (m : Cmd) : Bool := m.f.ctx == ctx && m.port == node
      let bad := k.cmds.filter fun m => mine m && m.frozen
      let (keep, gone) := trapCmds node ctx g.num k.cmds false
      let s := s.setCore core { k with
        rbuf := k.rbuf.map fun r =>
          if r.ctx == ctx && 32 * r.port + r.slot == g.num then { r with fr := unfreeze r.fr } else r,
        fregs := k.fregs.map fun o => if o = g then { o with fr := unfreeze o.fr } else o,
        frozen := k.frozen.filter (· != (node, ctx)),
        cmds := keep }
      let v := s.cx core ctx
      let stopped := v.pend.filter (·.frozenAt node)
      let at_ := ((stopped.head?).map Pend.at_).getD (g.fr.seq, 0)
      let held (q : Pend) : Bool := q.behind node g.fr at_
      let s := s.setCx core ctx { v with pend := v.pend.filter fun q => !(q.frozenAt node || held q) }
      let s := stopped.foldl (fun s q => s.yieldFault q g.num) s
      let s := (v.pend.filter held).foldl State.discard s
      let s := gone.foldl (fun s m => s.freeTag core m.ctag) s
      .next ((bad.foldl (fun s m => s.cmdTraps core g.num m) s).markInst core ctx g.fr.hdl g.fr.seq g.num)

/-! ## Shootdowns -/

/-- Page size of a code (R390). -/
def shootSize (code : Nat) : Nat := if code = 0 then 0x10000 else if code = 1 then 0x200000 else 0x40000000

/-- PART_SHOOT (R391): held while an earlier shootdown is busy; the cores that must do it are those of the partition when it
begins. -/
def execPartShoot (cc part : Nat) (value : Word) (s : State) : Out :=
  if !s.ccOwns cc part || bits value 1 0 = 3 then .next (s.refuseWrite part (partReg part 0x38))
  else
    let v := s.part part
    let size := shootSize (bits value 1 0)
    let left := if v.shoots.isEmpty then v.coreList else []
    .next (s.setPart part { v with shoots := v.shoots ++ [⟨value.toNat / size * size, size, left, [], []⟩] })

/-- Does a removed translation cover one of these bytes? -/
def coversPa (es : List TlbE) (pas : List Nat) : Bool :=
  es.any fun e => pas.any fun pa => e.pbase ≤ pa && pa < e.pbase + e.size

/-- Accesses of a core that were checked and have not been performed, each with its bytes: loads that have been issued,
buffered stores, engine commands. -/
def State.checkedAccs (s : State) (c : Nat) : List ((InstRef × Nat) × List Nat) :=
  let k := s.core c
  let refOf (f : Firing) : InstRef × Nat := (⟨c, f.ctx, f.hdl, f.seq⟩, f.idx)
  (k.cxs.flatMap fun v => v.pend.filterMap fun q => match q.st with
    | .load pas _ => some (refOf q.f, pas)
    | _ => none) ++
  ((k.cxs.mapIdx fun x v => (v.insts ++ v.hInsts).flatMap fun i => (i.stores.filter fun b => !b.shown).map fun b =>
    ((⟨c, x, i.hdl, i.seq⟩, b.idx), b.bytes.map (·.1) ++ b.copyDst ++ b.copySrc)).flatten) ++
  (k.cmds.filter fun m => m.st != .finished).map fun m => (refOf m.f, m.pas ++ m.wordPas)

/-- Does a streamer command of a core that has been accepted and has not completed hold a translation of a page (R242)? -/
def State.streamHolds (s : State) (c base size : Nat) : Bool :=
  (s.core c).cmds.any fun m => m.streams && (accVas (accsOf m.i m.f)).any fun va => base ≤ va && va < base + size

/-- Does a translation that a core removed for a shootdown cover a byte? -/
def Shoot.covers (h : Shoot) (c pa : Nat) : Bool :=
  h.gone.any fun g => g.1 == c && g.2.pbase ≤ pa && pa < g.2.pbase + g.2.size

/-- The bytes of a page that a core has written under a removed translation and that have not reached memory: late writes of
completed commands, and dirty bytes of its CACHE (R385). -/
def State.shootBytes (s : State) (h : Shoot) (c : Nat) : List Nat :=
  let k := s.core c
  (((k.late.filter fun l => !l.runs).flatMap fun l => l.bytes.map (·.1)) ++
    k.cache.flatMap fun l => l.dirtyBytes.map (·.1)).filter (h.covers c)

/-- They reach memory. -/
def State.shootSettle (s : State) (h : Shoot) (c : Nat) : State :=
  let s := (downTo (s.core c).late.length).foldl (fun s n =>
    if ((s.core c).late[n]?).any (!·.runs) then s.lateWrite c n (h.covers c) else s) s
  s.writeBack c fun l => l.dirtyBytes.any fun x => h.covers c x.1

/-- SHOOTDOWN (R159, R242, R391): once no streamer command holds a translation of the page, the core removes the matching
entries and advances its generation; what was checked under a removed entry, or under one that had to leave the cache
before, and is still to be performed keeps the shootdown busy. -/
def execShootdown (core : Nat) (s : State) : Out :=
  match (List.range 8).find? fun p => match (s.part p).shoots with
    | h :: _ => h.left.contains core
    | [] => false with
  | none => .next s
  | some p => match (s.part p).shoots with
    | [] => .next s
    | h :: rest =>
      let k := s.core core
      let hit (e : TlbE) : Bool := e.vbase < h.base + h.size && h.base < e.vbase + e.size
      let gone := (k.tlb ++ k.spent).filter hit
      if s.streamHolds core h.base h.size then .next s
      else
        let drain := ((s.checkedAccs core).filter fun a => coversPa gone a.2).map (·.1)
        let s := s.setCore core { k with tlb := k.tlb.filter fun e => !hit e, spent := k.spent.filter fun e => !hit e,
                                         xgen := k.xgen + 1 }
        let h := { h with left := h.left.filter (· != core), drain := h.drain ++ drain,
                          gone := h.gone ++ gone.map fun e => (core, e) }
        .next (s.setPart p { s.part p with shoots := h :: rest })

/-- SHOOTDOWN_COMPLETE (R391): every core has done so, and every access checked under a removed entry is performed, so that
memory holds what the cores have written of the page (R385). -/
def execShootdownComplete (part : Nat) (s : State) : Out :=
  let v := s.part part
  match v.shoots with
  | [] => .next s
  | h :: rest =>
    let open_ (d : InstRef × Nat) : Bool := (s.checkedAccs d.1.core).any fun a => a.1 = d
    let cores := (h.gone.map (·.1)).eraseDups
    let stuck := s.links.any (·.failed) && cores.any fun c => s.linkDown c (s.shootBytes h c)
    if h.left.isEmpty && !h.drain.any open_ && !stuck then
      let next := match rest with
        | [] => []
        | g :: gs => { g with left := v.coreList } :: gs
      let s := cores.foldl (fun s c => s.shootSettle h c) s
      .next (s.setPart part { v with shoots := next })
    else .next s

end Sys2Proof.Machine
end

