-- ==== Sys2Proof/Machine/Panel.lean ====
section
/-! DEFINITION. Panels: placement (R364), pages and pattern records (R87), take-in (R351), its timeout, growth. -/

namespace Sys2Proof.Machine

/-! ## Rectangles -/

/-- Core quads of a panel, in row-major order. -/
def Panel.quads (p : Panel) : List Nat := (List.range (p.rows * p.cols)).map p.quad

/-- Panels of the resident contexts of a core, but for context `x`. -/
def Core.panels (k : Core) (x : Nat) : List Panel :=
  (k.cxs.mapIdx fun n v => if n == x || v.phase == .free then none else v.panel).filterMap id

/-- With how many panels does a rectangle share quads? -/
def shares (ps : List Panel) (p : Panel) : Nat := (ps.filter fun o => o.quads.any p.quads.contains).length

/-- The rectangles of a shape at multiples of the shape, in row-major order (R364). -/
def rectangles (rows cols variant count : Nat) : List Panel :=
  if rows = 0 || cols = 0 then []
  else (List.range (4 / rows)).flatMap fun i => (List.range (4 / cols)).map fun j =>
    ⟨rows * i, cols * j, rows, cols, variant, count, false⟩

/-- The rectangles where a panel may go, the best first: with EXCL those that no panel shares; else those that share with
the fewest (R364). -/
def Core.placesFor (k : Core) (x : Nat) (excl : Bool) (rows cols variant count : Nat) : List Panel :=
  let ps := k.panels x
  let all := rectangles rows cols variant count
  if excl then all.filter fun p => shares ps p == 0
  else (List.range 9).flatMap fun n => all.filter fun p => shares ps p == n

/-! ## Pages -/

/-- The page that the pattern records of a variant deliver to the element at a row and column of the panel, zero words
without one (R87). -/
def patternPage (img : List Word) (v row col : Nat) : List Word :=
  match (imgPats img).find? fun p => p.variant == v && (p.elems img).contains (row, col) with
  | some p => p.page img
  | none => List.replicate 32 0

/-- The pages of a context on the elements of some quads are cleared; nothing of the context waits there. -/
def State.clearPages (s : State) (c x : Nat) (quads : List Nat) : State :=
  let k := s.core c
  let go (n : Nat) (e : Elem) : Elem :=
    if quads.contains (quadOf n) then
      { e with pages := e.pages.set x (List.replicate 32 0), reconf := e.reconf.filter (·.ctx != x) }
    else e
  s.setCore c { k with elems := k.elems.mapIdx go }

/-- The pattern records of the variant in force are multicast onto the context's panel, whose pages are cleared first
(R87); each quad then holds its lowest-numbered block (R44). -/
def State.loadPanel (s : State) (c x : Nat) : State :=
  let v := s.cx c x
  match v.panel with
  | none => s
  | some p =>
    let img := v.lau.image
    let s := s.clearPages c x p.quads
    let first (q : Nat) : Option Nat := firstBlockOnQuad img p.variant q
    let k := s.core c
    let go (n : Nat) (e : Elem) : Elem :=
      let r := n / 8 - 2 * p.row
      let l := n % 8 - 2 * p.col
      if p.quads.contains (quadOf n) then
        { e with pages := e.pages.set x (patternPage img p.variant r l),
                 blks := e.blks.set x ((first (r / 2 * p.cols + l / 2)).getD 0xFFFF) }
      else e
    let s := s.setCore c { k with elems := k.elems.mapIdx go }
    let held := (List.range (p.rows * p.cols)).filterMap fun q => (first q).map fun b => (p.quad q, b)
    s.setCx c x { s.cx c x with held }

/-- Operations and commands of a context, on the elements of its present panel: their results go there. -/
def State.moveFirings (s : State) (c x : Nat) : State :=
  let v := s.cx c x
  let go (f : Firing) : Firing := { f with elem := elemAt (v.quadOfBlock f.blk) (posOf f.elem) }
  let k := s.core c
  let s := s.setCore c { k with cmds := k.cmds.map fun m => if m.f.ctx == x then { m with f := go m.f } else m }
  s.setCx c x { v with pend := v.pend.map fun q => { q with f := go q.f } }

/-- Tokens of a context in the stores and the fabric are discarded (R351 step 3). -/
def State.discardTokens (s : State) (c x : Nat) : State :=
  let k := s.core c
  let s := s.setCore c { k with
    fabric := k.fabric.filter (·.ctx != x),
    scales := k.scales.filter fun t => bits t.2.tag 63 61 != x,
    elems := k.elems.map fun e => { e with store := e.store.filter (·.ctx != x), ovf := e.ovf.filter (·.ctx != x) } }
  let v := s.cx c x
  s.setCx c x { v with left := v.left.filter (s.remains c x ·) }

/-- A context moves onto another panel (R351 steps 3 to 5). -/
def State.movePanel (s : State) (c x : Nat) (p : Panel) : State :=
  let s := s.discardTokens c x
  let old := ((s.cx c x).panel.map Panel.quads).getD []
  let s := s.clearPages c x old
  let s := s.setCx c x { s.cx c x with panel := some p }
  ((((s.loadPanel c x).moveFirings c x).endTakeIn c x).retireValues c x).wakeDoors

/-! ## Take-in -/

/-- Is a context in a state that a take-in or save goes on from? -/
def Ctx.movable (v : Ctx) : Bool := v.phase == .running || v.phase == .failed

/-- No instance is in flight. -/
def Ctx.still (v : Ctx) : Bool := v.insts.isEmpty && v.hInsts.isEmpty

/-- The panel of a variant at the same north-west quad. -/
def Ctx.panelOf (v : Ctx) (k : Nat) (selfIn : Bool) : Option Panel :=
  v.panel.map fun p =>
    { p with rows := variantRows v.lau.image k, cols := variantCols v.lau.image k, variant := k,
             selfIn := p.selfIn || selfIn }

/-- TAKE_IN_TIMEOUT (R351 step 2): what has not committed after 2^12 cycles is squashed without a trap; its records but
REPAIR ones are released; fetch will resume with the oldest of it. A commit that has begun ends first. -/
def execTakeInTimeout (core ctx : Nat) (s : State) : Out :=
  let v := s.cx core ctx
  match v.takeIn with
  | none => .next s
  | some t =>
    if (s.core core).cycle.toNat < t.began + 4096 || v.still || (v.insts ++ v.hInsts).any (·.begun) then .next s
    else
      let wantOf (i : Inst) : Want := ⟨i.blk, i.tag, i.seq, i.links⟩
      let want := (v.insts.head?).map wantOf
      let hWant := (v.hInsts.head?).map wantOf
      let s := (s.squash core ctx false fun _ => true).squash core ctx true fun _ => true
      let keep := (v.trapped.map (·.num))
      let s := s.releaseInstRecs core ctx false (v.insts.map (·.seq)) keep
      let s := s.releaseInstRecs core ctx true (v.hInsts.map (·.seq)) keep
      let u := s.cx core ctx
      let s := s.setCx core ctx { u with
        want := want.or u.want, hWant := hWant.or u.hWant,
        links := (v.insts.head?.map (·.links)).getD u.links }
      .next ((s.retireValues core ctx).wakeDoors)

/-! ## Growth -/

/-- The variant that growth would reach: the largest count above the one in force, up to the launched count, whose new
quads lie on the core and no other panel uses (R351). -/
def State.growTo (s : State) (c x : Nat) : Option Panel :=
  let v := s.cx c x
  let img := v.lau.image
  match v.panel with
  | none => none
  | some p =>
    let ps := (s.core c).panels x
    let fits (k : Nat) : Option Panel :=
      let q := variantQuads img k
      match v.panelOf k false with
      | none => none
      | some n =>
        let added := n.quads.filter fun a => !p.quads.contains a
        if v.quadsNow < q && q ≤ p.launched && n.row + n.rows ≤ 4 && n.col + n.cols ≤ 4 && !(ps.any fun o => added.any o.quads.contains) then some n else none
    if p.selfIn then none
    else ((List.range (imgNvariants img)).filterMap fits).foldl (fun b n => match b with
      | none => some n
      | some m => if m.count < n.count then some n else some m) none

/-- PANEL_GROWTH (R351): it begins as a take-in does, and the move is made when nothing is in flight; when the quads are
not free any more, fetch resumes without it. -/
def execPanelGrowth (core ctx : Nat) (s : State) : Out :=
  let v := s.cx core ctx
  if !v.movable then .next s
  else match v.takeIn with
    | none => match s.growTo core ctx with
      | some n => if v.takePending then .next s else .next (s.beginTakeIn core ctx n.count false)
      | none => .next s
    | some t =>
      if t.quads ≤ v.quadsNow || !v.still then .next s
      else match s.growTo core ctx with
        | some n => .next (s.movePanel core ctx n)
        | none => .next (s.endTakeIn core ctx)

end Sys2Proof.Machine
end

