-- ==== Sys2Proof/Machine/Save.lean ====
section
/-! DEFINITION. Quiescence, the save image, save and restore (R353-R356), TAKE_IN (R351), the completions of CTXSAVE and
CTXREST (R355), completions of saved commands (R353). -/

namespace Sys2Proof.Machine

/-! ## Quiescence -/

/-- A command that is carried in the image: COLL, NETSEND and NETRECV; one frozen under STOP; an INTSECT held by a full
channel (R353). -/
def State.carriedCmd (s : State) (c : Nat) (m : Cmd) : Bool :=
  isColl m.i || isNet m.i || m.frozen || (match m.i with
    | .intsect w => m.st == .started && s.chanRoom c m.f.ctx (bits w.mods 8 3) == 0
    | _ => false)

/-- Operations that a save carries: waits, held commands, accesses frozen under STOP. -/
def Pend.kept (q : Pend) : Bool :=
  match q.st with
  | .held | .wait | .frozen _ => true
  | .load _ _ | .perform | .cut => false

/-- Quiescence (R353): nothing in flight, issued commands have completed but for the carried ones, no token of the
context in the fabric. -/
def State.quiescent (s : State) (c x : Nat) : Bool :=
  let k := s.core c
  let v := s.cx c x
  v.still && !(k.fabric.any (·.ctx == x)) && v.pend.all Pend.kept &&
  (k.cmds.all fun m => m.f.ctx != x || m.st == .finished || s.carriedCmd c m) &&
  !(k.scaleFlights.any fun t => t.2.f.ctx == x)

/-! ## The image -/

/-- `n` bytes that the spec does not define, from offset `off` of image number `k`. -/
def freeBytes (k off n : Nat) : List Byte := (List.range n).map fun j => Config.saveFill k (off + j)

/-- Fill up to a multiple of 64 bytes. -/
def padTo64 (k : Nat) (bs : List Byte) : List Byte := bs ++ freeBytes k bs.length ((64 - bs.length % 64) % 64)

/-- Records of a context: those in replay buffers, then those of its table (R340). -/
def State.ctxRecords (s : State) (c x : Nat) : List FRec :=
  ((s.core c).rbuf.filter (·.ctx == x)).map (·.fr) ++ (s.cx c x).recTab.map (·.2)

/-- Commands of a context that are carried in its image. -/
def State.pendingCmds (s : State) (c x : Nat) : List Cmd :=
  (s.core c).cmds.filter fun m => m.f.ctx == x && m.st != .finished

/-- FRAME bytes of a frame and its FIFOs (R51, R53). -/
def Ctx.frameBytes (v : Ctx) : Nat := 64 * v.slots.length + (v.fifos.map fun q => 64 * q.depth).sum

/-- Bytes 0 to 63 (R354). -/
def State.saveHead (s : State) (c x k : Nat) : List Byte :=
  let v := s.cx c x
  let n (w a : Nat) : List Byte := natBytes w a
  let want : Nat × Word × Nat := match v.want, v.trapped with
    | some w, _ => (w.seq, w.tag, w.blk)
    | none, some t => (t.seq, t.tag, t.blk)
    | none, none => (v.nextSeq, 0, 0xFFFF)
  n 4 0x5A7E0D72 ++ n 2 1 ++ n 1 x ++ n 1 c ++ n 2 v.lau.handle ++ n 1 v.cgen.toNat ++
  n 1 (b2n v.ctl.inHandler + 2 * b2n (v.phase == .failed)) ++
  n 1 v.quadsNow ++ n 1 ((v.panel.map (·.launched)).getD 0) ++ freeBytes k 14 2 ++
  n 8 want.1 ++ n 8 want.2.1.toNat ++ n 2 want.2.2 ++ n 2 v.slots.length ++
  n 4 (s.ctxRecords c x).length ++ n 4 v.kept.length ++ n 4 (s.pendingCmds c x).length ++
  n 8 v.frameBytes ++ freeBytes k 56 8

/-- The dword of register `n` (R354). -/
def State.saveReg (s : State) (c x n : Nat) : List Byte :=
  if n = 16 then natBytes 8 0 else natBytes 8 (s.ctlReg c x n).scalar.toNat

/-! The spec names the contents of the sections and gives the layout of some of them only. What the layouts below add is the
model's choice (DESIGN CHOICE, log 14); bytes that no content fills are free. -/

/-- A link stack: eight dwords, all ones beyond the depth. -/
def linkBytes (l : List Nat) : List Byte := (List.range 8).flatMap fun n => natBytes 8 (l.getD n (2 ^ 64 - 1))

/-- The link stacks of the strand and of the handler strand. -/
def Ctx.strandLinks (v : Ctx) : List Nat :=
  match v.trapped with
  | some t => t.links
  | none => (v.want.map (·.links)).getD v.links
def Ctx.handlerLinks (v : Ctx) : List Nat := (v.hWant.map (·.links)).getD []

/-- Bytes 64 to 2,047. -/
def State.saveFixed (s : State) (c x k : Nat) : List Byte :=
  let v := s.cx c x
  let g := s.core c
  (List.range 19).flatMap (s.saveReg c x) ++ natBytes 8 v.fifos.length ++ freeBytes k 224 32 ++
  (List.range 16).flatMap (fun r => natBytes 64 (v.sks.getD r 0).toNat) ++
  linkBytes v.strandLinks ++ linkBytes v.handlerLinks ++
  natBytes 8 v.resumeHandler ++ natBytes 8 ((v.hWant.map fun w : Want => w.tag.toNat).getD 0) ++
  freeBytes k 1424 112 ++
  (List.range 7).flatMap (fun f => natBytes 8 (v.bobNext.getD f 0)) ++ freeBytes k 1592 8 ++
  (v.specs.mapIdx fun n sp => natBytes 8 sp.w ++ natBytes 1 (b2n sp.isOpen) ++ freeBytes k (1609 + 16 * n) 7).flatten ++
  (List.range 64).flatMap (fun t => natBytes 1 (if bit v.ctl.ctagmask t then (g.ctag t).byte x else 0)) ++
  natBytes 64 (s.trec c x) ++
  (List.range 64).flatMap fun t =>
    natBytes 4 (if bit v.ctl.ctagmask t then (g.ctag t).entry v.resumeSeq v.resumeHandler else 0)

/-- A kept result: sequence number with the strand in its top bit, index, value, kind. -/
def Kept.bytes (r : Kept) : List Byte :=
  let o := r.out.headD (.null, .sc 0)
  natBytes 8 (r.seq % 2 ^ 63 + b2n r.hdl * 2 ^ 63) ++ natBytes 8 r.idx ++ natBytes 8 o.2.scalar.toNat ++ natBytes 8 o.1.code

/-- A pending command: its word, tag, sequence number and index, port, whether it is frozen, the place of an intersect
walk (R353), its block, its strand, its tag and its scope. -/
def Cmd.bytes (m : Cmd) : List Byte :=
  natBytes 8 (encode m.i).toNat ++ natBytes 8 m.f.tag.toNat ++ natBytes 8 m.f.seq ++ natBytes 2 m.f.idx ++
  natBytes 1 m.port ++ natBytes 1 (b2n m.frozen) ++ natBytes 4 m.j ++ natBytes 4 m.p ++ natBytes 4 m.q ++ natBytes 4 m.m ++
  natBytes 2 m.f.blk ++ natBytes 1 (b2n m.f.hdl) ++ natBytes 1 (m.ctag.getD 0xFF) ++ natBytes 1 m.scope

/-- The status of a frame slot: its kind in bits 2:0, presence in bit 3, the vector form in bit 4. -/
def SlotSt.byte (t : SlotSt) : Nat := t.kind.code + (if t.present then 8 else 0) + if t.vec then 16 else 0
def SlotSt.ofByte (n : Nat) : SlotSt := ⟨n.testBit 3, Kind.ofCode (n % 8), n.testBit 4⟩

/-- The bytes that FRAME holds of a context: its slots, and the entries of each FIFO from the head. -/
def State.frameOf (s : State) (c : Nat) (v : Ctx) : List Byte := Memory.read s.mem (frameAddr c v.fp) (64 * v.slots.length)
def State.fifosOf (s : State) (c : Nat) (v : Ctx) : List (List Byte) :=
  v.fifos.map fun q => (List.range q.ents.length).flatMap fun n => Memory.read s.mem (q.addr c n) 64

/-- The bobbin live sets: a count and that many values for each dynamic field (R354). -/
def State.saveLive (s : State) (c x : Nat) : List Byte :=
  let v := s.cx c x
  let img := v.lau.image
  ((List.range (imgNfields img)).filter (fieldDynamic img)).flatMap fun f =>
    let l := ((v.bobLive.filter (·.1 == f)).map (·.2) ++ s.liveSet c x f).eraseDups
    natBytes 8 l.length ++ l.flatMap (natBytes 8)

/-- Up to a multiple of 64. -/
def up64 (n : Nat) : Nat := (n + 63) / 64 * 64

/-- What stands before the entries of a FIFO: their number, the slot, the depth, and a byte for each entry, its kind in bits 2:0
and the vector form in bit 3. -/
def Fifo.head64 (k : Nat) (q : Fifo) : List Byte :=
  padTo64 k (natBytes 8 q.ents.length ++ natBytes 4 q.slot ++ natBytes 4 q.depth ++
    q.ents.flatMap fun e => natBytes 1 (e.1.code + 8 * b2n e.2))

/-- The save image (R354). -/
def State.saveImage (s : State) (c x k : Nat) : List Byte :=
  let v := s.cx c x
  let bs := s.saveHead c x k ++ s.saveFixed c x k ++ (s.ctxRecords c x).flatMap fun r => natBytes 64 r.encode
  let bs := padTo64 k (bs ++ v.kept.flatMap Kept.bytes)
  let bs := (s.pendingCmds c x).foldl (fun bs m => padTo64 k (bs ++ m.bytes)) bs
  let bs := padTo64 k (bs ++ s.saveLive c x)
  let bs := padTo64 k (bs ++ s.frameOf c v ++ v.slots.flatMap fun t => natBytes 1 t.byte)
  bs ++ (List.zipWith (fun q l => q.head64 k ++ l) v.fifos (s.fifosOf c v)).flatten

/-! ## Save -/

/-- A number that no saved context has. -/
def State.saveId (s : State) : Nat :=
  let ids := s.parts.flatMap fun p => p.pool.map (·.id)
  ((List.range (ids.length + 1)).find? fun n => !ids.contains n).getD 0

/-- A quiescent context leaves its core with everything that is its own; `area` are the lines of its save area (R353,
R355). Commands of port 40 stay with the core under the number of the saved context. -/
def State.saveCtx (s : State) (c x : Nat) (area : List Nat) : State :=
  match s.partOfCore c with
  | none => s
  | some p =>
    let id := s.saveId
    let s := s.renameMember (c, x) (c, 8 + id)
    let k := s.core c
    let v := s.cx c x
    let mine := k.cmds.filter fun m => m.f.ctx == x
    let stays (m : Cmd) : Bool := isColl m.i || isNet m.i
    let recs := (k.rbuf.filter (·.ctx == x)).mapIdx fun n r => (n, r)
    let tags := ((List.range 64).filter (bit v.ctl.ctagmask)).map fun t => (t, k.ctag t)
    let e : Saved :=
      { id, core := c, ctx := x, area, cx := { v with takeIn := none, ctl := { v.ctl with pending := false } }, tags, recs,
        fregs := k.fregs.filter (·.ctx == x),
        cmds := mine.filter fun m => m.st != .finished && !stays m,
        frame := s.frameOf c v, fifoBytes := s.fifosOf c v,
        time := s.dcyc }
    let s := s.setCore c { k with
      fregs := k.fregs.filter (·.ctx != x),
      cmds := (k.cmds.filter fun m => m.f.ctx != x || stays m).map fun m =>
        if m.f.ctx == x then { m with f := { m.f with ctx := 8 + id } } else m }
    let s := s.freeCtx c x
    let u := s.part p
    s.setPart p { u with pool := u.pool ++ [e] }

/-! ## Restore -/

/-- A tag under another context number (R43). -/
def tagInCtx (x : Nat) (t : Word) : Word := BitVec.ofNat 64 (t.toNat % 2 ^ 61 + x % 8 * 2 ^ 61)

/-- Where a saved context goes: a panel of the saved count, else of the largest smaller variant for which there is a place
(R355). -/
def State.restorePanel (s : State) (c x : Nat) (v : Ctx) : Option Panel :=
  match v.panel with
  | none => none
  | some p =>
    let img := v.lau.image
    let k := s.core c
    let at_ (n : Nat) : Option Panel :=
      (k.placesFor x v.lau.excl (variantRows img n) (variantCols img n) n p.launched).head?
    match at_ p.variant with
    | some q => some { q with selfIn := p.selfIn }
    | none =>
      let less := (List.range (imgNvariants img)).filter fun n => variantQuads img n < p.count
      let best := less.foldl (fun (b : Option (Nat × Panel)) n => match at_ n with
        | none => b
        | some q => match b with
          | none => some (variantQuads img n, q)
          | some o => if o.1 < variantQuads img n then some (variantQuads img n, q) else b) none
      best.map fun b => { b.2 with selfIn := p.selfIn }

/-- Places in FRAME for a frame and its FIFOs, one after the other (R62). -/
def Core.frameAlloc (k : Core) (nslots : Nat) (depths : List Nat) : Option (Nat × List Nat) :=
  match k.frameFit [] (64 * nslots) with
  | none => none
  | some fp =>
    let r := depths.foldl (fun (b : Option (List (Nat × Nat))) d => match b with
      | none => none
      | some l => (k.frameFit l (64 * d)).map fun a => l ++ [(a, 64 * d)]) (some [(fp, 64 * nslots)])
    r.map fun l => (fp, (l.drop 1).map (·.1))

/-- Old and new numbers of the records that return to replay buffers, in the lowest free slots of their ports. -/
def placeRecords (rb : List RSlot) (x : Nat) : List RSlot → List RSlot × List (Nat × Nat)
  | [] => (rb, [])
  | r :: rs =>
    let n := ((List.range 32).find? fun n => !rb.any fun o => o.port == r.port && o.slot == n).getD 0
    let (rb', m) := placeRecords ({ r with slot := n, ctx := x } :: rb) x rs
    (rb', (32 * r.port + r.slot, 32 * r.port + n) :: m)

/-- Is there room in the replay buffers of a core for the records? -/
def State.roomFor (s : State) (c : Nat) (rs : List RSlot) : Bool :=
  rs.all fun r => ((s.core c).rbuf.filter (·.port == r.port)).length + (rs.filter (·.port == r.port)).length ≤ 32

def reNum (m : List (Nat × Nat)) (n : Nat) : Nat := ((m.find? (·.1 == n)).map (·.2)).getD n

/-- A FAULT value names its record by its new number (R356). -/
def reVal (m : List (Nat × Nat)) (k : Kind) (v : Val) : Val :=
  if k.isFault then faultVal (reNum m (v.scalar.toNat % 65536)) else v

def reFiring (c x : Nat) (f : Firing) : Firing :=
  let t (o : Option Tok) : Option Tok := o.map fun k => { k with tag := tagInCtx x k.tag }
  { f with core := c, ctx := x, tag := tagInCtx x f.tag, l := t f.l, r := t f.r, p := t f.p }

def reWant (x : Nat) (w : Want) : Want := { w with tag := tagInCtx x w.tag }
def reExit (x : Nat) (e : Exit) : Exit := { e with tag := tagInCtx x e.tag }

/-- The context under its new place and record numbers (R356). -/
def Ctx.moved (v : Ctx) (c x : Nat) (m : List (Nat × Nat)) : Ctx :=
  let cause := v.ctl.tcause.toNat
  let old := cause / 2 ^ 16 % 2 ^ 16
  { v with
    ctl := { v.ctl with
      tcause := BitVec.ofNat 64 (cause - old * 2 ^ 16 + reNum m old * 2 ^ 16),
      ttag := if v.trapped.isSome then tagInCtx x v.ctl.ttag else v.ctl.ttag },
    want := v.want.map (reWant x), hWant := v.hWant.map (reWant x),
    trapped := v.trapped.map fun t =>
      { t with tag := tagInCtx x t.tag, num := reNum m t.num, exit := t.exit.map (reExit x) },
    recTab := v.recTab.map fun r => (r.1, { r.2 with tag := tagInCtx x r.2.tag }),
    pend := v.pend.map fun q => { q with f := reFiring c x q.f },
    kept := v.kept.map fun k => { k with out := k.out.map fun o => (o.1, reVal m o.1 o.2) },
    groups := v.groups.map fun g =>
      { g with tag := tagInCtx x g.tag } }

/-- A completion tag under its new owner and record number; `old` is the context that held it. -/
def Ctag.moved (g : Ctag) (old x : Nat) (m : List (Nat × Nat)) : Ctag :=
  { g with owner := g.owner.map fun o => if o.ctx == old then { o with ctx := x } else o,
           mark := match g.mark with
             | .fault n => .fault (reNum m n)
             | k => k }

/-- Do resident contexts outside the group of a saved one hold tags that it held? -/
def State.tagsTaken (s : State) (c : Nat) (v : Ctx) : Bool :=
  ((s.core c).cxs.mapIdx fun n o => (n, o)).any fun t =>
    t.2.phase != .free && !v.lau.members.contains (c, t.1) && t.2.ctl.ctagmask &&& v.ctl.ctagmask != 0

/-- Commands of a restored context on its core: those that an engine has accepted take new order numbers there, in their
order (R249). -/
def State.adoptCmds (s : State) (c x : Nat) (ms : List Cmd) : State :=
  ms.foldl (fun s m =>
    let m := { m with f := reFiring c x m.f }
    if m.ord = 0 then s.addCmd c m
    else
      let (s, ord) := s.takeOrd c
      s.addCmd c { m with ord }) s

/-- The FIFO bytes with the record numbers of FAULT entries renamed. -/
def refifo (m : List (Nat × Nat)) (q : Fifo) (bs : List Byte) : List Byte :=
  (q.ents.mapIdx fun n e =>
    let b := (bs.drop (64 * n)).take 64
    if e.1.isFault then natBytes 2 (reNum m (bytesNat b 0 2)) ++ b.drop 2 else b).flatten

/-- Nodes that a STOP record holds are frozen again; one whose record has been repaired is retried (R356). -/
def State.refreeze (s : State) (c x : Nat) (nums : List (Nat × Nat)) (rs : List RSlot) : State :=
  rs.foldl (fun s r =>
    if !r.fr.frozen then s
    else
      let s := s.freeze c r.fr.node x
      if r.fr.repaired then s.retryNode c x r.fr.node (reNum nums (32 * r.port + r.slot)) else s) s

/-- A saved context is bound to a free context of a core and filled (R355, R356); `none` without tags, FRAME or quads. -/
def State.restoreCtx (s : State) (p : Nat) (e : Saved) (c x : Nat) : Option State :=
  let k := s.core c
  let v := e.cx
  if s.tagsTaken c v then none
  else match k.frameAlloc v.slots.length (v.fifos.map (·.depth)), s.restorePanel c x v with
    | some (fp, bases), some panel =>
      let rs := e.recs.map (·.2)
      let (rbuf, nums) := placeRecords k.rbuf x (rs.map fun r => { r with fr := { r.fr with tag := tagInCtx x r.fr.tag } })
      let fregs := e.fregs.map fun g =>
        { g with ctx := x, ord := 0, num := if g.num < 0x8000 then reNum nums g.num else g.num,
                 fr := { g.fr with tag := tagInCtx x g.fr.tag } }
      let fifos := List.zipWith (fun (q : Fifo) b => { q with base := b, head := 0 }) v.fifos bases
      let v := v.moved c x nums
      let v : Ctx := { v with fp, fifos, panel := some panel, rlimUsed := 0, rlimStart := k.cycle.toNat }
      let bytes := place (frameAddr c fp) e.frame ++
        (List.zip fifos e.fifoBytes).flatMap fun t => place (frameAddr c t.1.base) (refifo nums t.1 t.2)
      let waiting := (s.core e.core).cmds.filter fun m => m.f.ctx == 8 + e.id
      let s := s.setCore e.core { s.core e.core with cmds := (s.core e.core).cmds.filter fun m => m.f.ctx != 8 + e.id }
      let s := waiting.foldl (fun s m => if m.st = .consumed || (isNet m.i && m.st = .started) then
        s.endWrites e.core m.ord 4 else s) s
      let k := s.core c
      let s := s.setCore c { k with
        rbuf, fregs := fregs ++ k.fregs.filter (·.ctx != x),
        ctags := e.tags.foldl (fun l t => l.set t.1 (t.2.moved e.ctx x nums)) k.ctags }
      let s := s.adoptCmds c x (e.cmds ++ waiting)
      let s := s.setCx c x v
      let s := { s with mem := Memory.putAll s.mem bytes }
      let u := s.part p
      let s := (s.setPart p { u with pool := u.pool.filter (·.id != e.id) }).renameMember (e.core, 8 + e.id) (c, x)
      let s := (s.loadPanel c x).moveFirings c x
      some (s.refreeze c x nums rs)
    | _, _ => none

/-! ## TAKE_IN -/

/-- Is a CTXSAVE of the context in progress? -/
def State.savedBy (s : State) (c x : Nat) : Bool :=
  (s.core c).cmds.any fun m => match m.i with
    | .ctxsave w => m.status == 0 && saveTarget w == x
    | _ => false

/-- TAKE_IN (R351): with nothing in flight the context moves to the largest smaller variant within the limit; without one,
and when the dispatcher wants its context, it is saved into the save pool once it is quiescent (R353). -/
def execTakeIn (core ctx : Nat) (s : State) : Out :=
  let v := s.cx core ctx
  match v.takeIn with
  | none => .next s
  | some t =>
    if !v.movable || !v.still || v.quadsNow < t.quads || s.savedBy core ctx then .next s
    else match (v.smaller t.quads).bind fun n => v.panelOf n t.bySelf with
      | some p => .next (s.movePanel core ctx p)
      | none =>
        let s := s.discardTokens core ctx
        if s.quiescent core ctx then .next ((s.saveCtx core ctx []).wakeDoors) else .next s

/-! ## CTXSAVE and CTXREST finish -/

/-- A command of port 63 finishes with a status (R355). -/
def State.finishSave (s : State) (c k : Nat) (m : Cmd) (status : Nat) : State :=
  ((s.dropCmd c k).cmdEmit m .data (scNat status)).complete c m .none

/-- A failed access to the save area (R141): it waits at the frozen port and is issued again, or emits CHAFF or FAULT. -/
def State.saveFails (s : State) (c k : Nat) (m : Cmd) (e : AccErr) (kind : AKind) : State :=
  let p := portOf m.f.elem
  let s := s.dropCmd c k
  match s.accessFails m.f p p 0 e 0 kind with
  | (s, .frozen) => (s.freeTag c m.ctag).addPend ⟨m.i, m.f, .frozen p, 0⟩
  | (s, .chaff) => (s.cmdEmit m .chaff (.sc 0)).complete c m .chaff
  | (s, .fault n) => (s.cmdEmit { m with ctag := none } .fault (faultVal n)).freeTag c m.ctag

/-- The image of a quiescent context is written, and the context leaves (R355); `s0` waits for a link (R396). -/
def State.writeImage (s : State) (c k x : Nat) (m : Cmd) (s0 : State) : State :=
  let bs := s.saveImage c x s.draw
  let a := m.f.lval.scalar.toNat
  let vas := vasIf a 64 bs.length
  if m.f.rval.scalar.toNat < bs.length then (s.endTakeIn c x).finishSave c k m 4
  else if s.walkStalls c vas then s0
  else
    let s := s.fillTlb c vas
    match s.check c .store a bs.length 64 with
    | .error e => (s.endTakeIn c x).saveFails c k m e .store
    | .ok pas =>
      if s.linkDown c pas then s0
      else
        let s := ((s.markLines pas).writeIsland c m.scope (List.zip pas bs)).finishSave c k m 0
        let lines := (List.range (bs.length / 64)).filterMap fun n => pas[64 * n]?
        ({ s with draw := s.draw + 1 }.saveCtx c x lines).wakeDoors

/-- CTXSAVE_COMPLETION (R355): `k` is the place of the command on its core. -/
def execCtxsaveCompletion (core k : Nat) (s : State) : Out :=
  match s.cmd? core k with
  | some m => match m.i with
    | .ctxsave w =>
      let x := saveTarget w
      let v := s.cx core x
      if s.portFull core (portOf m.f.elem) then .next s
      else if m.status ≠ 0 then .next (s.finishSave core k m m.status)
      else if !v.movable || v.takeIn.isNone then .next (s.finishSave core k m 1)
      else if !v.still then .next s
      else
        let t := s.discardTokens core x
        if !t.quiescent core x then .next t else .next (t.writeImage core k x m t)
    | _ => .next s
  | none => .next s

/-! ## Reading an image -/

/-- A register of the image. -/
def imageReg (bs : List Byte) (n : Nat) : Word := BitVec.ofNat 64 (bytesNat bs (64 + 8 * n) 8)

/-- A link stack from its section. -/
def linksOf (bs : List Byte) (off : Nat) : List Nat :=
  ((List.range 8).map fun n => bytesNat bs (off + 8 * n) 8).takeWhile (· != 2 ^ 64 - 1)

/-- The places of `n` blocks that follow one another from `o` on, each with its count in a dword at its head and its size
given by that, and the end of the last. -/
def blocksAt (size : Nat → Nat) (bs : List Byte) : Nat → Nat → List Nat × Nat
  | 0, o => ([], o)
  | n + 1, o =>
    let r := blocksAt size bs n (o + size (bytesNat bs o 8))
    (o :: r.1, r.2)

/-- Where the sections of an image begin, by its counts (R354). -/
def keptAt (bs : List Byte) : Nat := recOff (bytesNat bs 36 4)
def cmdsAt (bs : List Byte) : Nat := keptAt bs + up64 (32 * bytesNat bs 40 4)
def liveAt (bs : List Byte) : Nat := cmdsAt bs + 64 * bytesNat bs 44 4
def dynFields (img : List Word) : List Nat := (List.range (imgNfields img)).filter (fieldDynamic img)
def liveBlocks (img : List Word) (bs : List Byte) : List Nat × Nat :=
  blocksAt (fun n => 8 + 8 * n) bs (dynFields img).length (liveAt bs)
def slotsAt (img : List Word) (bs : List Byte) : Nat := up64 (liveBlocks img bs).2
def fifosAt (img : List Word) (bs : List Byte) : Nat := slotsAt img bs + up64 (65 * bytesNat bs 34 2)
def fifoHead (n : Nat) : Nat := up64 (16 + n)
def fifoBlocks (img : List Word) (bs : List Byte) : List Nat × Nat :=
  blocksAt (fun n => fifoHead n + 64 * n) bs (min (bytesNat bs 216 8) (inList img).length) (fifosAt img bs)

/-- How many bytes of an image are needed, as far as the bytes read so far tell: up to the first count that they lack, else all
of it. -/
def imageNeeds (img : List Word) (bs : List Byte) : Nat :=
  let lacks (l : List Nat) (h : Nat) : Option Nat := (l.find? fun o => bs.length < o + h).map (up64 <| · + h)
  ((lacks (liveBlocks img bs).1 8).or (lacks (fifoBlocks img bs).1 16)).getD (fifoBlocks img bs).2

/-- An island reads `n` bytes at an address aligned to 64, once the translations are made; `none` while a failed link lies
between (R396). -/
def State.readSpan (s : State) (c a n : Nat) : Option (State × Except AccErr (List Byte)) :=
  let vas := vasIf a 64 n
  if s.walkStalls c vas then none
  else
    let s := s.fillTlb c vas
    match s.check c .island a n 64 with
    | .error e => some (s, .error e)
    | .ok pas => if s.linkDown c pas then none else some (s, .ok (s.readPas c pas))

/-- A whole image is read, as far as its counts go. -/
def State.readImage (img : List Word) (c a : Nat) : Nat → Nat → State → Option (State × Except AccErr (List Byte))
  | 0, _, _ => none
  | fuel + 1, n, s => match s.readSpan c a n with
    | some (s, .ok bs) => if imageNeeds img bs ≤ n then some (s, .ok bs) else State.readImage img c a fuel (imageNeeds img bs) s
    | r => r

/-- How often an image is read at most: each reading tells one count more. -/
def imageReads (img : List Word) : Nat := imgNfields img + (inList img).length + 2

/-! ## Restoring the sections -/

/-- The entries of a section: each is the one of `base` that has the same bytes, else what the bytes say by themselves. -/
def readBack {α : Type} (bytes : α → List Byte) (fresh : List Byte → Option α) : List α → List (List Byte) → List α
  | _, [] => []
  | base, b :: bs => match base.find? fun a => bytes a == b with
    | some a => a :: readBack bytes fresh (base.eraseP fun a => bytes a == b) bs
    | none => (fresh b).toList ++ readBack bytes fresh base bs

/-- `n` pieces of an image, of `len` bytes each, `step` bytes apart from `o` on. -/
def pieces (bs : List Byte) (o n step len : Nat) : List (List Byte) :=
  (List.range n).map fun j => (bs.drop (o + step * j)).take len

/-- What the image in memory gives a restored context: its registers, sk0 to sk15, link stacks, resume points, counters and
speculation slots (R354). -/
def Ctx.fromHead (v : Ctx) (bs : List Byte) : Ctx :=
  let r := imageReg bs
  let l := v.ctl
  let l := { l with cancel := bit (r 3) 0, priv := bit (r 11) 0, rlim := r 10, tcause := r 12, tseq := r 13, ttag := r 14,
                    tblk := r 15 }
  let l := [4, 6, 7, 8].foldl (fun l n => Ctl.write l n (r n)) l
  let resume (w : Want) : Want :=
    { w with blk := bytesNat bs 32 2, tag := BitVec.ofNat 64 (bytesNat bs 24 8), seq := bytesNat bs 16 8,
             links := linksOf bs 1280 }
  { v with
    ctl := l, sks := (List.range 16).map fun n => BitVec.ofNat 512 (bytesNat bs (256 + 64 * n) 64),
    want := v.want.map resume, links := linksOf bs 1280, nextSeq := bytesNat bs 16 8,
    trapped := v.trapped.map fun t =>
      { t with blk := bytesNat bs 32 2, tag := BitVec.ofNat 64 (bytesNat bs 24 8), seq := bytesNat bs 16 8,
               links := linksOf bs 1280 },
    hWant := v.hWant.map fun w =>
      { w with seq := bytesNat bs 1408 8, tag := BitVec.ofNat 64 (bytesNat bs 1416 8), links := linksOf bs 1344 },
    bobNext := (List.range 7).map fun n => bytesNat bs (1536 + 8 * n) 8,
    specs := (List.range 4).map fun n => ⟨bytesNat bs (1608 + 16 * n) 1 == 1, bytesNat bs (1600 + 16 * n) 8⟩ }

/-- A fault record from its 64 bytes (R339); none where it is not valid. -/
def FRec.ofBytes (b : List Byte) : Option FRec :=
  let n (o w : Nat) : Nat := bytesNat b o w
  let flag (j : Nat) : Bool := (n 19 1).testBit j
  if !flag 0 then none
  else some { tag := BitVec.ofNat 64 (n 0 8), addr := BitVec.ofNat 64 (n 8 8), kind := n 16 1, lsid := n 17 1, node := n 18 1,
              repaired := flag 1, refused := flag 2, repair := flag 3, frozen := flag 4, sseq := n 20 4,
              hdl := (n 31 1).testBit 7, seq := n 24 8 % 2 ^ 63, index := n 32 2, bno := n 34 2, cgen := n 36 1,
              detail := BitVec.ofNat 64 (n 40 8) }

/-- Is a record one of the record table (R340)? -/
def FRec.inTable (r : FRec) : Bool := 8 ≤ r.kind && r.kind ≤ 12

/-- The record number of the marking record of an image, which is the one that `ctl.trec` shows (R356). -/
def markingNum (bs b : List Byte) : Option Nat :=
  if (bs.drop 1728).take 64 == b then some ((imageReg bs 12).toNat / 2 ^ 16 % 2 ^ 16) else none

/-- A record of the replay buffers that only the image tells of: at its selvage port, or at the port that serves its element.
Only the number of the marking record is known; another's is one that no FAULT token names. -/
def freshSlot (x : Nat) (bs b : List Byte) : Option RSlot :=
  (FRec.ofBytes b).bind fun r =>
    if r.inTable then none
    else match markingNum bs b with
      | some n => some ⟨n / 32, n % 32, x, 0, none, r⟩
      | none => some ⟨if r.node < 32 then r.node else portOf (elemAt 0 (r.index / 32)), 2 ^ 16, x, 0, none, r⟩

/-- A record of the record table that only the image tells of: under the number of the marking record, else in the half of its
strand. -/
def freshEntry (bs b : List Byte) : Option (Nat × FRec) :=
  (FRec.ofBytes b).bind fun r =>
    if !r.inTable then none
    else some (match markingNum bs b with
      | some n => n % 16
      | none => if r.hdl then 8 + r.seq % 8 else r.seq % 8, r)

/-- A kept result that only the image tells of. -/
def freshKept (b : List Byte) : Option Kept :=
  some ⟨(bytesNat b 7 1).testBit 7, bytesNat b 0 8 % 2 ^ 63, bytesNat b 8 8,
    [(Kind.ofCode (bytesNat b 24 8 % 8), .sc (BitVec.ofNat 64 (bytesNat b 16 8)))]⟩

/-- A pending command that only the image tells of: its operands, for which the 64 bytes have no room, are free values, by the
number `n` of the restore. It is issued again, but for an intersect walk. -/
def freshCmd (n c x : Nat) (b : List Byte) : Option Cmd :=
  match decodeWord (BitVec.ofNat 64 (bytesNat b 0 8)) with
  | .error _ => none
  | .ok i =>
    let tag := BitVec.ofNat 64 (bytesNat b 8 8)
    let idx := bytesNat b 24 2
    let lost (side : Nat) : Option Tok :=
      some ⟨tag, .data, .vec (BitVec.ofNat 512 (bytesToNat (freeBytes n (128 * idx + 64 * side) 64)))⟩
    let f : Firing :=
      { core := c, elem := elemAt 0 (idx / 32), ctx := x, hdl := bytesNat b 46 1 == 1, seq := bytesNat b 16 8, idx, tag,
        blk := bytesNat b 44 2, l := lost 0, r := lost 1, p := none }
    let ctag := bytesNat b 47 1
    let m := mkCmd i f (bytesNat b 26 1) (if ctag < 64 then some ctag else none) (bytesNat b 48 1)
    let m := { m with frozen := bytesNat b 27 1 == 1, j := bytesNat b 28 4, p := bytesNat b 32 4, q := bytesNat b 36 4,
                      m := bytesNat b 40 4 }
    some (match i with
      | .intsect _ | .spflush _ => { m with st := .accepted }
      | _ => m)

/-- The completion tags that an image grants, in the state that it gives; one of `e` that it writes in the same way is taken
whole. -/
def Saved.tagsFrom (e : Saved) (bs : List Byte) : List (Nat × Ctag) :=
  let next := bytesNat bs 16 8
  let hNext := bytesNat bs 1408 8
  ((List.range 64).filter (bit (imageReg bs 2))).map fun t =>
    let b := bytesNat bs (1664 + t) 1
    let d := bytesNat bs (tagEntries + 4 * t) 4
    let hdl := d.testBit 27
    let back := d / 2 ^ 23 % 16
    let owner : Option Owner :=
      if !b.testBit 4 || back = 15 then none
      else some ⟨e.ctx, hdl, (if hdl then hNext else next) - back, d / 2 ^ 16 % 128⟩
    let mark : Mark := if b / 4 % 4 = 0 then .none else if b / 4 % 4 = 1 then .chaff else .fault (d % 2 ^ 16)
    match e.tags.find? fun o => o.1 == t && o.2.byte e.ctx == b && o.2.entry next hNext == d with
    | some o => o
    | none => (t, ⟨if b % 4 = 0 then .free else if b % 4 = 1 then .busy else .done, owner, mark, 0⟩)

/-- A FIFO from its block at `o` of an image; what the block does not say is that of the same slot of `l`. -/
def fifoFrom (l : List Fifo) (bs : List Byte) (o : Nat) : Fifo :=
  let slot := bytesNat bs (o + 8) 4
  let depth := bytesNat bs (o + 12) 4
  let q := (l.find? (·.slot == slot)).getD
    { slot, depth, base := 0, head := 0, ents := [], transit := [], window := depth, credits := 0, src := none, scope := 0,
      widened := false }
  { q with ents := (List.range (bytesNat bs o 8)).map fun j =>
      let b := bytesNat bs (o + 16 + j) 1
      (Kind.ofCode (b % 8), b.testBit 3) }

/-- What a whole image gives a saved context: every section of it (R355). What its bytes do not say is that of `e`; `n` numbers
the free values. -/
def Saved.fromImage (e : Saved) (n : Nat) (bs : List Byte) : Saved :=
  let img := e.cx.lau.image
  let rb := pieces bs 2048 (bytesNat bs 36 4) 64 64
  let recs := readBack (fun r : RSlot => natBytes 64 r.fr.encode) (freshSlot e.ctx bs)
    ((e.recs.filter (·.1 != 0xFFFF)).map (·.2)) rb
  let table := readBack (fun r : Nat × FRec => natBytes 64 r.2.encode) (freshEntry bs) e.cx.recTab rb
  let alone := e.area.isEmpty
  let cmds := readBack (fun m : Cmd => m.bytes) (fun b => if alone then freshCmd n e.core e.ctx b else none) e.cmds
    (pieces bs (cmdsAt bs) (bytesNat bs 44 4) 64 49)
  let slots := bytesNat bs 34 2
  let off := slotsAt img bs
  let fb := (fifoBlocks img bs).1
  let tags := e.tagsFrom bs
  let done (m : Cmd) : Bool := m.ctag.any fun t => tags.any fun o => o.1 == t && o.2.st == .done
  { e with
    tags, recs := (recs.map fun r => (0, r)) ++ e.recs.filter (·.1 == 0xFFFF), cmds := cmds.filter fun m => !done m,
    cx := { e.cx.fromHead bs with
      recTab := table,
      kept := readBack Kept.bytes freshKept e.cx.kept (pieces bs (keptAt bs) (bytesNat bs 40 4) 32 32),
      bobLive := (List.zip (dynFields img) (liveBlocks img bs).1).flatMap fun t =>
        (List.range (bytesNat bs t.2 8)).map fun j => (t.1, bytesNat bs (t.2 + 8 + 8 * j) 8),
      slots := (List.range slots).map fun j => SlotSt.ofByte (bytesNat bs (off + 64 * slots + j) 1),
      fifos := fb.map (fifoFrom e.cx.fifos bs) },
    frame := (bs.drop off).take (64 * slots),
    fifoBytes := fb.map fun o => (bs.drop (o + fifoHead (bytesNat bs o 8))).take (64 * bytesNat bs o 8),
    fregs := if alone then recs.filterMap fun r =>
        if r.fr.frozen then some ⟨r.fr.node, e.ctx, 32 * r.port + r.slot, r.fr, 0⟩ else none
      else e.fregs }

/-- The saved context of a partition that an image stands for: the context, core and incarnation are those of a saved one. -/
def State.savedOf (s : State) (p : Nat) (bs : List Byte) : Option Saved :=
  (s.part p).pool.find? fun e => e.ctx == bytesNat bs 6 1 && e.core == bytesNat bs 7 1 &&
    e.cx.lau.handle == bytesNat bs 8 2 && e.cx.cgen.toNat == bytesNat bs 10 1 && !e.area.isEmpty

/-- The context of an image that no saved context of the machine answers to, such as a copy, or one restored before: a context of
default priority in a group of its own, into which every section of the image is read (DESIGN CHOICE, log 14). -/
def State.savedFrom (s : State) (p : Nat) (img : List Word) (bs : List Byte) : Saved :=
  let handler := bit (BitVec.ofNat 64 (bytesNat bs 11 1)) 0
  let failed := bit (BitVec.ofNat 64 (bytesNat bs 11 1)) 1
  let n := variantOfCount img (bytesNat bs 12 1)
  let panel := n.map fun n => (⟨0, 0, variantRows img n, variantCols img n, n, bytesNat bs 13 1, false⟩ : Panel)
  let num := (imageReg bs 12).toNat / 2 ^ 16 % 2 ^ 16
  let v : Ctx := { Ctx.reset with
    phase := if failed then .failed else .running, cgen := BitVec.ofNat 8 (bytesNat bs 10 1),
    lau := { Ctx.reset.lau with part := p, handle := bytesNat bs 8 2, image := img, when := s.dcyc },
    panel,
    ctl := { Ctl.reset with ctagmask := imageReg bs 2, rpend := imageReg bs 9, inHandler := handler },
    want := if handler || failed then none else some ⟨0, 0, 0, []⟩,
    hWant := if handler then some ⟨imgHandler img, 0, 0, []⟩ else none,
    hNext := bytesNat bs 1408 8,
    trapped := if handler then some ⟨0, 0, 0, [], num, none⟩ else none }
  { id := s.saveId, core := bytesNat bs 7 1, ctx := bytesNat bs 6 1, area := [], cx := v, tags := [], recs := [],
    fregs := [], cmds := [], frame := [], fifoBytes := [], time := s.dcyc }

/-- The image of a context (R354, R355): `none` where magic, version or handle are wrong. -/
def State.imageOk (s : State) (p : Nat) (bs : List Byte) : Option Image :=
  if bytesNat bs 0 4 ≠ 0x5A7E0D72 ∨ bytesNat bs 4 2 ≠ 1 then none else (s.part p).installed (bytesNat bs 8 2)

/-- An image of an installed handle is read as a whole and its context restored (R355). Records wait for free entries (R356). -/
def State.restoreImage (s : State) (p c k x : Nat) (m : Cmd) (img : List Word) : State :=
  match State.readImage img c m.f.lval.scalar.toNat (imageReads img) 2048 s with
  | none => s
  | some (s, .error e) => s.saveFails c k m e .island
  | some (s, .ok bs) =>
    let e := ((s.savedOf p bs).getD (s.savedFrom p img bs)).fromImage s.draw bs
    if !s.roomFor c (e.recs.map (·.2)) then s
    else match ({ s with draw := s.draw + 1 }.finishSave c k m 0).restoreCtx p e c x with
      | some s => s
      | none => s.finishSave c k m 4

/-- CTXREST_COMPLETION (R355): the status, or the restored context. -/
def execCtxrestCompletion (core k : Nat) (s : State) : Out :=
  match s.cmd? core k with
  | some m => match m.i, s.partOfCore core with
    | .ctxrest w, some p =>
      let x := saveTarget w
      if s.portFull core (portOf m.f.elem) then .next s
      else if x = m.f.ctx then .next (s.finishSave core k m 2)
      else if (s.cx core x).phase ≠ .free then .next (s.finishSave core k m 1)
      else if !(s.cx core m.f.ctx).ctl.priv then .next (s.finishSave core k m 3)
      else match s.readSpan core m.f.lval.scalar.toNat 2048 with
        | none => .next s
        | some (s, .error e) => .next (s.saveFails core k m e .island)
        | some (s, .ok bs) => match s.imageOk p bs with
          | none => .next (s.finishSave core k m 5)
          | some im => .next (s.restoreImage p core k x m im.words)
    | _, _ => .next s
  | none => .next s

/-! ## SAVED_COMMAND_COMPLETION -/

/-- SAVED_COMMAND_COMPLETION (R353): the `k`-th command that waits for the `n`-th saved context of a partition completes;
its tag is DONE, with its mark, in the image. -/
def execSavedCommandCompletion (part n k status : Nat) (s : State) : Out :=
  match (s.part part).pool[n]? with
  | none => .next s
  | some e =>
    let all := ((s.core e.core).cmds.mapIdx fun j m => (j, m)).filter fun t => t.2.f.ctx == 8 + e.id
    match all[k]? with
    | none => .next s
    | some (j, m) =>
      if isColl m.i then execCollCompletion e.core j s else execNetCompletion e.core j status [] s

end Sys2Proof.Machine
end

