-- ==== Sys2Proof/Machine/Scheduler.lean ====
section
/-! DEFINITION. The dispatcher: candidates and their order (R361-R363), binding (R364, R365), pre-emption (R366). -/

namespace Sys2Proof.Machine

/-! ## Binding one record -/

/-- The channel-bound slots of member `m` of a unit, each with the depth that its sender declares (R53, R85). -/
def fifoDepths (imgs : List (List Word)) (m : Nat) : List (Nat × Nat) :=
  (inList (imgs.getD m [])).filterMap fun slot =>
    ((imgs.flatMap chanList).find? fun e => e.dimage == m && e.dslot == slot).map fun e => (slot, e.depth)

/-- The slots of a new frame and the bytes of the presets (R51, R358, R364). -/
def presetSlots (r : LRec) (n : Nat) : List SlotSt :=
  (List.range n).map fun k => ⟨r.slots.contains k, .data, false⟩

def presetBytes (r : LRec) (c fp : Nat) : List (Nat × Byte) :=
  (r.slots.mapIdx fun n k => place (frameAddr c (fp + 64 * k)) (natBytes 8 (r.vals.getD n 0).toNat)).flatten

/-- A record is bound to a free context and a panel: the third and fourth bullets of R364; `none` without room in
FRAME. -/
def State.bindOne (s : State) (p : Nat) (imgs : List (List Word)) (m : Nat) (r : LRec) (c x : Nat) (panel : Panel) :
    Option State :=
  let img := imgs.getD m []
  let ds := fifoDepths imgs m
  match (s.core c).frameAlloc (imgNslots img) (ds.map (·.2)) with
  | none => none
  | some (fp, bases) =>
    let fifos := List.zipWith (fun (d : Nat × Nat) b =>
      ({ slot := d.1, depth := d.2, base := b, head := 0, ents := [], transit := [], window := d.2, credits := 0,
         src := none, scope := 0, widened := false } : Fifo))
      ds bases
    let lau : Lau :=
      { part := p, handle := r.handle, image := img, prio := r.prio, preempt := r.preempt, excl := r.excl, key := r.key,
        when := s.dcyc, members := [] }
    let v : Ctx := { Ctx.reset with
      phase := .running, cgen := (s.cx c x).cgen + 1, lau, panel := some panel, fp,
      slots := presetSlots r (imgNslots img), fifos,
      ctl := { Ctl.reset with ctagmask := r.tags, priv := r.priv },
      rlimStart := (s.core c).cycle.toNat,
      want := some ⟨blkFirst img, BitVec.ofNat 64 (x * 2 ^ 61), 0, []⟩ }
    let k := s.core c
    let s := s.setCore c { k with fregs := k.fregs.filter (·.ctx != x) }
    let s := { s.setCx c x v with mem := Memory.putAll s.mem (presetBytes r c fp) }
    some (s.loadPanel c x)

/-- Contexts of a core in use, and its lowest free context. -/
def Core.resident (k : Core) : Nat := (k.cxs.filter fun v => v.phase != .free).length
def Core.freeCtx? (k : Core) : Option Nat := k.cxs.findIdx? fun v => v.phase == .free

/-- Are requested tags held by a resident context outside the unit (R364)? -/
def Core.tagsBusy (k : Core) (c : Nat) (placed : List (Nat × Nat)) (tags : Word) : Bool :=
  (k.cxs.mapIdx fun n v => (n, v)).any fun t =>
    t.2.phase != .free && !placed.contains (c, t.1) && t.2.ctl.ctagmask &&& tags != 0

/-- Cores with the fewest resident contexts first, then the lowest number (R364). -/
def State.coreOrder (s : State) (cores : List Nat) : List Nat :=
  (List.range 9).flatMap fun n => cores.filter fun c => (s.core c).resident == n

/-- The members of a unit are placed in member order (R364): the first choice of each, and when that leaves a later member
without a place, the next; CTX and CORE members share one core, DIE members one die. -/
def bindMembers (p : Nat) (cores : List Nat) (imgs : List (List Word)) :
    List (Nat × LRec) → State → List (Nat × Nat) → Option Nat → Option Nat → Option (State × List (Nat × Nat))
  | [], s, placed, _, _ => some (s, placed)
  | (m, r) :: rest, s, placed, oneCore, oneDie =>
    let img := imgs.getD m []
    let sc := imgScope img
    let ok (c : Nat) : Bool := (2 ≤ sc || oneCore.all (· == c)) && (sc != 2 || oneDie.all (· == dieOf c))
    let (rows, cols) := (shapeOf r.quads).getD (1, 1)
    (s.coreOrder cores).findSome? fun c =>
      let k := s.core c
      match k.freeCtx? with
      | none => none
      | some x =>
        if !ok c || k.tagsBusy c placed r.tags then none
        else (k.placesFor x r.excl rows cols ((variantOfCount img r.quads).getD 0) r.quads).findSome? fun panel =>
          match s.bindOne p imgs m r c x panel with
          | none => none
          | some s' =>
            bindMembers p cores imgs rest s' (placed ++ [(c, x)])
              (if sc ≤ 1 then some c else oneCore) (if sc = 2 then some (dieOf c) else oneDie)

/-- A unit is bound: its members know each other, its tags are free on their cores but for those a mate holds, and the
binding acquires at PKG (R85, R364, R365). -/
def State.bindUnit (s : State) (p : Nat) (cores : List Nat) (recs : List LRec) : Option State :=
  let imgs := recs.map fun r => (((s.part p).installed r.handle).map (·.words)).getD []
  match bindMembers p cores imgs (recs.mapIdx fun n r => (n, r)) s [] none none with
  | none => none
  | some (s, placed) =>
    let s := if placed.length < 2 then s
      else placed.foldl (fun s t =>
        let v := s.cx t.1 t.2
        s.setCx t.1 t.2 { v with lau := { v.lau with members := placed } }) s
    some ((placed.map (·.1)).eraseDups.foldl State.cacheAcquire s)

/-! ## Candidates -/

/-- A candidate for dispatch: the head unit of a queue, or a saved context of the resume list (R362). -/
inductive Cand where
  | unit (q : Nat) (u : QUnit)
  | saved (e : Saved)

/-- Its place in the order: effective priority, the cycle it entered, whether it is a unit, the queue (R362). -/
structure CandAt where
  e : Nat
  entered : Nat
  queued : Nat
  q : Nat
  what : Cand

def CandAt.before (a b : CandAt) : Bool :=
  b.e < a.e || (a.e == b.e && (a.entered < b.entered || (a.entered == b.entered &&
    (a.queued < b.queued || (a.queued == b.queued && a.q < b.q)))))

def insertCand (a : CandAt) : List CandAt → List CandAt
  | [] => [a]
  | b :: bs => if b.before a then b :: insertCand a bs else a :: b :: bs

/-- Effective priority (R362). -/
def effPrio (prio waited : Nat) : Nat := min 7 (prio + waited / 2 ^ 20)

/-- The heads of the resume list: the longest saved context of each core, since a context returns to its own core alone (R362,
R366; DEDUCED, log 100). -/
def resumeHeads (l : List Saved) : List Saved :=
  l.foldl (fun hs e => if hs.any (·.core == e.core) then hs else hs ++ [e]) []

/-- The candidates of a partition in the order of R362. -/
def State.candidates (s : State) (p : Nat) : List CandAt :=
  let v := s.part p
  let units := (v.queues.mapIdx fun q o => (q, o)).filterMap fun t =>
    if !t.2.enabled then none
    else (t.2.units.head?).map fun u =>
      ⟨effPrio ((u.recs.map (·.prio)).foldl max 0) (s.dcyc - u.entered), u.entered, 1, t.1, Cand.unit t.1 u⟩
  let saved := ((resumeHeads (v.pool.filter (·.area.isEmpty))).mapIdx fun n e => (n, e)).map fun t =>
    ⟨effPrio t.2.cx.lau.prio (s.dcyc - t.2.time), t.2.time, 0, t.1, Cand.saved t.2⟩
  (units ++ saved).foldl (fun l a => insertCand a l) []

/-- The core set of a candidate. -/
def State.candCores (s : State) (p : Nat) : Cand → List Nat
  | .unit q _ => (s.part p).coreList.filter ((s.part p).queue q).cores.toNat.testBit
  | .saved e => (s.part p).coreList.filter (· == e.core)

/-- A candidate is bound, but not on the cores that another one reserves. -/
def State.tryCand (s : State) (p : Nat) (reserved : List Nat) (a : Cand) : Option State :=
  let cores := (s.candCores p a).filter fun c => !reserved.contains c
  match a with
  | .unit q u =>
    (s.bindUnit p cores u.recs).map fun s =>
      let qq := (s.part p).queue q
      s.setQueue p q { qq with units := qq.units.drop 1 }
  | .saved e => match cores.head? with
    | none => none
    | some c => match (s.core c).freeCtx? with
      | none => none
      | some x => if s.roomFor c (e.recs.map (·.2)) then s.restoreCtx p e c x else none

/-- The first of some candidates that can be bound, with the state after. -/
def State.firstBound (s : State) (p : Nat) (reserved : List Nat) (l : List CandAt) : Option (Cand × State) :=
  l.findSome? fun a => (s.tryCand p reserved a.what).map fun t => (a.what, t)

/-- What the dispatcher's step binds: the best candidate, else the best of the others; a best one of e = 7 that cannot be
bound holds its cores back (R362, R363). -/
def State.dispatchStep (s : State) (p : Nat) : Option (Cand × State) :=
  match s.candidates p with
  | [] => none
  | a :: rest => match s.tryCand p [] a.what with
    | some t => some (a.what, t)
    | none => s.firstBound p (if a.e = 7 then s.candCores p a.what else []) rest

/-! ## Pre-emption -/

/-- May the dispatcher pre-empt a context for a candidate of priority e (R366)? -/
def Ctx.victim (v : Ctx) (e : Nat) : Bool :=
  v.movable && v.lau.preempt && v.lau.prio < e && !v.takePending

/-- Contexts of some cores with their places. -/
def State.ctxsOn (s : State) (cores : List Nat) : List (Nat × Nat × Ctx) :=
  cores.flatMap fun c => (s.core c).cxs.mapIdx fun x v => (c, x, v)

/-- The victim with the lowest prio, then the one dispatched most recently (R366). -/
def pickVictim (l : List (Nat × Nat × Ctx)) : Option (Nat × Nat × Ctx) :=
  l.foldl (fun (b : Option (Nat × Nat × Ctx)) t => match b with
    | none => some t
    | some u =>
      if t.2.2.lau.prio < u.2.2.lau.prio || (t.2.2.lau.prio == u.2.2.lau.prio && u.2.2.lau.when < t.2.2.lau.when)
      then some t else b) none

/-- Does a candidate lack free contexts on its core set, its scopes considered (R364, R366)? -/
def State.lacksCtx (s : State) (p : Nat) (a : Cand) : Bool :=
  let cores := s.candCores p a
  let free (c : Nat) : Nat := 8 - (s.core c).resident
  match a with
  | .saved _ => cores.all fun c => free c == 0
  | .unit _ u =>
    let scs := u.recs.map fun r => ((((s.part p).installed r.handle).map fun m => imgScope m.words)).getD 0
    let near := (scs.filter (· ≤ 1)).length
    let die := (scs.filter (· == 2)).length
    -- with the CTX and CORE members on core `c` and the DIE members on die `d`
    let fits (c d : Nat) : Bool :=
      let left (o : Nat) : Nat := if o = c then free o - near else free o
      near ≤ free c && die ≤ ((cores.filter (dieOf · == d)).map left).sum && scs.length - near ≤ (cores.map left).sum
    !(cores.any fun c => (List.range 4).any (fits c))

/-- The quad limit of a take-in that leaves a rectangle clear: the count of the largest such variant, 0 for a save. -/
def Ctx.clearing (v : Ctx) (rect : Panel) : Nat :=
  let ks := (List.range (imgNvariants v.lau.image)).filter fun k =>
    variantQuads v.lau.image k < v.quadsNow &&
      ((v.panelOf k false).map fun o => !o.quads.any rect.quads.contains).getD false
  (ks.map (variantQuads v.lau.image)).foldl max 0

/-- Does a take-in or save of a context that is pending leave a rectangle clear? -/
def Ctx.leaves (v : Ctx) (rect : Panel) : Bool :=
  v.takeIn.any fun t => match (v.smaller t.quads).bind fun n => v.panelOf n t.bySelf with
    | some o => !o.quads.any rect.quads.contains
    | none => true

/-- A panel that EXCL asks for: its shape and count, and what else a core must have for it: the tags, but for those of the
contexts `own`, the frame and the FIFO depths. -/
structure Ask where
  shape : Nat × Nat
  count : Nat
  tags : Word
  own : List (Nat × Nat)
  nslots : Nat
  depths : List Nat

/-- A rectangle on a core, with the contexts in the way that are not leaving it already. -/
structure Room where
  core : Nat
  rect : Panel
  inWay : List (Nat × Nat × Ctx)

/-- The rectangles that an EXCL panel may get, off those already taken: on the cores that lack nothing else for it, where every
context in the way is leaving or may be pre-empted. -/
def State.exclPlaces (s : State) (cores : List Nat) (e : Nat) (taken : List Room) (q : Ask) : List Room :=
  (s.coreOrder cores).flatMap fun c =>
    let k := s.core c
    if k.freeCtx?.isNone || k.tagsBusy c q.own q.tags || (k.frameAlloc q.nslots q.depths).isNone then []
    else (rectangles q.shape.1 q.shape.2 0 q.count).filterMap fun p =>
      let inWay := (s.ctxsOn [c]).filter fun t =>
        t.2.2.phase != .free && (t.2.2.panel.map fun o => o.quads.any p.quads.contains).getD false && !t.2.2.leaves p
      if !(taken.any fun r => r.core == c && r.rect.quads.any p.quads.contains) && inWay.all fun t => t.2.2.victim e then
        some ⟨c, p, inWay⟩
      else none

/-- The rectangle that the dispatcher clears: one that is clear or being cleared, else the first that the best victim is in the
way of (R366). -/
def State.exclRoom (s : State) (cores : List Nat) (e : Nat) (taken : List Room) (q : Ask) : Option Room :=
  let all := s.exclPlaces cores e taken q
  (all.find? fun r => r.inWay.isEmpty).or
    ((pickVictim (all.flatMap (·.inWay))).bind fun v =>
      all.find? fun r => r.inWay.any fun t => t.1 == v.1 && t.2.1 == v.2.1)

/-- Such rectangles for all that ask for one, each off those of the others. -/
def State.exclRooms (s : State) (cores : List Nat) (e : Nat) (l : List Ask) : List Room :=
  l.foldl (fun taken q => taken ++ (s.exclRoom cores e taken q).toList) []

/-- What a candidate asks for with EXCL. -/
def State.asks (s : State) (p : Nat) : Cand → List Ask
  | .saved e => if !e.cx.lau.excl then [] else (e.cx.panel.map fun o =>
      ⟨(o.rows, o.cols), o.launched, e.cx.ctl.ctagmask, e.cx.lau.members, e.cx.slots.length, e.cx.fifos.map (·.depth)⟩).toList
  | .unit _ u =>
    let imgs := u.recs.map fun r => (((s.part p).installed r.handle).map (·.words)).getD []
    ((u.recs.mapIdx fun n r => (n, r)).filter (·.2.excl)).map fun t =>
      ⟨(shapeOf t.2.quads).getD (1, 1), t.2.quads, t.2.tags, [], imgNslots (imgs.getD t.1 []), (fifoDepths imgs t.1).map (·.2)⟩

/-- What the dispatcher does for the best candidate when it cannot be bound (R366). -/
def State.preempt (s : State) (p : Nat) (a : CandAt) : State :=
  let cores := s.candCores p a.what
  let all := s.ctxsOn cores
  let saving := all.any fun t => match t.2.2.takeIn with
    | some k => k.quads == 0
    | none => false
  if s.lacksCtx p a.what then
    if saving then s
    else match pickVictim (all.filter fun t => t.2.2.victim a.e) with
      | some (c, x, _) => s.beginTakeIn c x 0 false
      | none => s
  else (s.exclRooms cores a.e (s.asks p a.what)).foldl (fun s r =>
    r.inWay.foldl (fun s t => s.beginTakeIn r.core t.2.1 (t.2.2.clearing r.rect) false) s) s

/-! ## DISPATCH and RESUME_RESTORE -/

/-- DISPATCH (R362-R366): one step of the dispatcher in which a unit is bound. When the best candidate cannot be bound,
contexts are pre-empted for it. -/
def execDispatch (part : Nat) (s : State) : Out :=
  if (s.part part).resetBusy then .next s
  else match s.candidates part with
    | [] => .next s
    | a :: rest => match s.tryCand part [] a.what, a.what with
      | some t, .unit _ _ => .next t.wakeDoors
      | some _, .saved _ => .next s
      | none, _ =>
        let s := s.preempt part a
        match s.firstBound part (if a.e = 7 then s.candCores part a.what else []) rest with
        | some (.unit _ _, t) => .next t.wakeDoors
        | _ => .next s

/-- RESUME_RESTORE (R366): one step of the dispatcher in which a saved context is restored on its own core. -/
def execResumeRestore (part : Nat) (s : State) : Out :=
  if (s.part part).resetBusy then .next s
  else match s.dispatchStep part with
    | some (.saved _, t) => .next t.wakeDoors
    | _ => .next s

end Sys2Proof.Machine
end

