-- ==== Sys2Proof/Machine/Device.lean ====
section
/-! DEFINITION. Units outside the cores: memory controllers (R382-R386), queue pairs (R394), Swedin links (R396), boot
and fuses (R397, R398), attestation (R399), device reset (R400), power and cooling (R401). -/

namespace Sys2Proof.Machine

/-! ## Who may write -/

/-- The partition that a control core acts for where no partition is named: the lowest that it owns, else 0. -/
def State.ccPart (s : State) (cc : Nat) : Nat := ((List.range 8).find? fun p => s.ccOwns cc p).getD 0

/-- May a control core write the device and Ethernet blocks (R389)? -/
def State.ccAdmin (s : State) (cc : Nat) : Bool := bit s.dev.admin cc

/-- A write outside the partition blocks that receives an error response (R389). -/
def State.refuseDev (s : State) (cc pa : Nat) : State := s.refuseWrite (s.ccPart cc) pa

/-- Places of registers (R388, R386, R394, R396, R400). -/
def devReg (off : Nat) : Nat := 0x300000000000 + off
def mcReg (stack off : Nat) : Nat := 0x300004000000 + stack * 0x1000 + off
def qpReg (qp off : Nat) : Nat := 0x300005010000 + qp * 0x40 + off
def linkReg (link : Nat) : Nat := 0x300006000000 + 8 * link

/-! ## Memory controllers -/

/-- The error threshold (R384). -/
def MemCtl.threshold (v : MemCtl) : Nat := bits v.cfg 15 8
/-- Does the controller refresh each row itself (R383)? -/
def MemCtl.multiRate (v : MemCtl) : Bool := bit v.cfg 0

/-- Bits of a row in a filter, and whether a filter holds the row (R383). -/
def rowBits (row : Nat) : List Nat := (List.range 3).map fun k => Config.bloomHash k row % 2 ^ 20
def inFilter (bitsSet : List Nat) (row : Nat) : Bool := (rowBits row).all bitsSet.contains
def addRow (bitsSet : List Nat) (row : Nat) : List Nat :=
  (rowBits row).foldl (fun l b => if l.contains b then l else b :: l) bitsSet

/-- The refresh interval of a row in ms (R383). -/
def MemCtl.interval (v : MemCtl) (row : Nat) : Nat :=
  if inFilter v.fast32 row then 32 else if inFilter v.fast64 row then 64 else 128

/-- A row moves into the next faster filter, while the controller refreshes the rows itself (R383). -/
def MemCtl.demote (v : MemCtl) (row : Nat) : MemCtl :=
  if !v.multiRate then v
  else match v.interval row with
    | 128 => { v with fast64 := addRow v.fast64 row }
    | 64 => { v with fast32 := addRow v.fast32 row }
    | _ => v

/-- The count of a row in the window. -/
def MemCtl.count (v : MemCtl) (row : Nat) : Nat := ((v.counts.find? (·.1 == row)).map (·.2)).getD 0

/-- A correctable error is counted in the window and in `mc.cecnt` (R384). -/
def MemCtl.countCe (v : MemCtl) (row : Nat) : MemCtl :=
  { v with cecnt := v.cecnt + 1, counts := (row, v.count row + 1) :: v.counts.filter (·.1 != row) }

/-- A lasting error makes each frame of the row due (R384). -/
def MemCtl.lasting (v : MemCtl) (stack row : Nat) : MemCtl :=
  (Config.rowFrames stack row).foldl (fun v fr => v.addDue fr 1) v

/-- The class of a correctable error decides (R384): `n` is its row's count. -/
def MemCtl.classed (v : MemCtl) (stack row n : Nat) : MemCtl :=
  if n ≤ 1 then v else if n ≤ v.threshold then v.demote row else v.lasting stack row

/-- REFRESH_RETRY (R382): a retry changes no value and raises no fault. -/
def execRefreshRetry (_stack _hint : Nat) (s : State) : Out := .next s

/-- ROW_REFRESH (R383): the row keeps what it holds. -/
def execRowRefresh (_stack _row : Nat) (s : State) : Out := .next s

/-- CORRECTABLE_ERROR (R384). -/
def execCorrectableError (stack row : Nat) (s : State) : Out :=
  let v := (s.mc stack).countCe row
  .next (s.setMc stack (v.classed stack row (v.count row)))

/-- PATROL_SCRUB (R383, R386): while patrol scrub is on, a row in which it finds a correctable error is moved into the
next faster filter, and the error is counted as any other. -/
def execPatrolScrub (stack row : Nat) (found : Bool) (s : State) : Out :=
  if !found || !bit (s.mc stack).cfg 16 then .next s
  else
    let v := (s.mc stack).countCe row
    let n := v.count row
    .next (s.setMc stack (if n ≤ 1 || v.threshold < n then (v.demote row).classed stack row n
      else v.classed stack row n))

/-- UNCORRECTABLE_ERROR (R384): from now on every access that reads the line meets MEM_ERROR and is counted in
`mc.uecnt`; a frame of HBM is due at once. -/
def execUncorrectableError (addr : Nat) (s : State) : Out :=
  let s := { s with bad := if s.isBad addr then s.bad else addr / 64 :: s.bad }
  match region addr with
  | .hbm =>
    let st := stackOf addr
    .next (s.setMc st ((s.mc st).addDue (frameOf addr) 2))
  | _ => .next s

/-- ERROR_WINDOW_END (R384). -/
def execErrorWindowEnd (stack : Nat) (s : State) : Out := .next (s.setMc stack { s.mc stack with counts := [] })

/-- MC_DUE (R386): a write of any value removes the oldest due frame, which is then a retired one (R385 step 4). -/
def execMcDue (_cc stack : Nat) (_value : Word) (s : State) : Out :=
  let v := s.mc stack
  match v.due with
  | [] => .next s
  | d :: rest => .next (s.setMc stack { v with due := rest, rlog := d :: v.rlog })

/-- MC_CFG (R383, R386): bit 0 keeps its value once the device has booted. -/
def execMcCfg (cc stack : Nat) (value : Word) (s : State) : Out :=
  if bits value 63 17 ≠ 0 then .next (s.refuseDev cc (mcReg stack 0))
  else
    let v := s.mc stack
    let mode := if s.dev.stage = 4 then v.cfg.toNat % 2 else value.toNat % 2
    .next (s.setMc stack { v with cfg := BitVec.ofNat 64 (value.toNat / 2 ^ 8 * 2 ^ 8 + mode) })

/-! ## Queue pairs -/

/-- Outstanding commands of a queue pair will complete with status 4 (R268, R394). -/
def State.flushQp (s : State) (qp : Nat) : State :=
  let go (m : Cmd) : Cmd :=
    if isNet m.i && m.st == .accepted && ntQp m.f == qp && m.status == 0 then { m with status := 4 } else m
  { s with cores := s.cores.map fun k => { k with cmds := k.cmds.map go } }

/-- Is a value one that `qp.cfg` defines (R394)? -/
def qpCfgOk (v : Word) : Bool :=
  bits v 2 0 ≤ 4 && bits v 17 16 != 0

/-- QP_CFG (R394, R268): outstanding commands of a queue pair that is no longer connected are flushed. -/
def execQpCfg (cc qp : Nat) (value : Word) (s : State) : Out :=
  if !s.ccAdmin cc || !qpCfgOk value then .next (s.refuseDev cc (qpReg qp 0))
  else
    let q := { s.qp qp with cfg := value &&& 0x33F07 }
    let s := s.setQp q
    .next (if q.receives then s else s.flushQp qp)

/-! ## Swedin links -/

def State.link (s : State) (n : Nat) : Link := s.links.getD n ⟨0, false⟩

/-- LINK_FLIT_RETRY (R335, R396): the flit is sent again; a failed link sends nothing. -/
def execLinkFlitRetry (link : Nat) (s : State) : Out :=
  let l := s.link link
  if l.failed then .next s else .next { s with links := s.links.set link { l with retries := l.retries + 1 } }

/-- LINK_FAILURE (R396): retries have failed for 2^20 link cycles. -/
def execLinkFailure (link : Nat) (s : State) : Out :=
  .next { s with links := s.links.set link { s.link link with failed := true } }

/-! ## Boot, fuses, attestation -/

/-- Blown bits of a fuse class (R397). -/
def popcount (x : Word) : Nat := ((List.range 64).filter fun k => bit x k).length
def Dev.counter (d : Dev) (k : Nat) : Nat := popcount (d.arb.getD k 0)

/-- Why a manifest is not accepted: stage and cause of `mg.boot` (R397, R400). -/
def Dev.bootFault (d : Dev) (m : Manifest) : Option (Nat × Nat) :=
  let ed := Manifest.edOk m
  let ml := Manifest.mlOk m
  if !m.readable then some (0, 5)
  else if !m.wellFormed then some (0, 6)
  else if !ed && !ml then some (1, 3)
  else if !ed then some (1, 1)
  else if !ml then some (1, 2)
  else if (List.range 4).any fun k => m.version < d.counter k then some (2, 4)
  else none

/-- The filters of a controller after the boot firmware's retention profiling (R383). -/
def MemCtl.profile (v : MemCtl) (weak : List Nat × List Nat) : MemCtl :=
  { v with fast32 := weak.1.foldl addRow [], fast64 := weak.2.foldl addRow [] }

/-- Does a controller raise its interrupt: it holds a frame due for retirement (R385)? The controller keeps it raised while it
holds one; what the control cores' interrupt controller makes of it is that of RISC-V (DEDUCED, log 101). -/
def State.mcInterrupt (s : State) (stack : Nat) : Bool := !(s.mc stack).due.isEmpty

/-- Steps 2 to 4 of R397 on a manifest: the firmware runs, or network recovery is active. -/
def State.bootWith (s : State) (m : Manifest) : State :=
  match s.dev.bootFault m with
  | some (stage, cause) => { s with dev := { s.dev with stage, cause, recovery := true } }
  | none =>
    let meas := (List.range 4).map fun k => match m.images[k]? with
      | some im => sha384 im
      | none => 0
    { s with
      dev := { s.dev with stage := 4, cause := 0, recovery := false, meas, admin := 1 },
      mcs := s.mcs.mapIdx fun n v => v.profile (m.weak.getD n ([], [])),
      parts := s.parts.map fun p => { p with owner := 1 } }

/-- BOOT (R397): the boot ROM runs once after a reset. -/
def execBoot (m : Manifest) (s : State) : Out :=
  if s.dev.stage = 4 || s.dev.recovery then .next s else .next (s.bootWith m)

/-- NETWORK_RECOVERY_FRAME (R397): port 0 takes a manifest while network recovery is active. -/
def execNetworkRecoveryFrame (m : Manifest) (s : State) : Out :=
  if !s.dev.recovery then .next s else .next (s.bootWith m)

/-- MG_ARB (R398): fuse bits are only ever blown. -/
def execMgArb (cc k : Nat) (mask : Word) (s : State) : Out :=
  if !s.ccAdmin cc then .next (s.refuseDev cc (devReg (0x20 + 8 * k)))
  else .next { s with dev := { s.dev with arb := s.dev.arb.modify k (· ||| mask) } }

/-- Is a byte in a partition that a control core owns (R357)? -/
def State.ccReach (s : State) (cc pa : Nat) : Bool := (List.range 8).any fun p => s.ccOwns cc p && s.owned p pa

/-- MG_ATTEST (R399, R400): a buffer that fails the checks of R357 leaves the error bit. -/
def execMgAttest (cc : Nat) (addr : Word) (s : State) : Out :=
  let a := bits addr 51 6 * 64
  if !s.ccAdmin cc then .next (s.refuseDev cc (devReg 0x40))
  else if s.dev.attBusy then .next s
  else match (List.range 3661).find? fun j => !s.ccReach cc (a + j) with
    | some j => .next { s.refuseDev cc (a + j) with dev := { s.dev with attErr := true } }
    | none => .next { s with dev := { s.dev with attBusy := true, attErr := false, attAddr := a } }

/-- Bytes 0-287 of a report (R399). -/
def State.reportBody (s : State) (nonce : List Byte) : List Byte :=
  natBytes 4 0x0A770D72 ++ natBytes 4 1 ++ nonce ++ natBytes 48 identityDigest.toNat ++
  ((List.range 4).flatMap fun k => natBytes 2 (s.dev.counter k)) ++
  s.dev.meas.flatMap fun x => natBytes 48 x.toNat

/-- ATTEST_COMPLETE (R399): the report is in the buffer. -/
def execAttestComplete (s : State) : Out :=
  if !s.dev.attBusy then .next s
  else
    let a := s.dev.attAddr
    let body := s.reportBody (Memory.read s.mem (a + 8) 32)
    let rnd := natBytes 32 (Config.signingRandom s.draw).toNat
    let bytes := body ++ natBytes 64 (bytesToNat (ed25519Sign identityEd body)) ++
      natBytes 3309 (bytesToNat (mlDsa65Sign identityMl body rnd))
    .next { s.writeMem (place a bytes) with dev := { s.dev with attBusy := false }, draw := s.draw + 1 }

/-- MG_RESET (R400): 0x0D72 resets the whole device. Blown fuses stay blown, failed cells failed; what has left the package
and what is to come from outside are not the device's. -/
def execMgReset (cc : Nat) (value : Word) (s : State) : Out :=
  if !s.ccAdmin cc then .next (s.refuseDev cc (devReg 0x48))
  else if value ≠ 0x0D72 then .next s
  else .next { State.reset with
    dev := { Dev.reset with arb := s.dev.arb }, bad := s.bad, netTx := s.netTx, agenda := s.agenda, draw := s.draw }

/-! ## Power and cooling -/

/-- The cap in W (R401). -/
def Dev.cap (d : Dev) : Nat := if d.pwCap = 0 then 4000 else d.pwCap

/-- POWER_CAP_STEP (R401), a reading of the power: while power exceeds the cap, the core clock falls by 100 MHz, down to 700. -/
def execPowerCapStep (now : Nat) (s : State) : Out :=
  if now ≤ s.dev.cap then .next { s with dev := { s.dev with pwNow := now } }
  else .next { s with dev := { s.dev with pwNow := now, capped := true, mhz := max 700 (s.dev.mhz - 100) } }

/-- POWER_CAP_LIFT (R401), a reading of the power: power is back under the cap; the clock rises by a step. -/
def execPowerCapLift (now : Nat) (s : State) : Out :=
  if s.dev.cap < now then .next { s with dev := { s.dev with pwNow := now } }
  else .next { s with dev := { s.dev with pwNow := now, capped := false, mhz := min 2100 (s.dev.mhz + 100) } }

/-- THERMAL_STOP (R401), a reading of the hottest junction: at 105 °C every core clock stops. -/
def execThermalStop (tj : Nat) (s : State) : Out :=
  .next { s with dev := { s.dev with pwTj := tj, thermal := s.dev.thermal || 105 ≤ tj } }

/-- THERMAL_RESTART (R401), a reading of the hottest junction: below 95 °C the core clocks run. -/
def execThermalRestart (tj : Nat) (s : State) : Out :=
  .next { s with dev := { s.dev with pwTj := tj, thermal := s.dev.thermal && 95 ≤ tj } }

end Sys2Proof.Machine
end

