-- ==== Sys2Proof/Machine/Manage.lean ====
section
/-! DEFINITION. The management region (R388-R393, R400, R401): which register an address names, reads and writes, and the
accesses of control cores (R322, R357). -/

namespace Sys2Proof.Machine

/-! ## Partition cores and the rate limiter -/

/-- A half of a core set with a new value (R390). -/
def setHalf (cores : BitVec 72) (half : Nat) (value : Word) : BitVec 72 :=
  if half = 0 then BitVec.ofNat 72 (cores.toNat / 2 ^ 64 * 2 ^ 64 + value.toNat)
  else BitVec.ofNat 72 (cores.toNat % 2 ^ 64 + value.toNat * 2 ^ 64)

/-- Is a new core set of a partition refused (R390): a core of another partition, or one that leaves with a context
resident? -/
def State.coresConflict (s : State) (part : Nat) (new : BitVec 72) : Bool :=
  let old := (s.part part).cores
  (List.range 72).any fun c =>
    (bit new c && (match s.partOfCore c with
      | some p => p != part
      | none => false)) ||
    (bit old c && !bit new c && (s.core c).cxs.any fun v => v.phase != .free)

/-- PART_CORES_WRITE (R390). -/
def execPartCoresWrite (cc part half : Nat) (value : Word) (s : State) : Out :=
  let v := s.part part
  let new := setHalf v.cores half value
  if !s.ccOwns cc part || (half ≠ 0 && bits value 63 8 ≠ 0) || s.coresConflict part new then
    .next (s.refuseWrite part (partReg part (8 * half)))
  else .next (s.setPart part { v with cores := new })

/-- CX_RLIM (R244, R393): windows run from now on; a context that is not resident ignores the write. -/
def execCxRlim (cc core ctx : Nat) (value : Word) (s : State) : Out :=
  if !s.ccOwnsCore cc core || bits value 63 32 ≠ 0 then
    .next (s.refuseWrite ((s.partOfCore core).getD 0) (coreReg core (0x1000 * ctx)))
  else
    let v := s.cx core ctx
    if v.phase = .free then .next s
    else .next (s.setCx core ctx { v with ctl := { v.ctl with rlim := value }, rlimUsed := 0,
                                          rlimStart := (s.core core).cycle.toNat })

/-- Core cycles since a count began; the counter wraps (R20). -/
def State.since (s : State) (c start : Nat) : Nat := ((s.core c).cycle - BitVec.ofNat 64 start).toNat

/-- RATE_WINDOW (R244): a window of a context's limiter is over. -/
def execRateWindow (core ctx : Nat) (s : State) : Out :=
  let v := s.cx core ctx
  if Ctx.rlimN v = 0 || s.since core v.rlimStart < Ctx.rlimW v then .next s
  else .next (s.setCx core ctx { v with rlimUsed := 0, rlimStart := (v.rlimStart + Ctx.rlimW v) % 2 ^ 64 })

/-! ## The register map -/

/-- The management registers (R386, R390, R393, R394, R396, R400, R401). -/
inductive Reg where
  | mgId | mgAdmin | mgBoot | mgArb (k : Nat) | mgAttest | mgReset | pwNow | pwCap | pwTj | pwTrip
  | cores (p half : Nat) | owner (p : Nat) | lock (p : Nat) | reset (p : Nat) | privw (p : Nat) | ttb (p : Nat)
  | shoot (p : Nat) | wdraw (p : Nat) | kill (p : Nat) | flogIdx (p : Nat) | vlogIdx (p : Nat) | preq (p : Nat)
  | phead (p : Nat) | ptail (p : Nat) | reply (p : Nat)
  | qCore (p q half : Nat) | qCfg (p q : Nat) | qDoor (p q : Nat) | flog (p n d : Nat) | vlog (p n d : Nat)
  | rlim (c x : Nat) | freg (c x node d : Nat) | resume (c x : Nat)
  | mcCfg (st : Nat) | cecnt (st : Nat) | uecnt (st : Nat) | retire (st : Nat) | rlog (st k : Nat) | scrub (st : Nat)
  | due (st : Nat)
  | qpCfg (n : Nat) | qpRemote (n : Nat) | qpGid (n half : Nat) | qpMac (n : Nat) | link (n : Nat)
  deriving DecidableEq, Repr

def regDevice (o : Nat) : Option Reg :=
  if 0x20 ≤ o ∧ o < 0x40 then some (.mgArb ((o - 0x20) / 8))
  else match o with
    | 0x00 => some .mgId
    | 0x08 => some .mgAdmin
    | 0x10 => some .mgBoot
    | 0x40 => some .mgAttest
    | 0x48 => some .mgReset
    | 0x100 => some .pwNow
    | 0x108 => some .pwCap
    | 0x110 => some .pwTj
    | 0x118 => some .pwTrip
    | _ => none

def regPart (p o : Nat) : Option Reg :=
  if 0x2000 ≤ o then (if o < 0x2400 then some (.vlog p ((o - 0x2000) / 16) (o % 16 / 8)) else none)
  else if 0x1000 ≤ o then some (.flog p ((o - 0x1000) / 64) (o % 64 / 8))
  else if 0x100 ≤ o then
    let q := (o - 0x100) / 0x20
    if 16 ≤ q then none
    else match o % 0x20 with
      | 0x00 => some (.qCore p q 0)
      | 0x08 => some (.qCore p q 1)
      | 0x10 => some (.qCfg p q)
      | _ => some (.qDoor p q)
  else match o with
    | 0x00 => some (.cores p 0)
    | 0x08 => some (.cores p 1)
    | 0x10 => some (.owner p)
    | 0x18 => some (.lock p)
    | 0x20 => some (.reset p)
    | 0x28 => some (.privw p)
    | 0x30 => some (.ttb p)
    | 0x38 => some (.shoot p)
    | 0x40 => some (.wdraw p)
    | 0x48 => some (.kill p)
    | 0x50 => some (.flogIdx p)
    | 0x58 => some (.vlogIdx p)
    | 0x60 => some (.preq p)
    | 0x68 => some (.phead p)
    | 0x70 => some (.ptail p)
    | 0x78 => some (.reply p)
    | _ => none

def regCore (c o : Nat) : Option Reg :=
  let x := o / 0x1000
  let r := o % 0x1000
  if 8 ≤ x then none
  else if r = 0 then some (.rlim c x)
  else if 0x100 ≤ r ∧ r < 0x100 + 0x40 * 41 then some (.freg c x ((r - 0x100) / 0x40) (r % 0x40 / 8))
  else if r = 0xC00 then some (.resume c x) else none

def regMc (st o : Nat) : Option Reg :=
  if 0x20 ≤ o ∧ o < 0x820 then some (.rlog st ((o - 0x20) / 8))
  else match o with
    | 0x00 => some (.mcCfg st)
    | 0x08 => some (.cecnt st)
    | 0x10 => some (.uecnt st)
    | 0x18 => some (.retire st)
    | 0x820 => some (.scrub st)
    | 0x828 => some (.due st)
    | _ => none

def regQp (n o : Nat) : Option Reg :=
  match o with
  | 0x00 => some (.qpCfg n)
  | 0x08 => some (.qpRemote n)
  | 0x10 => some (.qpGid n 0)
  | 0x18 => some (.qpGid n 1)
  | 0x20 => some (.qpMac n)
  | _ => none

/-- The register at an address (R388). -/
def regAt (pa : Nat) : Option Reg :=
  let o := pa - 0x300000000000
  if pa < 0x300000000000 || pa % 8 ≠ 0 then none
  else if o < 0x1000000 then regDevice o
  else if o < 0x1800000 then regPart ((o - 0x1000000) / 0x100000) (o % 0x100000)
  else if 0x2000000 ≤ o ∧ o < 0x2000000 + 72 * 0x10000 then regCore ((o - 0x2000000) / 0x10000) (o % 0x10000)
  else if 0x4000000 ≤ o ∧ o < 0x4000000 + 12 * 0x1000 then regMc ((o - 0x4000000) / 0x1000) (o % 0x1000)
  else if 0x5010000 ≤ o ∧ o < 0x5010000 + 4096 * 0x40 then regQp ((o - 0x5010000) / 0x40) (o % 0x40)
  else if 0x6000000 ≤ o ∧ o < 0x6000000 + 48 then some (.link ((o - 0x6000000) / 8))
  else none

/-! ## Reads -/

/-- Dword `d` of a number of bytes. -/
def dwordOf (x d : Nat) : Word := BitVec.ofNat 64 (x >>> (64 * d))

/-- A due or retired frame as `mc.due` and `mc.rlog` give it (R386), without the valid bit. -/
def DueF.word (d : DueF) : Nat := d.frame % 2 ^ 20 + d.chan % 2 ^ 8 * 2 ^ 20 + d.cause % 2 ^ 4 * 2 ^ 28

/-- Entry `k` of the retirement log, which holds the last 256 retired frames (R386). -/
def MemCtl.rlogEntry (v : MemCtl) (k : Nat) : Nat :=
  let n := v.rlog.length
  match (List.range 256).find? fun j => j < n && (n - 1 - j) % 256 == k with
  | some j => (v.rlog[j]?.map DueF.word).getD 0
  | none => 0

/-- An entry of the violation log (R357). -/
def VEnt.encode (e : VEnt) : Nat :=
  e.pa % 2 ^ 56 + e.source % 256 * 2 ^ 56 + e.core % 256 * 2 ^ 64 + e.ctx % 256 * 2 ^ 72 + e.node % 256 * 2 ^ 80 +
  e.count % 2 ^ 32 * 2 ^ 96

/-- An entry of the fault log: the record, with core and context in bytes 37 and 38 (R375). -/
def flogEncode (e : Nat × Nat × FRec) : Nat := e.2.2.encode + e.1 % 256 * 2 ^ 296 + e.2.1 % 256 * 2 ^ 304

/-- A fault register as `cx.freg` shows it: its record, with flags bit 0 clear when the record is held no longer, as a
REPAIR record after its release (R341, R393). -/
def State.fregWord (s : State) (c x node : Nat) : Nat :=
  match (s.core c).fregs.find? fun g => g.node == node && g.ctx == x with
  | none => 0
  | some g => if s.record c x g.num = some g.fr then g.fr.encode else g.fr.encode - 2 ^ 152

/-- The value that a control core reads from a register; a write-only one gives zero (R389). -/
def State.readReg (s : State) (cc : Nat) (r : Reg) : Word :=
  let d := s.dev
  match r with
  | .mgId => BitVec.ofNat 64 (0x0D72 + Config.siliconRevision.toNat * 2 ^ 16)
  | .mgAdmin => d.admin.setWidth 64
  | .mgBoot => BitVec.ofNat 64 (d.stage + d.cause * 2 ^ 8 + b2n d.recovery * 2 ^ 16)
  | .mgArb k => d.arb.getD k 0
  | .mgAttest => BitVec.ofNat 64 (b2n d.attBusy + 2 * b2n d.attErr)
  | .mgReset => 0
  | .pwNow => BitVec.ofNat 64 d.pwNow
  | .pwCap => BitVec.ofNat 64 d.pwCap
  | .pwTj => BitVec.ofNat 64 d.pwTj
  | .pwTrip => BitVec.ofNat 64 (b2n d.capped + 2 * b2n d.thermal)
  | .cores p h => dwordOf (s.part p).cores.toNat h
  | .owner p => (s.part p).owner.setWidth 64
  | .lock p => BitVec.ofNat 64 (b2n (s.part p).lock)
  | .reset p => BitVec.ofNat 64 (b2n (s.part p).resetBusy)
  | .privw p => (s.part p).privw.setWidth 64
  | .ttb p => BitVec.ofNat 64 (s.part p).ttb
  | .shoot p => BitVec.ofNat 64 (b2n (!(s.part p).shoots.isEmpty))
  | .wdraw p => (s.part p).wdraw.getD cc 0
  | .kill _ => 0
  | .flogIdx p => BitVec.ofNat 64 (s.part p).flogIdx
  | .vlogIdx p => BitVec.ofNat 64 (s.part p).vlogIdx
  | .preq p => BitVec.ofNat 64 (s.part p).preq
  | .phead p => BitVec.ofNat 64 (s.part p).phead
  | .ptail p => BitVec.ofNat 64 (s.part p).ptail
  | .reply _ => 0
  | .qCore p q h => dwordOf ((s.part p).queue q).cores.toNat h
  | .qCfg p q => BitVec.ofNat 64 (b2n ((s.part p).queue q).enabled)
  | .qDoor p q => BitVec.ofNat 64 (((s.part p).queue q).door.getD cc 0)
  | .flog p n k => dwordOf (((s.part p).flog[n]?.map flogEncode).getD 0) k
  | .vlog p n k => dwordOf (((s.part p).vlog[n]?.map VEnt.encode).getD 0) k
  | .rlim c x => (s.cx c x).ctl.rlim
  | .freg c x node k => dwordOf (s.fregWord c x node) k
  | .resume _ _ => 0
  | .mcCfg st => (s.mc st).cfg
  | .cecnt st => (s.mc st).cecnt
  | .uecnt st => (s.mc st).uecnt
  | .retire st =>
    let n := (s.mc st).rlog.length
    BitVec.ofNat 64 (n % 2 ^ 32 + (if n = 0 then 0 else (n - 1) % 256) * 2 ^ 32)
  | .rlog st k => BitVec.ofNat 64 ((s.mc st).rlogEntry k)
  | .scrub st => (s.mc st).scrub
  | .due st => match (s.mc st).due with
    | [] => 0
    | f :: _ => BitVec.ofNat 64 (f.word + 2 ^ 63)
  | .qpCfg n => (s.qp n).cfg
  | .qpRemote n => (s.qp n).remote
  | .qpGid n h => if h = 0 then (s.qp n).gidLo else (s.qp n).gidHi
  | .qpMac n => (s.qp n).mac
  | .link n => BitVec.ofNat 64 ((s.link n).retries.toNat + b2n (s.link n).failed * 2 ^ 63)

/-! ## Writes -/

/-- A write to a partition register by an owner, of a value that the register defines (R389, R390). -/
def State.partWrite (s : State) (cc p pa : Nat) (ok : Bool) (set : Part → Part) : Out :=
  if !s.ccOwns cc p || !ok then .next (s.refuseWrite p pa) else .next (s.setPart p (set (s.part p)))

/-- A write to a queue's register. -/
def State.queueWrite (s : State) (cc p q pa : Nat) (ok : Bool) (set : Queue → Queue) : Out :=
  if !s.ccOwns cc p || !ok then .next (s.refuseWrite p pa) else .next (s.setQueue p q (set ((s.part p).queue q)))

/-- A write to the device block (R389, R400, R401). -/
def State.devWrite (s : State) (cc pa : Nat) (ok : Bool) (set : Dev → Dev) : Out :=
  if !s.ccAdmin cc || !ok then .next (s.refuseDev cc pa) else .next { s with dev := set s.dev }

/-- A write to a queue pair's register other than `qp.cfg` (R389, R394). -/
def State.qpWrite (s : State) (cc n pa : Nat) (ok : Bool) (set : QP → QP) : Out :=
  if !s.ccAdmin cc || !ok then .next (s.refuseDev cc pa) else .next (s.setQp (set (s.qp n)))

/-- A write to a memory controller's register, which any control core makes (R386, R389). -/
def State.mcWrite (s : State) (cc st pa : Nat) (ok : Bool) (set : MemCtl → MemCtl) : Out :=
  if !ok then .next (s.refuseDev cc pa) else .next (s.setMc st (set (s.mc st)))

/-- A write to `cx.resume` (R393). -/
def State.resumeWrite (s : State) (cc c x : Nat) (v : Word) : Out :=
  let node := bits v 7 0
  match bits v 9 8 with
  | 1 => execResumeRetry cc c x node s
  | 2 => execResumeTrap cc c x node s
  | _ => .next (s.refuseWrite ((s.partOfCore c).getD 0) (resumeReg c x))

/-- A management write (R389): the register's own effect, or an error response for a read-only register, a field value that
the register does not define, or a control core that may not write it. Bits that no field of a register's entry covers
are ignored; those that its entry says are zero must be (DEDUCED, log 30). Nothing but a reset clears a link register (R396). -/
def State.writeReg (s : State) (cc pa : Nat) (r : Reg) (v : Word) : Out :=
  let n := v.toNat
  match r with
  | .mgId | .mgBoot | .pwNow | .pwTj | .pwTrip => .next (s.refuseDev cc pa)
  | .mgAdmin => s.devWrite cc pa true fun d => { d with admin := BitVec.ofNat 8 n }
  | .mgArb k => execMgArb cc k v s
  | .mgAttest => execMgAttest cc v s
  | .mgReset => execMgReset cc v s
  | .pwCap => s.devWrite cc pa true fun d => { d with pwCap := n }
  | .cores p h => execPartCoresWrite cc p h v s
  | .owner p => s.partWrite cc p pa true fun o => { o with owner := BitVec.ofNat 8 n }
  | .lock p => s.partWrite cc p pa true fun o => { o with lock := n % 2 == 1 }
  | .reset p => execPartReset cc p v s
  | .privw p => s.partWrite cc p pa true fun o => { o with privw := BitVec.ofNat 8 n }
  | .ttb p => s.partWrite cc p pa true fun o => { o with ttb := n / 2 ^ 8 % 2 ^ 44 * 2 ^ 8 }
  | .shoot p => execPartShoot cc p v s
  | .wdraw p => execPartWdraw cc p v s
  | .kill p => execPartKill cc p v s
  | .flogIdx p | .vlogIdx p | .phead p | .flog p _ _ | .vlog p _ _ => .next (s.refuseWrite p pa)
  | .preq p => execPartPreq cc p v s
  | .ptail p => s.partWrite cc p pa (n < 256) fun o => { o with ptail := n }
  | .reply p => execPartReply cc p v s
  | .qCore p q h => s.queueWrite cc p q pa (h == 0 || n < 256) fun o => { o with cores := setHalf o.cores h v }
  | .qCfg p q => s.queueWrite cc p q pa true fun o => { o with enabled := n % 2 == 1 }
  | .qDoor p q => execQDoor cc p q v s
  | .rlim c x => execCxRlim cc c x v s
  | .freg c _ _ _ => .next (s.refuseWrite ((s.partOfCore c).getD 0) pa)
  | .resume c x => s.resumeWrite cc c x v
  | .mcCfg st => execMcCfg cc st v s
  | .cecnt st => s.mcWrite cc st pa true fun o => { o with cecnt := v }
  | .uecnt st => s.mcWrite cc st pa true fun o => { o with uecnt := v }
  | .retire _ | .rlog _ _ => .next (s.refuseDev cc pa)
  | .scrub st => s.mcWrite cc st pa (1 ≤ n && n ≤ 2 ^ 20) fun o => { o with scrub := v }
  | .due st => execMcDue cc st v s
  | .qpCfg q => execQpCfg cc q v s
  | .qpRemote q => s.qpWrite cc q pa true fun o => { o with remote := v &&& 0xFFFFFFFFFFFF }
  | .qpGid q h => s.qpWrite cc q pa true fun o => if h = 0 then { o with gidLo := v } else { o with gidHi := v }
  | .qpMac q => s.qpWrite cc q pa true fun o => { o with mac := v &&& 0xFFFFFFFFFFFF }
  | .link _ => .next s

/-- REGISTER_WRITE (R389): a write to an address of the region at which there is no register receives the same error
response. -/
def execRegisterWrite (cc : Nat) (addr value : Word) (s : State) : Out :=
  match regAt addr.toNat with
  | some r => s.writeReg cc addr.toNat r value
  | none => .next (s.refuseDev cc addr.toNat)

/-! ## Accesses of control cores -/

/-- An access without regard to its being a release, and whether it is one (R322). -/
def CcOp.plain : CcOp → CcOp
  | .rel op => CcOp.plain op
  | op => op
def CcOp.isRel : CcOp → Bool
  | .rel _ => true
  | _ => false

/-- Bytes that an access covers. -/
def CcOp.size : CcOp → Nat
  | .rel op => CcOp.size op
  | .load n | .lr n => n
  | .store d | .swap d | .add d | .and d | .or d | .xor d | .min d | .max d | .minu d | .maxu d | .sc d => d.length

/-- The least or the greatest of two byte strings as numbers of their width. -/
def pickBytes (signed greatest : Bool) (old new : List Byte) : List Byte :=
  let num (b : List Byte) : Int := if signed then sval (8 * old.length) (bytesToNat b) else bytesToNat b
  if (if greatest then num old < num new else num new < num old) then new else old

/-- The bytes that an access writes, from the old ones. -/
def CcOp.result (op : CcOp) (old : List Byte) : List Byte :=
  let n := old.length
  match op with
  | .rel op => CcOp.result op old
  | .load _ | .lr _ => old
  | .store d | .swap d | .sc d => d
  | .min d => pickBytes true false old d
  | .max d => pickBytes true true old d
  | .minu d => pickBytes false false old d
  | .maxu d => pickBytes false true old d
  | .add d => natBytes n (bytesToNat old + bytesToNat d)
  | .and d => natBytes n (bytesToNat old &&& bytesToNat d)
  | .or d => natBytes n (bytesToNat old ||| bytesToNat d)
  | .xor d => natBytes n (bytesToNat old ^^^ bytesToNat d)


def CcOp.isLoad : CcOp → Bool
  | .load _ | .lr _ => true
  | _ => false
def CcOp.isStore : CcOp → Bool
  | .store _ => true
  | _ => false
/-- Does an access read nothing: a store, or a store-conditional? -/
def CcOp.writesOnly : CcOp → Bool
  | .store _ | .sc _ => true
  | _ => false

/-- A store-conditional: the reservation of the control core is gone, and covers the bytes or the store fails. The answer is 0
for success and 1 for failure (PRESUMED, log 102). -/
def State.ccCond (s : State) (cc a n : Nat) : Bool × State :=
  let ok := ((s.ccResv.getD cc none).any fun r => r.1 ≤ a && a + n ≤ r.1 + r.2)
  (ok, { s with ccResv := s.ccResv.set cc none, ccOut := s.ccOut.set cc [if ok then 0 else 1] })

/-- A control core writes at the coherence point (R322): as a release, when the access is one; an atomic operation goes on with
the release whose value it read (R327). -/
def State.ccWrite (s : State) (rel : Bool) (op : CcOp) (l : List (Nat × Byte)) : State :=
  let old := if CcOp.isStore op then [] else s.rels.filter fun r => l.any (·.1 == r.1)
  let s := s.writeMem l
  { s with rels := old ++ s.rels }.noteRelease s.cores.length 3 rel l

/-- What a control core has read. -/
def State.ccGive (s : State) (cc : Nat) (bs : List Byte) : State := { s with ccOut := s.ccOut.set cc bs }

/-- May a control core read a register? Only the partition owner reads the violation log (R357). -/
def State.ccReads (s : State) (cc : Nat) : Reg → Bool
  | .vlog p _ _ => s.ccOwns cc p
  | _ => true

/-- An access to the management region (R389): aligned and of 8 bytes. -/
def State.ccReg (s : State) (cc pa : Nat) (op : CcOp) : Out :=
  match regAt pa with
  | none => .next (s.refuseDev cc pa)
  | some r =>
    if CcOp.size op ≠ 8 || (!CcOp.isStore op && !s.ccReads cc r) then .next (s.refuseDev cc pa)
    else
      let old := natBytes 8 (s.readReg cc r).toNat
      match op with
      | .sc _ => .next (s.ccCond cc pa 0).2
      | _ =>
      let s := if CcOp.isStore op then s else s.ccGive cc old
      if CcOp.isLoad op then .next s
      else s.writeReg cc pa r (BitVec.ofNat 64 (bytesToNat (CcOp.result op old)))

/-- CONTROL_CORE_ACCESS (R322, R357): performed at the coherence point, for the partition that the control core acts for;
outside it, or on bytes that fail, it receives an error response and does nothing. -/
def execControlCoreAccess (cc part : Nat) (addr : Word) (op : CcOp) (s : State) : Out :=
  let a := addr.toNat
  let rel := CcOp.isRel op
  let op := CcOp.plain op
  if region a = .regs then s.ccReg cc a op
  else
    let pas := (List.range (CcOp.size op)).map (a + ·)
    match pas.find? fun pa => !(s.ccOwns cc part && s.owned part pa) with
    | some pa => .next (s.refuseWrite part pa)
    | none =>
      match (if CcOp.writesOnly op then none else pas.find? s.isBad) with
      | some pa => .next (s.noteUe pa)
      | none =>
        let old := pas.map (Memory.get s.mem)
        match op with
        | .sc d =>
          match s.ccCond cc a d.length with
          | (true, s) => .next (s.ccWrite rel op (List.zip pas d))
          | (false, s) => .next s
        | .lr n => .next { s.ccGive cc old with ccResv := s.ccResv.set cc (some (a, n)) }
        | _ =>
          let s := if CcOp.isStore op then s else s.ccGive cc old
          if CcOp.isLoad op then .next s
          else .next (s.ccWrite rel op (List.zip pas (CcOp.result op old)))

end Sys2Proof.Machine
end

