-- ==== Sys2Proof/Machine/Vector.lean ====
section
/-! DEFINITION. Class 4: conversion (R205), QSCALE (R206), moving lanes (R207), reductions and scans (R208-R211). -/

namespace Sys2Proof.Machine

/-- A source element of CVT: a float or an integer. -/
inductive CvtElem where
  | flt (x : Num)
  | int (n : Int)
  deriving DecidableEq, Repr

def cvtRead (src : RType) (x : Nat) : CvtElem :=
  if src.isFlt then .flt ((laneFmt src).decode x) else .int (toInt (laneBits src) (isSigned src) x)

/-- One element converted to the lane of type `ty` (R186, R187, R205). -/
def cvtElem (ty : RType) (rm : RM) (sat : Bool) (e : CvtElem) : Nat :=
  let n := laneBits ty
  match e with
  | .flt x => if ty.isFlt then roundNum (laneFmt ty) rm sat x else wrap n (fpToInt rm (isSigned ty) n x)
  | .int i =>
    if ty.isFlt then roundNum (laneFmt ty) rm sat (Num.ofInt i)
    else if sat then wrap n (clampInt (isSigned ty) n i) else wrap n i

/-- The lane table of R205. -/
def cvtVal (ty : RType) (mode : Nat) (a : Val) (code : Word) : Val :=
  let src := (RType.ofNat? (bits code 3 0)).getD .b64
  let rm := rmOf (mode % 4)
  let sat := mode / 4 % 2 == 1
  let ys := (readLanes src a).map fun x => cvtElem ty rm sat (cvtRead src x)
  if !ty.isVec then scalarOut ty (ys.headD 0)
  else if !src.isVec then writeLanes ty (List.replicate (laneCount ty) (ys.headD 0))
  else writeLanes ty (ys.take (laneCount ty))

def execCvt (w : GWord) (s : State) : Out := binG s w fun a b => cvtVal w.ty w.mode.toNat a b.scalar

/-- The block-scale code of R192. -/
def qscaleCode (mode a : Nat) : Nat :=
  let emax : Int := if mode = 0 then 8 else if mode = 1 then 15 else 5
  match FF.f32.decode a with
  | .fin _ m e =>
    let k : Int := (Nat.log2 m : Int) + e - emax + 127
    if m = 0 then 0 else (max 0 (min k 254)).toNat
  | _ => 0xFF

/-- QSCALE (R192): the FP32 of 2^(code − 127), or the default NaN. -/
def qscale (mode a : Nat) : Nat :=
  let c := qscaleCode mode a
  if c = 0xFF then 0x7FC00000 else roundNum .f32 .rne false (.fin false 1 ((c : Int) - 127))

def execQscale (w : GWord) (s : State) : Out := unG s w (lanes1 w.ty (qscale w.mode.toNat))

/-- A lane written as a scalar (R207, R208). -/
def laneScalar (ty : RType) (x : Nat) : Val :=
  match ty with
  | .vs32 => scalarOut .s32 x
  | _ => .sc (BitVec.ofNat 64 (x % 2 ^ laneBits ty))

/-- The right operand read as lanes of the word's type (R27, R207). -/
def rightLanes (w : GWord) (b : Val) : List Nat := readLanes w.ty b

def execVbcast (w : GWord) (s : State) : Out := unG s w fun a =>
  let xs := readLanes w.ty a
  writeLanes w.ty (List.replicate (laneCount w.ty) (xs.headD 0))

/-- VIOTA (R207). With a float base of -0 lane 0 is the sum of -0 and +0, which is +0 (DESIGN CHOICE, log 114). -/
def execViota (w : GWord) (s : State) : Out := unG s w fun a =>
  let b := (readLanes w.ty a).headD 0
  writeLanes w.ty ((List.range (laneCount w.ty)).map fun (i : Nat) =>
    if w.ty.isFlt then fpAdd (laneFmt w.ty) .rne false ((laneFmt w.ty).decode b) (Num.ofInt (i : Nat)) else (b + (i : Nat)) % 2 ^ 32)

def execVextr (w : GWord) (s : State) : Out := binG s w fun a k =>
  laneScalar w.ty ((readLanes w.ty a).getD (k.scalar.toNat % laneCount w.ty) 0)

def execVins (w : GWord) (s : State) : Out := binG s w fun x v =>
  let x := x.scalar
  writeLanes w.ty ((readLanes w.ty v).set (bits x 36 32 % laneCount w.ty) (x.toNat % 2 ^ laneBits w.ty))

def execVselm (w : GWord) (s : State) : Out := binG s w fun a m =>
  writeLanes w.ty ((readLanes w.ty a).mapIdx fun i x => if bit m.scalar i then x else 0)

def execVshuf (w : GWord) (s : State) : Out := binG s w fun a b =>
  let xs := readLanes w.ty a
  writeLanes w.ty ((readLanes w.ty b).map fun k => xs.getD (k % laneCount w.ty) 0)

def execVslide (w : GWord) (s : State) : Out := binG s w fun a k =>
  let xs := readLanes w.ty a
  let d := sval 64 k.scalar.toNat
  writeLanes w.ty ((List.range (laneCount w.ty)).map fun (i : Nat) =>
    if 0 ≤ (i : Int) + d then xs.getD ((i : Int) + d).toNat 0 else 0)

def execVzip (w : GWord) (s : State) : Out := binG s w fun a b =>
  let n := laneCount w.ty / 2
  let xs := (readLanes w.ty a).take n
  let ys := (readLanes w.ty b).take n
  writeLanes w.ty ((List.zip xs ys).flatMap fun p => [p.1, p.2])

def execVunzip (w : GWord) (s : State) : Out := binG s w fun a b =>
  let evens (l : List Nat) : List Nat := (List.range (laneCount w.ty / 2)).map fun i => l.getD (2 * i) 0
  writeLanes w.ty (evens (readLanes w.ty a) ++ evens (readLanes w.ty b))

/-- A fold over the lanes in ascending order, starting from lane 0 (R208). -/
def foldLanes (ty : RType) (op : Nat → Nat → Nat) (a : Val) : Nat :=
  match readLanes ty a with
  | [] => 0
  | x :: xs => xs.foldl op x

def minMaxLane (ty : RType) (most : Bool) (a b : Nat) : Nat :=
  if ty.isFlt then (if most then fMax (laneFmt ty) a b else fMin (laneFmt ty) a b)
  else
    let x := toInt 32 (isSigned ty) a
    let y := toInt 32 (isSigned ty) b
    if most then (if x < y then b else a) else (if y < x then b else a)

/-- An all-NaN vector yields nan_of applied to lane 0, which a fold over two lanes or more gives (R208). -/
def execVrmax (w : GWord) (s : State) : Out := unG s w fun a => laneScalar w.ty (foldLanes w.ty (minMaxLane w.ty true) a)
def execVrmin (w : GWord) (s : State) : Out := unG s w fun a => laneScalar w.ty (foldLanes w.ty (minMaxLane w.ty false) a)

/-- A lane widened exactly to FP32 (R209). -/
def widen32 (ty : RType) (x : Nat) : Nat :=
  match ty with
  | .vbf16 | .bf16 => x * 2 ^ 16
  | _ => x

/-- The running sums of R209 in FP32, from the lane after the first on. -/
def runSums (mode : RM) (s : Nat) : List Nat → List Nat
  | [] => []
  | x :: xs =>
    let s' := fpAdd .f32 mode false (FF.f32.decode s) (FF.f32.decode x)
    s' :: runSums mode s' xs

/-- Every prefix sum in FP32, or modulo 2^32 for integer lanes (R209). -/
def prefixSums (w : GWord) (a : Val) : List Nat :=
  let xs := readLanes w.ty a
  if w.ty.isFlt then
    match xs.map (widen32 w.ty) with
    | [] => []
    | x :: rest => x :: runSums (rmOf w.mode.toNat) x rest
  else (xs.foldl (fun (acc : Nat × List Nat) x =>
    let t := (acc.1 + x) % 2 ^ 32
    (t, acc.2 ++ [t])) (0, [])).2

def execVrsum (w : GWord) (s : State) : Out := unG s w fun a =>
  let t := (prefixSums w a).getLastD 0
  if w.ty.isFlt then scalarOut .f32 t else laneScalar w.ty t

def execVscan (w : GWord) (s : State) : Out := unG s w fun a =>
  writeLanes w.ty ((prefixSums w a).map fun t =>
    if w.ty.isFlt then roundNum (laneFmt w.ty) (rmOf w.mode.toNat) false (FF.f32.decode t) else t)

/-- One lane of VARGMAX or VARGMIN against the best so far, both as (f32 code, index) (R211). -/
def argStep (most : Bool) (best : Option (Nat × Nat)) (x j : Nat) : Option (Nat × Nat) :=
  let v := FF.f32.decode x
  if v.isNan then best
  else match best with
    | none => some (x, j)
    | some (bv, bi) =>
      let d := Num.cmp v (FF.f32.decode bv)
      let better := if most then decide (0 < d) else decide (d < 0)
      if better || (d == 0 && decide (j < bi)) then some (x, j) else best

/-- VARGMAX and VARGMIN (R210, R211): `carry` is the 512 bits of the carry. -/
def argScan (ty : RType) (most : Bool) (a : Val) (carry : Nat) : Val :=
  let cv := carry % 2 ^ 32
  let ci := (carry >>> 32) % 2 ^ 32
  let cb := (carry >>> 64) % 2 ^ 32
  let start := if (FF.f32.decode cv).isNan then none else some (cv, ci)
  let xs := (readLanes ty a).map (widen32 ty)
  let best := (xs.mapIdx fun i x => (x, (cb + (i : Nat)) % 2 ^ 32)).foldl (fun b p => argStep most b p.1 p.2) start
  let out := match best with
    | some (v, i) => [v, i, (cb + laneCount ty) % 2 ^ 32, 0]
    | none => [0x7FC00000, 0xFFFFFFFF, (cb + laneCount ty) % 2 ^ 32, 1]
  .vec (vecOf 32 out)

/-- The carry: the right operand, or with imm an empty one with the immediate as base (R210). -/
def carryOf (w : GWord) (b : Val) : Nat :=
  if w.imm then 0x7FC00000 + 0xFFFFFFFF <<< 32 + bits (GWord.immWord w) 31 0 <<< 64 else b.wide

def execVargmax (w : GWord) (s : State) : Out := binG s w fun a b => argScan w.ty true a (carryOf w b)
def execVargmin (w : GWord) (s : State) : Out := binG s w fun a b => argScan w.ty false a (carryOf w b)

end Sys2Proof.Machine
end

