-- ==== Sys2Proof/Machine/Dispatch.lean ====
section
/-! DEFINITION. `exec`: one arm per constructor of `Instr`, each one call of its meaning. -/

namespace Sys2Proof.Machine

def exec (i : Instr) (s : State) : Host.Outcome State Fault Refusal :=
  match i with
  | .abs w => Sys2Proof.Machine.execAbs w s
  | .add w => Sys2Proof.Machine.execAdd w s
  | .and w => Sys2Proof.Machine.execAnd w s
  | .andn w => Sys2Proof.Machine.execAndn w s
  | .bfext w => Sys2Proof.Machine.execBfext w s
  | .bfins w => Sys2Proof.Machine.execBfins w s
  | .bswap w => Sys2Proof.Machine.execBswap w s
  | .clz w => Sys2Proof.Machine.execClz w s
  | .ctz w => Sys2Proof.Machine.execCtz w s
  | .div w => Sys2Proof.Machine.execDiv w s
  | .lea w => Sys2Proof.Machine.execLea w s
  | .max w => Sys2Proof.Machine.execMax w s
  | .min w => Sys2Proof.Machine.execMin w s
  | .mov w => Sys2Proof.Machine.execMov w s
  | .movhi w => Sys2Proof.Machine.execMovhi w s
  | .movi w => Sys2Proof.Machine.execMovi w s
  | .mul w => Sys2Proof.Machine.execMul w s
  | .mulh w => Sys2Proof.Machine.execMulh w s
  | .neg w => Sys2Proof.Machine.execNeg w s
  | .or w => Sys2Proof.Machine.execOr w s
  | .popc w => Sys2Proof.Machine.execPopc w s
  | .rem w => Sys2Proof.Machine.execRem w s
  | .rol w => Sys2Proof.Machine.execRol w s
  | .ror w => Sys2Proof.Machine.execRor w s
  | .sar w => Sys2Proof.Machine.execSar w s
  | .sel w => Sys2Proof.Machine.execSel w s
  | .sext w => Sys2Proof.Machine.execSext w s
  | .shl w => Sys2Proof.Machine.execShl w s
  | .shr w => Sys2Proof.Machine.execShr w s
  | .sub w => Sys2Proof.Machine.execSub w s
  | .xor w => Sys2Proof.Machine.execXor w s
  | .zext w => Sys2Proof.Machine.execZext w s
  | .cmp w => Sys2Proof.Machine.execCmp w s
  | .fcmp w => Sys2Proof.Machine.execFcmp w s
  | .isbub w => Sys2Proof.Machine.execIsbub w s
  | .isstop w => Sys2Proof.Machine.execIsstop w s
  | .merge w => Sys2Proof.Machine.execMerge w s
  | .null w => Sys2Proof.Machine.execNull w s
  | .ordjoin w => Sys2Proof.Machine.execOrdjoin w s
  | .pand w => Sys2Proof.Machine.execPand w s
  | .pnot w => Sys2Proof.Machine.execPnot w s
  | .por w => Sys2Proof.Machine.execPor w s
  | .pxor w => Sys2Proof.Machine.execPxor w s
  | .reorder w => Sys2Proof.Machine.execReorder w s
  | .route w => Sys2Proof.Machine.execRoute w s
  | .sink w => Sys2Proof.Machine.execSink w s
  | .steer w => Sys2Proof.Machine.execSteer w s
  | .stop w => Sys2Proof.Machine.execStop w s
  | .strip w => Sys2Proof.Machine.execStrip w s
  | .br w => Sys2Proof.Machine.execBr w s
  | .bri w => Sys2Proof.Machine.execBri w s
  | .call w => Sys2Proof.Machine.execCall w s
  | .calli w => Sys2Proof.Machine.execCalli w s
  | .halt w => Sys2Proof.Machine.execHalt w s
  | .ret w => Sys2Proof.Machine.execRet w s
  | .tagget w => Sys2Proof.Machine.execTagget w s
  | .tagin w => Sys2Proof.Machine.execTagin w s
  | .taginc w => Sys2Proof.Machine.execTaginc w s
  | .tagout w => Sys2Proof.Machine.execTagout w s
  | .tagset w => Sys2Proof.Machine.execTagset w s
  | .tagwin w => Sys2Proof.Machine.execTagwin w s
  | .yield w => Sys2Proof.Machine.execYield w s
  | .fabs w => Sys2Proof.Machine.execFabs w s
  | .fadd w => Sys2Proof.Machine.execFadd w s
  | .fclamp w => Sys2Proof.Machine.execFclamp w s
  | .fcpsgn w => Sys2Proof.Machine.execFcpsgn w s
  | .fexp2 w => Sys2Proof.Machine.execFexp2 w s
  | .flog2 w => Sys2Proof.Machine.execFlog2 w s
  | .fma w => Sys2Proof.Machine.execFma w s
  | .fmax w => Sys2Proof.Machine.execFmax w s
  | .fmin w => Sys2Proof.Machine.execFmin w s
  | .fmul w => Sys2Proof.Machine.execFmul w s
  | .fneg w => Sys2Proof.Machine.execFneg w s
  | .frcp w => Sys2Proof.Machine.execFrcp w s
  | .fround w => Sys2Proof.Machine.execFround w s
  | .frsq w => Sys2Proof.Machine.execFrsq w s
  | .fscale w => Sys2Proof.Machine.execFscale w s
  | .fsqrt w => Sys2Proof.Machine.execFsqrt w s
  | .fsub w => Sys2Proof.Machine.execFsub w s
  | .cvt w => Sys2Proof.Machine.execCvt w s
  | .qscale w => Sys2Proof.Machine.execQscale w s
  | .vargmax w => Sys2Proof.Machine.execVargmax w s
  | .vargmin w => Sys2Proof.Machine.execVargmin w s
  | .vbcast w => Sys2Proof.Machine.execVbcast w s
  | .vextr w => Sys2Proof.Machine.execVextr w s
  | .vins w => Sys2Proof.Machine.execVins w s
  | .viota w => Sys2Proof.Machine.execViota w s
  | .vrmax w => Sys2Proof.Machine.execVrmax w s
  | .vrmin w => Sys2Proof.Machine.execVrmin w s
  | .vrsum w => Sys2Proof.Machine.execVrsum w s
  | .vscan w => Sys2Proof.Machine.execVscan w s
  | .vselm w => Sys2Proof.Machine.execVselm w s
  | .vshuf w => Sys2Proof.Machine.execVshuf w s
  | .vslide w => Sys2Proof.Machine.execVslide w s
  | .vunzip w => Sys2Proof.Machine.execVunzip w s
  | .vzip w => Sys2Proof.Machine.execVzip w s
  | .aadd w => Sys2Proof.Machine.execAadd w s
  | .aand w => Sys2Proof.Machine.execAand w s
  | .acas w => Sys2Proof.Machine.execAcas w s
  | .afadd w => Sys2Proof.Machine.execAfadd w s
  | .amax w => Sys2Proof.Machine.execAmax w s
  | .amin w => Sys2Proof.Machine.execAmin w s
  | .aor w => Sys2Proof.Machine.execAor w s
  | .atset w => Sys2Proof.Machine.execAtset w s
  | .axchg w => Sys2Proof.Machine.execAxchg w s
  | .axor w => Sys2Proof.Machine.execAxor w s
  | .fence w => Sys2Proof.Machine.execFence w s
  | .ld w => Sys2Proof.Machine.execLd w s
  | .lds w => Sys2Proof.Machine.execLds w s
  | .ldx w => Sys2Proof.Machine.execLdx w s
  | .pfetch w => Sys2Proof.Machine.execPfetch w s
  | .reside w => Sys2Proof.Machine.execReside w s
  | .st w => Sys2Proof.Machine.execSt w s
  | .sts w => Sys2Proof.Machine.execSts w s
  | .stx w => Sys2Proof.Machine.execStx w s
  | .widen w => Sys2Proof.Machine.execWiden w s
  | .xlat w => Sys2Proof.Machine.execXlat w s
  | .attsc w => Sys2Proof.Machine.execAttsc w s
  | .baradd w => Sys2Proof.Machine.execBaradd w s
  | .bararr w => Sys2Proof.Machine.execBararr w s
  | .barinit w => Sys2Proof.Machine.execBarinit w s
  | .barwait w => Sys2Proof.Machine.execBarwait w s
  | .cclr w => Sys2Proof.Machine.execCclr w s
  | .coll w => Sys2Proof.Machine.execColl w s
  | .cpy w => Sys2Proof.Machine.execCpy w s
  | .cpyfill w => Sys2Proof.Machine.execCpyfill w s
  | .cpyrot w => Sys2Proof.Machine.execCpyrot w s
  | .ffr w => Sys2Proof.Machine.execFfr w s
  | .gath w => Sys2Proof.Machine.execGath w s
  | .intsect w => Sys2Proof.Machine.execIntsect w s
  | .mma w => Sys2Proof.Machine.execMma w s
  | .mmas w => Sys2Proof.Machine.execMmas w s
  | .netrecv w => Sys2Proof.Machine.execNetrecv w s
  | .netsend w => Sys2Proof.Machine.execNetsend w s
  | .poolcut w => Sys2Proof.Machine.execPoolcut w s
  | .poolmove w => Sys2Proof.Machine.execPoolmove w s
  | .poolqry w => Sys2Proof.Machine.execPoolqry w s
  | .scld w => Sys2Proof.Machine.execScld w s
  | .spacc w => Sys2Proof.Machine.execSpacc w s
  | .spflush w => Sys2Proof.Machine.execSpflush w s
  | .waitall w => Sys2Proof.Machine.execWaitall w s
  | .waitany w => Sys2Proof.Machine.execWaitany w s
  | .cfgload w => Sys2Proof.Machine.execCfgload w s
  | .collapse w => Sys2Proof.Machine.execCollapse w s
  | .ctxrest w => Sys2Proof.Machine.execCtxrest w s
  | .ctxsave w => Sys2Proof.Machine.execCtxsave w s
  | .eret w => Sys2Proof.Machine.execEret w s
  | .getc w => Sys2Proof.Machine.execGetc w s
  | .kvapp w => Sys2Proof.Machine.execKvapp w s
  | .kvmap w => Sys2Proof.Machine.execKvmap w s
  | .launch w => Sys2Proof.Machine.execLaunch w s
  | .logrec w => Sys2Proof.Machine.execLogrec w s
  | .nop w => Sys2Proof.Machine.execNop w s
  | .pfxcmp w => Sys2Proof.Machine.execPfxcmp w s
  | .replay w => Sys2Proof.Machine.execReplay w s
  | .rng w => Sys2Proof.Machine.execRng w s
  | .setc w => Sys2Proof.Machine.execSetc w s
  | .setcFclr w => Sys2Proof.Machine.execSetcFclr w s
  | .skget w => Sys2Proof.Machine.execSkget w s
  | .skmix w => Sys2Proof.Machine.execSkmix w s
  | .skset w => Sys2Proof.Machine.execSkset w s
  | .smaxinit w => Sys2Proof.Machine.execSmaxinit w s
  | .smaxupd w => Sys2Proof.Machine.execSmaxupd w s
  | .specbeg w => Sys2Proof.Machine.execSpecbeg w s
  | .speccmt w => Sys2Proof.Machine.execSpeccmt w s
  | .specres w => Sys2Proof.Machine.execSpecres w s
  | .takein w => Sys2Proof.Machine.execTakein w s
  | .trap w => Sys2Proof.Machine.execTrap w s
  | .withdraw w => Sys2Proof.Machine.execWithdraw w s
  | .tokenArrival core k => Sys2Proof.Machine.execTokenArrival core k s
  | .illegal word => Sys2Proof.Machine.execIllegal word s
  | .managementPageWrite cc core elem ctx slot word => Sys2Proof.Machine.execManagementPageWrite cc core elem ctx slot word s
  | .reconfiguration core elem k => Sys2Proof.Machine.execReconfiguration core elem k s
  | .elementContextSwitch core elem => Sys2Proof.Machine.execElementContextSwitch core elem s
  | .blockFetch core => Sys2Proof.Machine.execBlockFetch core s
  | .bobbinAllocation core ctx => Sys2Proof.Machine.execBobbinAllocation core ctx s
  | .tagExhaust core ctx => Sys2Proof.Machine.execTagExhaust core ctx s
  | .matchStall core elem => Sys2Proof.Machine.execMatchStall core elem s
  | .frameRead core ctx n d => Sys2Proof.Machine.execFrameRead core ctx n d s
  | .channelSlotRead core ctx n d => Sys2Proof.Machine.execChannelSlotRead core ctx n d s
  | .instanceCommit core ctx => Sys2Proof.Machine.execInstanceCommit core ctx s
  | .instanceTrap core ctx => Sys2Proof.Machine.execInstanceTrap core ctx s
  | .contextEnd core ctx => Sys2Proof.Machine.execContextEnd core ctx s
  | .loadReturn core ctx k => Sys2Proof.Machine.execLoadReturn core ctx k s
  | .pageInRequest core port slot => Sys2Proof.Machine.execPageInRequest core port slot s
  | .atomicPerform core ctx k => Sys2Proof.Machine.execAtomicPerform core ctx k s
  | .shootdown core => Sys2Proof.Machine.execShootdown core s
  | .barrierApply core ctx k => Sys2Proof.Machine.execBarrierApply core ctx k s
  | .barwaitRelease core ctx k => Sys2Proof.Machine.execBarwaitRelease core ctx k s
  | .completionTagTake core ctx k => Sys2Proof.Machine.execCompletionTagTake core ctx k s
  | .waitSatisfied core ctx k => Sys2Proof.Machine.execWaitSatisfied core ctx k s
  | .poolcutApply core ctx k => Sys2Proof.Machine.execPoolcutApply core ctx k s
  | .poolTransition core => Sys2Proof.Machine.execPoolTransition core s
  | .poolmoveCompletion core k => Sys2Proof.Machine.execPoolmoveCompletion core k s
  | .matrixCommandStart core k => Sys2Proof.Machine.execMatrixCommandStart core k s
  | .matrixCompletion core k => Sys2Proof.Machine.execMatrixCompletion core k s
  | .consumedEvent core k => Sys2Proof.Machine.execConsumedEvent core k s
  | .scaleTokenArrival core k => Sys2Proof.Machine.execScaleTokenArrival core k s
  | .streamerAccept core => Sys2Proof.Machine.execStreamerAccept core s
  | .streamerCompletion core k => Sys2Proof.Machine.execStreamerCompletion core k s
  | .rateWindow core ctx => Sys2Proof.Machine.execRateWindow core ctx s
  | .gatherEntryIssue core k => Sys2Proof.Machine.execGatherEntryIssue core k s
  | .gatherReturn core k => Sys2Proof.Machine.execGatherReturn core k s
  | .intsectStreamSend core k => Sys2Proof.Machine.execIntsectStreamSend core k s
  | .spaccApply core ctx k => Sys2Proof.Machine.execSpaccApply core ctx k s
  | .spflushCompletion core k => Sys2Proof.Machine.execSpflushCompletion core k s
  | .collInstance part group epoch => Sys2Proof.Machine.execCollInstance part group epoch s
  | .collCompletion core k => Sys2Proof.Machine.execCollCompletion core k s
  | .netCompletion core k status data => Sys2Proof.Machine.execNetCompletion core k status data s
  | .sendArrival qp data => Sys2Proof.Machine.execSendArrival qp data s
  | .rdmaWriteArrival qp addr data => Sys2Proof.Machine.execRdmaWriteArrival qp addr data s
  | .kvappPerform core ctx k => Sys2Proof.Machine.execKvappPerform core ctx k s
  | .replayPerform core ctx k => Sys2Proof.Machine.execReplayPerform core ctx k s
  | .specApply core ctx k => Sys2Proof.Machine.execSpecApply core ctx k s
  | .channelEntryArrival core ctx slot => Sys2Proof.Machine.execChannelEntryArrival core ctx slot s
  | .seamCredit core ctx slot => Sys2Proof.Machine.execSeamCredit core ctx slot s
  | .linkFlitRetry link => Sys2Proof.Machine.execLinkFlitRetry link s
  | .linkFailure link => Sys2Proof.Machine.execLinkFailure link s
  | .partReply cc part value => Sys2Proof.Machine.execPartReply cc part value s
  | .resumeRetry cc core ctx node => Sys2Proof.Machine.execResumeRetry cc core ctx node s
  | .resumeTrap cc core ctx node => Sys2Proof.Machine.execResumeTrap cc core ctx node s
  | .takeIn core ctx => Sys2Proof.Machine.execTakeIn core ctx s
  | .takeInTimeout core ctx => Sys2Proof.Machine.execTakeInTimeout core ctx s
  | .panelGrowth core ctx => Sys2Proof.Machine.execPanelGrowth core ctx s
  | .ctxsaveCompletion core k => Sys2Proof.Machine.execCtxsaveCompletion core k s
  | .ctxrestCompletion core k => Sys2Proof.Machine.execCtxrestCompletion core k s
  | .savedCommandCompletion part n k status => Sys2Proof.Machine.execSavedCommandCompletion part n k status s
  | .dispatch part => Sys2Proof.Machine.execDispatch part s
  | .resumeRestore part => Sys2Proof.Machine.execResumeRestore part s
  | .launchReserve core ctx k => Sys2Proof.Machine.execLaunchReserve core ctx k s
  | .qDoor cc part q addr => Sys2Proof.Machine.execQDoor cc part q addr s
  | .partWdraw cc part key => Sys2Proof.Machine.execPartWdraw cc part key s
  | .partKill cc part value => Sys2Proof.Machine.execPartKill cc part value s
  | .partReset cc part value => Sys2Proof.Machine.execPartReset cc part value s
  | .partCoresWrite cc part half value => Sys2Proof.Machine.execPartCoresWrite cc part half value s
  | .partShoot cc part value => Sys2Proof.Machine.execPartShoot cc part value s
  | .shootdownComplete part => Sys2Proof.Machine.execShootdownComplete part s
  | .partPreq cc part value => Sys2Proof.Machine.execPartPreq cc part value s
  | .cxRlim cc core ctx value => Sys2Proof.Machine.execCxRlim cc core ctx value s
  | .qpCfg cc qp value => Sys2Proof.Machine.execQpCfg cc qp value s
  | .netLaunch qp data => Sys2Proof.Machine.execNetLaunch qp data s
  | .netWithdraw qp data => Sys2Proof.Machine.execNetWithdraw qp data s
  | .netBadOp qp data => Sys2Proof.Machine.execNetBadOp qp data s
  | .refreshRetry stack hint => Sys2Proof.Machine.execRefreshRetry stack hint s
  | .rowRefresh stack row => Sys2Proof.Machine.execRowRefresh stack row s
  | .patrolScrub stack row found => Sys2Proof.Machine.execPatrolScrub stack row found s
  | .correctableError stack row => Sys2Proof.Machine.execCorrectableError stack row s
  | .uncorrectableError addr => Sys2Proof.Machine.execUncorrectableError addr s
  | .errorWindowEnd stack => Sys2Proof.Machine.execErrorWindowEnd stack s
  | .mcDue cc stack value => Sys2Proof.Machine.execMcDue cc stack value s
  | .mcCfg cc stack value => Sys2Proof.Machine.execMcCfg cc stack value s
  | .boot m => Sys2Proof.Machine.execBoot m s
  | .networkRecoveryFrame m => Sys2Proof.Machine.execNetworkRecoveryFrame m s
  | .mgArb cc k mask => Sys2Proof.Machine.execMgArb cc k mask s
  | .mgAttest cc addr => Sys2Proof.Machine.execMgAttest cc addr s
  | .attestComplete => Sys2Proof.Machine.execAttestComplete s
  | .mgReset cc value => Sys2Proof.Machine.execMgReset cc value s
  | .powerCapStep now => Sys2Proof.Machine.execPowerCapStep now s
  | .thermalStop tj => Sys2Proof.Machine.execThermalStop tj s
  | .thermalRestart tj => Sys2Proof.Machine.execThermalRestart tj s
  | .registerWrite cc addr value => Sys2Proof.Machine.execRegisterWrite cc addr value s
  | .controlCoreAccess cc part addr op => Sys2Proof.Machine.execControlCoreAccess cc part addr op s
  | .rdmaReadRequest qp addr len => Sys2Proof.Machine.execRdmaReadRequest qp addr len s
  | .powerCapLift now => Sys2Proof.Machine.execPowerCapLift now s

end Sys2Proof.Machine
end

