-- ==== Sys2Proof/Machine/Moves.lean ====
section
/-! DEFINITION. The coming moves (State.agenda): what each asks `step` to run, the passing of one cycle, and the moves
proposed when none is left (log 2). -/

namespace Sys2Proof.Machine

/-- What a move comes to: an instruction to run on a state, a state, or a unit that the package does not have. -/
inductive Prep where
  | run (i : Instr) (s : State)
  | done (s : State)
  | noUnit

def coreOk (s : State) (c : Nat) : Bool := c < s.cores.length
def ctxOk (s : State) (c x : Nat) : Bool := coreOk s c && x < (s.core c).cxs.length
def elemOk (s : State) (c e : Nat) : Bool := coreOk s c && e < (s.core c).elems.length

/-- Steps that a core clock drives: none happens while the core clocks stand (R401). -/
def coreStep (i : Instr) : Bool :=
  match i with
  | .tokenArrival _ _ | .reconfiguration _ _ _ | .elementContextSwitch _ _ | .blockFetch _ | .bobbinAllocation _ _
  | .tagExhaust _ _ | .matchStall _ _ | .frameRead _ _ _ _ | .channelSlotRead _ _ _ _ | .instanceCommit _ _
  | .instanceTrap _ _ | .contextEnd _ _ | .loadReturn _ _ _ | .pageInRequest _ _ _ | .atomicPerform _ _ _
  | .shootdown _ | .barrierApply _ _ _ | .barwaitRelease _ _ _ | .completionTagTake _ _ _ | .waitSatisfied _ _ _
  | .poolcutApply _ _ _ | .poolTransition _ | .poolmoveCompletion _ _ | .matrixCommandStart _ _
  | .matrixCompletion _ _ | .consumedEvent _ _ | .scaleTokenArrival _ _ | .streamerAccept _ | .streamerCompletion _ _
  | .rateWindow _ _ | .gatherEntryIssue _ _ | .gatherReturn _ _ | .intsectStreamSend _ _ | .spaccApply _ _ _
  | .spflushCompletion _ _ | .collCompletion _ _ | .kvappPerform _ _ _ | .replayPerform _ _ _ | .specApply _ _ _
  | .channelEntryArrival _ _ _ | .seamCredit _ _ _ | .takeIn _ _ | .takeInTimeout _ _ | .panelGrowth _ _
  | .ctxsaveCompletion _ _ | .ctxrestCompletion _ _ | .launchReserve _ _ _ => true
  | _ => false

/-- An element fires what R58 picks, when that is something. -/
def prepFire (s : State) (c e : Nat) : Prep :=
  if !elemOk s c e then .noUnit
  else if s.dev.thermal then .done s
  else match s.pick c e with
    | none => .done s
    | some r =>
      let (s, f) := s.takeSet c e r
      match r.what with
      | .ok i => .run i { s with sel := some f }
      | .error w => .run (.illegal w) { s with sel := some f }

/-- A held operation is tried again as a whole. -/
def prepRetry (s : State) (c x k : Nat) : Prep :=
  if !ctxOk s c x then .noUnit
  else if s.dev.thermal then .done s
  else match (s.cx c x).pend[k]? with
    | none => .done s
    | some q => match q.st with
      | .held => .run q.i { s.dropPend c x k with sel := some q.f }
      | _ => .done s

/-! ## One cycle -/

/-- Does a context's limiter hold a token at its input ports (R244, R245)? -/
def State.limiterHolds (s : State) (c x : Nat) : Bool :=
  let k := s.core c
  !(s.cx c x).rateOk &&
    (k.fabric.any (fun fl => fl.ctx == x && fl.outside) || k.scaleFlights.any fun t => t.2.f.ctx == x)

/-- Does an element hold a token back because its store and its overflow area are full (R61, R62)? -/
def State.backPressures (s : State) (c e : Nat) : Bool :=
  let k := s.core c
  let el := s.elem c e
  64 ≤ el.store.length && (256 ≤ el.ovf.length || k.ovfLines.isNone) &&
    k.fabric.any fun fl => match fl.dest with
      | .pos g _ _ => g == e
      | _ => false

/-- The stall count of an element after a cycle (R63, R245). -/
def State.stallAfter (s : State) (c e : Nat) (el : Elem) : Nat :=
  if el.all.isEmpty then el.stall
  else if (List.range 8).any fun x => !(s.setsOn c x e).isEmpty then 0
  else if s.backPressures c e && !((firstEnt el.all).map fun t => s.limiterHolds c t.ctx).getD false then el.stall + 1
  else el.stall

/-- The stall count of the tile matching store after a cycle (R232). -/
def State.matStallAfter (s : State) (c : Nat) : Nat :=
  let k := s.core c
  let mat := k.cmds.filter fun m => m.port == 32 && isMat m.i
  if mat.any fun m => m.st == .accepted && m.ord != 0 then 0
  else if 32 ≤ k.matUsed && (mat.any (·.st == .sent) || !k.scaleFlights.isEmpty) &&
      !(k.firstTile.map fun t => s.limiterHolds c t.2.2.1).getD false then k.matStall + 1
  else k.matStall

/-- The throttle count of a context after a cycle (R39, R245). -/
def State.bobWaitAfter (s : State) (c x : Nat) (v : Ctx) : Nat :=
  match v.waiter with
  | some (_, _, fld) => if s.throttles c x fld && !s.limiterHolds c x then v.bobWait + 1 else v.bobWait
  | none => 0

/-- Does a core have anything on it that moves by itself? -/
def Core.busy (k : Core) : Bool :=
  k.cxs.any (fun v => v.phase != .free) || !k.cmds.isEmpty || !k.fabric.isEmpty || !k.rbuf.isEmpty || !k.late.isEmpty ||
    k.elems.any fun e => !e.reconf.isEmpty

/-- One cycle of a core (R20). -/
def State.tickCore (s : State) (c : Nat) (k : Core) : Core :=
  if !k.busy then { k with cycle := k.cycle + 1 }
  else { k with
    cycle := k.cycle + 1,
    matStall := s.matStallAfter c,
    elems := k.elems.mapIdx fun e el => { el with stall := s.stallAfter c e el },
    cxs := k.cxs.mapIdx fun x v => { v with bobWait := s.bobWaitAfter c x v } }

/-- A cycle of one core passes, unless the core clocks stand (R401); values that nothing carries any more have retired
(R37). The cores' counters pass apart from one another (R20). -/
def State.cycle (s : State) (c : Nat) : State :=
  if s.dev.thermal then s
  else
    let s := (List.range 8).foldl (fun s x => if (s.cx c x).bobLive.isEmpty then s else s.retireValues c x) s
    s.setCore c (s.tickCore c (s.core c))

/-- A cycle of the dispatcher passes (R362). -/
def State.tick (s : State) : State := { s with dcyc := s.dcyc + 1 }

/-- What a move asks for. -/
def prepare (s : State) (a : Act) : Prep :=
  match a with
  | .fire c e => prepFire s c e
  | .retry c x k => prepRetry s c x k
  | .leave c e => if elemOk s c e then .done (s.leaveSlot c e) else .noUnit
  | .cycle c => if coreOk s c then .done (s.cycle c) else .noUnit
  | .evict c line => if coreOk s c then .done (s.evictHeld c line) else .noUnit
  | .drain c n g => if coreOk s c then .done (s.drain c n g) else .noUnit
  | .part c x k g => if ctxOk s c x then .done (s.loadPart c x k g) else .noUnit
  | .sample c k pa => if coreOk s c then .done (s.sample c k pa) else .noUnit
  | .reveal c x g => if ctxOk s c x then .done (s.reveal c x g) else .noUnit
  | .evictLlc line => .done { s with llc := s.llc.filter (·.line != line) }
  | .event i =>
    if !i.unitsOk then .noUnit
    else if coreStep i && s.dev.thermal then .done s
    else .run i { s with sel := none }

/-! ## Proposals -/

/-- Moves of a waiting operation. -/
def pendMoves (c x k : Nat) (q : Pend) : List Instr :=
  match q.st, q.i with
  | .load _ _, .launch _ => [.launchReserve c x k]
  | .load _ _, _ => [.loadReturn c x k]
  | .perform, .kvapp _ => [.kvappPerform c x k]
  | .perform, .replay _ => [.replayPerform c x k]
  | .perform, .specbeg _ | .perform, .speccmt _ => [.specApply c x k]
  | .perform, .spacc _ => [.spaccApply c x k]
  | .perform, .poolcut _ => [.poolcutApply c x k]
  | .perform, _ => [.atomicPerform c x k, .barrierApply c x k]
  | .wait, .barwait _ => [.barwaitRelease c x k]
  | .wait, _ => [.waitSatisfied c x k]
  | .cut, _ => [.poolcutApply c x k]
  | _, _ => []

/-- Moves of an engine command; those that a network answers come from outside. -/
def cmdMoves (c k : Nat) (m : Cmd) : List Instr :=
  match m.i with
  | .mma _ | .mmas _ | .attsc _ => [.consumedEvent c k, .matrixCompletion c k, .matrixCommandStart c k]
  | .cpy _ | .cpyfill _ | .cpyrot _ => [.streamerCompletion c k]
  | .gath _ => [.gatherReturn c k, .gatherEntryIssue c k]
  | .intsect _ => [.intsectStreamSend c k]
  | .spflush _ => [.spflushCompletion c k]
  | .coll _ => [.collCompletion c k]
  | .poolmove _ => [.poolmoveCompletion c k]
  | .ctxsave _ => [.ctxsaveCompletion c k]
  | .ctxrest _ => [.ctxrestCompletion c k]
  | _ => if m.status = 0 && m.st == .accepted then [] else [.netCompletion c k 0 []]

/-- Reads of an instance that are still to be delivered (R52, R53). -/
def readMoves (c x n : Nat) (img : List Word) (i : Inst) : List Instr :=
  ((List.range (blkAt img i.blk).nreads).filter fun d => !i.reads.contains d).flatMap fun d =>
    [.frameRead c x n d, .channelSlotRead c x n d]

/-- Loads of more than 16 bytes that wait: they may read one granule before the rest (R326). -/
def partMoves (c x : Nat) (v : Ctx) : List Act :=
  (v.pend.mapIdx fun k q => (k, q)).filterMap fun t => match t.2.st with
    | .load pas _ => if 16 < pas.length then some (Act.part c x t.1 0) else none
    | _ => none

/-- Commands that read more than 16 bytes and have read none yet: they may read one granule before the rest (R326). -/
def sampleMoves (c : Nat) (l : List Cmd) : List Act :=
  (l.mapIdx fun n m => (n, m)).filterMap fun t =>
    let src := t.2.pas ++ moveSrc t.2.i t.2.f
    if readsApart t.2.i && t.2.st == .accepted && t.2.got.isEmpty && 16 < src.length then
      some (Act.sample c t.1 (src.headD 0))
    else none

/-- Moves of a context, but for its commits. -/
def ctxMoves (c x : Nat) (v : Ctx) : List Act :=
  let held := ((v.pend.mapIdx fun k q => (k, q)).filter fun t => t.2.st == .held).map (·.1)
  partMoves c x v ++
  ((v.fifos.flatMap fun q => [Instr.channelEntryArrival c x q.slot, .seamCredit c x q.slot]) ++
    ((v.insts ++ v.hInsts).mapIdx fun n i => readMoves c x n v.lau.image i).flatten ++
    (downTo v.pend.length).flatMap (fun k => ((v.pend[k]?).map (pendMoves c x k)).getD [])).map Act.event ++
  (shiftPlaces held).map (Act.retry c x)

/-- What a context does about its instances, its window and its end. -/
def strandMoves (c x : Nat) : List Act :=
  [.reveal c x 0, .event (.bobbinAllocation c x), .event (.tagExhaust c x), .event (.instanceCommit c x), .event (.instanceTrap c x),
   .event (.contextEnd c x), .event (.takeIn c x), .event (.takeInTimeout c x), .event (.panelGrowth c x),
   .event (.rateWindow c x)]

/-- Moves of an element. -/
def elemMoves (c e : Nat) (el : Elem) : List Act :=
  (downTo el.reconf.length).map (fun k => Act.event (.reconfiguration c e k)) ++
  [.event (.elementContextSwitch c e), .fire c e] ++
  if el.stall < 65536 then [] else [.event (.matchStall c e)]

/-- Moves of a core, those of tokens first and the fetch last. -/
def State.coreMoves (s : State) (c : Nat) (k : Core) : List Act :=
  if !k.busy then []
  else
    let live := (List.range 8).filter fun x => (s.cx c x).phase != .free
    let ev (l : List Instr) : List Act := l.map Act.event
    (k.fabric.filterMap fun fl => if fl.out.isSome then some (Act.leave c fl.src) else none) ++
    ev ((downTo k.fabric.length).map (.tokenArrival c)) ++
    ev ((downTo k.scaleFlights.length).map (.scaleTokenArrival c)) ++
    live.flatMap (fun x => ctxMoves c x (s.cx c x)) ++
    sampleMoves c k.cmds ++ ev ((downTo k.cmds.length).flatMap fun n => ((k.cmds[n]?).map (cmdMoves c n)).getD []) ++
    (downTo k.late.length).map (fun n => Act.drain c n 0) ++ ev [.streamerAccept c, .poolTransition c] ++
    (k.elems.mapIdx fun e el => elemMoves c e el).flatten ++
    (if k.matStall < 65536 then [] else ev [.matchStall c 64]) ++
    ev ((k.rbuf.filter RSlot.asks).map fun r => .pageInRequest c r.port r.slot) ++
    live.flatMap (strandMoves c) ++ ev [.blockFetch c]

/-- Moves of a partition. -/
def State.partMoves (s : State) (p : Nat) (v : Part) : List Act :=
  let groups := (s.cores.flatMap fun k => k.cmds.filterMap fun m =>
    if isColl m.i && m.st == .accepted then some (clGroup m.f, clEpoch m.f) else none).eraseDups
  (groups.map fun g => Act.event (.collInstance p g.1 g.2)) ++
  (match v.shoots with
    | [] => []
    | h :: _ => h.left.map (fun c => Act.event (.shootdown c)) ++ [.event (.shootdownComplete p)]) ++
  if v.queues.all (·.units.isEmpty) && v.pool.isEmpty then []
  else [.event (.dispatch p), .event (.resumeRestore p)]

/-- Every move that the package can make by itself, after a cycle of each core. -/
def State.moves (s : State) : List Act :=
  (List.range s.cores.length).map Act.cycle ++
  (s.cores.mapIdx fun c k => s.coreMoves c k).flatten ++ (s.parts.mapIdx fun p v => s.partMoves p v).flatten ++
  if s.dev.attBusy then [.event .attestComplete] else []

/-- When no move is left, a cycle passes and the moves are proposed afresh. -/
def propose (s : State) : State :=
  let s := s.tick
  { s with agenda := s.moves }

end Sys2Proof.Machine
end

