-- ==== Sys2Proof/Machine/Place.lean ====
section
/-! DEFINITION. Placing one instruction where the next step fires it (log 3): an image of one block whose instruction 0
is the word, the context that runs it, and its operand tokens. -/

namespace Sys2Proof.Machine

/-- The header of the image (R83): one block, scope CTX, seven tag fields, 63 channels, one variant, 64 slots, no
handler. -/
def placeHeader : List Word :=
  [0x000100010D721A6E, 0xFFFF0040013F0700, 0x0000008000000040, 0x0000000000000490, 0x0000000100000480, 0,
   0x00000000000008E0, 0]

/-- Seven tag fields of 8 bits (R84) and a filler. -/
def placeFields : List Word := [8, 8, 8, 8, 8, 8, 8, 0]

/-- Channels 0 to 62, depth 1, each of scope CTX (R85), and a filler. -/
def placeChans : List Word :=
  ((List.range 63).flatMap fun k => [BitVec.ofNat 64 (k + 0x10000), 0]) ++ [0, 0]

/-- One variant of one quad (R88), which holds the block. -/
def placeVariant : List Word := [0x010101, 0]

/-- The word of every other instruction: ADD under a predicate, without targets. -/
def placeFill : Word := 0x00BFFFF900000000

/-- The kind of the block: for a direct exit, whose target is the block itself, the kind that its word names. -/
def placeKind (w : Word) : Nat :=
  if wordOp w == 0x080 || wordOp w == 0x082 || wordOp w == 0x08C then bits w 34 33 else 0

/-- The image: header, tag fields, channels, variant, and the block record at byte 0x490 with 32 frame writes and 128
instructions, of which `w` is the first (R78-R82). -/
def placeImage (w : Word) : List Word :=
  placeHeader ++ placeFields ++ placeChans ++ placeVariant ++
  [BitVec.ofNat 64 (0xB7FE040400000000 + placeKind w * 2 ^ 35), 0] ++ List.replicate 8 0 ++ w :: List.replicate 127 placeFill

/-- The instance that runs the block: sequence number 0, the tag of context 0 at depth 0. -/
def placeInst : Inst :=
  { seq := 0, hdl := false, blk := 0, tag := 0, links := [], marked := none, reads := [], writes := [], chans := [],
    counted := 0, fired := [], acq := [], stores := [], post := [], exit := none, begun := false }

/-- Context 0 runs that image on quad 0, with the tags and slots of its own. -/
def placeCtx (w : Word) : Ctx :=
  { Ctx.reset with
    phase := .running,
    lau := { Ctx.reset.lau with image := placeImage w },
    panel := some ⟨0, 0, 1, 1, 0, 1, false⟩,
    slots := List.replicate 64 ⟨false, .data, false⟩,
    ctl := { Ctl.reset with ctagmask := 0xFFFFFFFFFFFFFFFF },
    nextSeq := 1,
    held := [(0, 0)],
    insts := [placeInst] }

/-- A DATA token of value 0 for instruction 0 at a position. -/
def placeEnt (p : Pos) : Ent := ⟨0, 0, p, ⟨0, .data, .sc 0⟩, false, 0, 0, none, false⟩

/-- Element 0 holds the word on the page of context 0, and one token in each of the three operand positions; the
predicate is `pv`. -/
def placeElem (w pv : Word) : Elem :=
  { Elem.reset with
    store := [placeEnt .left, placeEnt .right, { placeEnt .pred with tok := ⟨0, .data, .sc pv⟩ }],
    pages := (w :: List.replicate 31 placeFill) :: List.replicate 7 (List.replicate 32 0) }

/-- Core 0 belongs to partition 0 and runs the word next. -/
def State.placeWord (s : State) (w : Word) : State :=
  let pv : Word := if bits w 54 53 = 2 then 0 else 1
  let k := s.core 0
  let s := s.setCore 0 { k with elems := k.elems.set 0 (placeElem w pv), cxs := k.cxs.set 0 (placeCtx w) }
  let s := s.setPart 0 { s.part 0 with cores := 1 }
  { s with agenda := [.fire 0 0], sel := none }

end Sys2Proof.Machine
end

