-- ==== Sys2Proof/Machine/Step.lean ====
section
/-! DEFINITION. One step of the package: the next coming move is taken from the agenda and made (log 2). -/

namespace Sys2Proof.Machine

/-- The outcome of a move; no operand set stays selected after it. -/
def finish : Out → Out
  | .next s => .next { s with sel := none }
  | .fault r => .fault r
  | .refused r => .refused r

/-- One step. -/
def step (s : State) : Host.Outcome State Fault Refusal :=
  match s.agenda with
  | [] => .next (propose s)
  | a :: rest =>
    match prepare { s with agenda := rest } a with
    | .run i s => finish (exec i s)
    | .done s => .next s
    | .noUnit => .fault .noSuchUnit

/-- The state with one instruction placed where `step` takes its next one. -/
def State.withFetchWord (s : State) (nbits w : Nat) : State := s.placeWord (BitVec.ofNat 64 (w % 2 ^ nbits))

end Sys2Proof.Machine
end

