-- ==== Sys2Proof/Safety.lean ====
section
/-! DEFINITION. What counts as a safe run, in the terms that claims use: the shape of the package (R7, R17, R40, R375), the
canonical form of memory, and a run that never stops with a fault or a refusal. -/

namespace Sys2Proof.Machine

/-- An element with its 8 pages of 32 words (R40). -/
def Elem.shaped (e : Elem) : Prop := e.pages.length = 8 ∧ e.blks.length = 8 ∧ ∀ p ∈ e.pages, p.length = 32

/-- A context with its 16 soft-token registers and 4 speculation slots (R273, R290). -/
def Ctx.shaped (v : Ctx) : Prop := v.sks.length = 16 ∧ v.specs.length = 4 ∧ v.bobNext.length = 7

/-- A core with its contexts, elements, barriers and completion tags (R17, R40, R163). -/
def Core.shaped (k : Core) : Prop :=
  k.cxs.length = 8 ∧ k.elems.length = 64 ∧ k.barriers.length = 128 ∧ k.ctags.length = 64 ∧
  (∀ v ∈ k.cxs, v.shaped) ∧ ∀ e ∈ k.elems, e.shaped

/-- The package has the units that the spec gives it (R7, R11, R375). -/
def State.shaped (s : State) : Prop :=
  s.cores.length = 72 ∧ s.parts.length = 8 ∧ s.mcs.length = 12 ∧ s.links.length = 6 ∧ s.ccOut.length = 8 ∧ s.ccResv.length = 8 ∧
  ∀ k ∈ s.cores, k.shaped

/-- Memory is in its canonical form. -/
def State.memOk (s : State) : Prop := Memory.wf s.mem = true

/-- Every move on the agenda names units that the package has (R7, R17, R40, R375). -/
def Act.unitsOk : Act → Bool
  | .fire c e | .leave c e => c ≤ 71 && e ≤ 63
  | .cycle c | .drain c _ _ | .sample c _ _ => c ≤ 71
  | .part c x _ _ | .reveal c x _ => c ≤ 71 && x ≤ 7
  | .event i => i.unitsOk
  | .retry c x _ => c ≤ 71 && x ≤ 7
  | .evict c _ => c ≤ 71
  | .evictLlc _ => true

/-- Every core belongs to one partition at most (R375). -/
def State.coresOnce (s : State) : Prop :=
  ∀ c p q : Nat, c < 72 → p < 8 → q < 8 → bit (s.part p).cores c = true → bit (s.part q).cores c = true → p = q

/-- `n` steps. -/
def runs : Nat → State → Host.Outcome State Fault Refusal
  | 0, s => .next s
  | n + 1, s => match step s with
    | .next t => runs n t
    | .fault r => .fault r
    | .refused r => .refused r

/-- A run of `n` steps that never stops. -/
def safeFor (n : Nat) (s : State) : Prop := ∃ t, runs n s = .next t

/-! ## The end of the breadth-first search (R23-R25) -/

/-- A search: the core, the contexts of bfs_x and bfs_f, the vertex count, the source, and where the offsets, the edges and the
level bytes stand in memory and the visited bits in PAD. -/
structure Bfs where
  core : Nat
  ctxX : Nat
  ctxF : Nat
  count : Nat
  source : Nat
  rowp : Nat
  col : Nat
  lvl : Nat
  vis : Nat
  deriving DecidableEq, Repr

/-- Is there an edge between two vertices of the compressed rows in memory (R23)? -/
def Bfs.edge (b : Bfs) (m : Memory) (u v : Nat) : Prop :=
  let at_ (a : Nat) : Nat := bytesToNat (Memory.read m a 4)
  ∃ e, at_ (b.rowp + 4 * u) ≤ e ∧ e < at_ (b.rowp + 4 * u + 4) ∧ at_ (b.col + 4 * e) = v

/-- Is there a path of `n` edges from the source to a vertex? -/
def Bfs.path (b : Bfs) (m : Memory) : Nat → Nat → Prop
  | 0, v => v = b.source
  | n + 1, v => ∃ u, u < b.count ∧ b.path m n u ∧ b.edge m u v

/-- The end state that R25 gives a search over the graph that stood in memory `m`: the levels and visited bits, the channels
empty, barrier 0 fired at zero. -/
def Bfs.done (b : Bfs) (m : Memory) (s : State) : Prop :=
  let level (v : Nat) : Nat := (Memory.get s.mem (b.lvl + v)).toNat
  let seen (v : Nat) : Bool := (bytesToNat (Memory.read s.mem (padAddr b.core (b.vis + v / 64 * 8)) 8)).testBit (v % 64)
  (∀ v n, v < b.count → b.path m n v → (∀ k, b.path m k v → n ≤ k) → level v = n ∧ seen v = true) ∧
  (∀ v, v < b.count → (∀ n, ¬ b.path m n v) → level v = 0xFF ∧ seen v = false) ∧
  (∀ x, x = b.ctxX ∨ x = b.ctxF → ∀ q ∈ (s.cx b.core x).fifos, q.ents = [] ∧ q.transit = []) ∧
  (s.core b.core).barrier 0 = ⟨0, true⟩

/-! ## The terms of the statements about firings -/

/-- The predicate lets an instruction act (R29): it has none, or its token has the right truth value. -/
def Fires (pm : PMode) (f : Firing) : Prop :=
  pm = .always ∨ ∃ p, f.p = some p ∧ p.kind ≠ .fault ∧ p.kind ≠ .chaff ∧ (truth p = true ↔ pm = .onTrue)

/-- Only DATA stands in some operand positions (R28). -/
def DataOnly (l : List (Option Tok)) : Prop := ∀ t : Tok, some t ∈ l → t.kind = .data

/-- What one target receives of an emission (R41, R69), from the output slot of the element's latest firing (R40): nothing
where there is no target. -/
def sendsTo (s : State) (f : Firing) (t : Target) (order : Nat) (tok : Tok) : List Flight :=
  match destOf f.elem f.idx t order with
  | some d => [⟨f.elem, f.ctx, f.hdl, f.seq, d, tok, some (s.elem f.core f.elem).serial⟩]
  | none => []

/-- What an emission puts into the fabric: the token to T0 and then to T1 (R68). -/
def deliveries (s : State) (f : Firing) (t0 t1 : Target) (tok : Tok) : List Flight :=
  sendsTo s f t0 0 tok ++ sendsTo s f t1 1 tok

/-- The state with tokens added to a core's fabric, and nothing else changed. -/
def State.withTokens (s : State) (c : Nat) (l : List Flight) : State :=
  s.setCore c { s.core c with fabric := (s.core c).fabric ++ l }

/-- The state after a firing has emitted one token, which is no FAULT or has a target. -/
def State.emits (s : State) (f : Firing) (t0 t1 : Target) (k : Kind) (v : Val) : State :=
  s.withTokens f.core (deliveries s f t0 t1 ⟨f.tag, k, v⟩)

end Sys2Proof.Machine
end

