-- ==== Sys2Proof/Certificates/Slice0/Obligations.lean ====
section
/-! DEFINITION. The statements for the provers, and the terms that only they use. -/

open Sys2Proof Sys2Proof.Machine

namespace Sys2Proof.Machine

/-- An instruction of two operands completes with a value computed from them (R28, R68): with DATA operands it answers the
state in which its targets have been sent that value as DATA, and nothing else has changed. -/
def Gives2 (mk : GWord → Instr) (val : GWord → Val → Val → Val) : Prop :=
  ∀ (w : GWord) (s : State) (f : Firing), s.sel = some f → Fires w.pm f → DataOnly (both f) →
    exec (mk w) s = .next (s.emits f w.t0 w.t1 .data (val w f.lval (rightOf w f)))

/-- The same of an instruction that reads its left operand only. -/
def Gives1 (mk : GWord → Instr) (val : GWord → Val → Val) : Prop :=
  ∀ (w : GWord) (s : State) (f : Firing), s.sel = some f → Fires w.pm f → DataOnly (leftOnly f) →
    exec (mk w) s = .next (s.emits f w.t0 w.t1 .data (val w f.lval))

/-- A value lane by lane: `op` on the lanes read as integers of the type, taken modulo 2^n (R109). -/
def exactLanes (op : Nat → Int → Int → Int) (ty : RType) (a b : Val) : Val :=
  let n := laneBits ty
  let rd := toInt n (isSigned ty)
  writeLanes ty (List.zipWith (fun x y => wrap n (op n (rd x) (rd y))) (readLanes ty a) (readLanes ty b))

/-- A value lane by lane: `op` on the bits of the lanes (R109, R110). -/
def bitLanes (op : (n : Nat) → BitVec n → BitVec n → BitVec n) (ty : RType) (a b : Val) : Val :=
  let n := laneBits ty
  writeLanes ty (List.zipWith (fun x y => (op n (BitVec.ofNat n x) (BitVec.ofNat n y)).toNat) (readLanes ty a)
    (readLanes ty b))

/-- A one-operand instruction gives in every lane a number for which `rule` holds of the width, the lane and the lane read
as an integer of the type. -/
def LaneRule (mk : GWord → Instr) (rule : Nat → Nat → Int → Nat → Prop) : Prop :=
  ∀ ty : RType, ∃ r : Nat → Nat,
    (∀ a : Nat, a < 2 ^ laneBits ty → rule (laneBits ty) a (toInt (laneBits ty) (isSigned ty) a) (r a)) ∧
    ∀ (w : GWord) (s : State) (f : Firing), w.ty = ty → s.sel = some f → Fires w.pm f → DataOnly (leftOnly f) →
      exec (mk w) s = .next (s.emits f w.t0 w.t1 .data (writeLanes ty ((readLanes ty f.lval).map r)))

/-- An instruction gives in every lane the number whose bit `j` is `rule` of the word, the width, the lane, the 64 bits of
its right operand and `j`. -/
def BitRule (mk : GWord → Instr) (rule : GWord → Nat → Nat → Word → Nat → Bool) : Prop :=
  ∀ (w : GWord) (b : Word), (mk w).codeOk = true → ∃ r : Nat → Nat,
    (∀ a : Nat, a < 2 ^ laneBits w.ty → r a < 2 ^ laneBits w.ty ∧
      ∀ j : Nat, j < laneBits w.ty → (r a).testBit j = rule w (laneBits w.ty) a b j) ∧
    ∀ (s : State) (f : Firing), s.sel = some f → Fires w.pm f → DataOnly (both f) → (rightOf w f).scalar = b →
      exec (mk w) s = .next (s.emits f w.t0 w.t1 .data (writeLanes w.ty ((readLanes w.ty f.lval).map r)))

/-- Bit `p` of the operand of BFEXT (R113): a place at `n` or above reads as bit `n - 1` under a signed type, else as
zero. -/
def fieldBit (ty : RType) (n a p : Nat) : Bool := if p < n then a.testBit p else isSigned ty && a.testBit (n - 1)

end Sys2Proof.Machine

/-- ADD, SUB, MUL, MULH, DIV, REM, MAX, MIN and LEA, fired with DATA operands, answer a next state in which
nothing but the fabric has changed: the targets receive DATA whose lanes are the exact integer result of the
operands, read signed or unsigned by the type, taken modulo 2^n; DIV by zero gives all ones and REM by zero
the dividend. (R109, R110, R111, R114) -/
def Obligations.IntegerArithmetic : Prop :=
  Gives2 .add (fun w => exactLanes (fun _ a b => a + b) w.ty) ∧
  Gives2 .sub (fun w => exactLanes (fun _ a b => a - b) w.ty) ∧
  Gives2 .mul (fun w => exactLanes (fun _ a b => a * b) w.ty) ∧
  Gives2 .mulh (fun w => exactLanes (fun n a b => a * b / (2 ^ n : Nat)) w.ty) ∧
  Gives2 .div (fun w => exactLanes (fun _ a b => if b = 0 then -1 else a.tdiv b) w.ty) ∧
  Gives2 .rem (fun w => exactLanes (fun _ a b => if b = 0 then a else a - b * a.tdiv b) w.ty) ∧
  Gives2 .max (fun w => exactLanes (fun _ a b => if a < b then b else a) w.ty) ∧
  Gives2 .min (fun w => exactLanes (fun _ a b => if a < b then a else b) w.ty) ∧
  Gives2 .lea (fun w => exactLanes (fun _ a b => a + b * (2 ^ w.mode.toNat : Nat)) w.ty)

/-- AND, ANDN, OR, XOR, SHL, SHR, SAR, ROL, ROR and SEL, fired with DATA operands, answer a next state in which
nothing but the fabric has changed: the targets receive DATA whose lanes are the bitwise operation, the shift
or rotation by b modulo n, or the selection by b, of the operand lanes. ABS, NEG, CLZ, CTZ and POPC, fired
with a DATA operand, answer a next state in which nothing but the fabric has changed: each lane of the result
is the absolute value or the negation modulo 2^n, or the number of leading zeros, trailing zeros or one bits,
both counts of zeros being n for 0. BSWAP, BFEXT, BFINS, SEXT, ZEXT, MOVHI and MOVI, in every form that
CFGLOAD accepts and fired with DATA operands, answer a next state in which nothing but the fabric has changed:
every bit of each result lane is the one that the rule names (bytes reversed; a field moved to the bottom and
extended; a field replaced; sign or zero extension from bit k; 27 bits shifted in; the immediate). (R109,
R110, R114, R112, R113) -/
def Obligations.IntegerBitsAndFields : Prop :=
  (Gives2 .and (fun w => bitLanes (fun _ a b => a &&& b) w.ty) ∧
  Gives2 .andn (fun w => bitLanes (fun _ a b => a &&& ~~~b) w.ty) ∧
  Gives2 .or (fun w => bitLanes (fun _ a b => a ||| b) w.ty) ∧
  Gives2 .xor (fun w => bitLanes (fun _ a b => a ^^^ b) w.ty) ∧
  Gives2 .shl (fun w => bitLanes (fun n a b => a <<< (b.toNat % n)) w.ty) ∧
  Gives2 .shr (fun w => bitLanes (fun n a b => a >>> (b.toNat % n)) w.ty) ∧
  Gives2 .sar (fun w => bitLanes (fun n a b => a.sshiftRight (b.toNat % n)) w.ty) ∧
  Gives2 .rol (fun w => bitLanes (fun n a b => a.rotateLeft (b.toNat % n)) w.ty) ∧
  Gives2 .ror (fun w => bitLanes (fun n a b => a.rotateRight (b.toNat % n)) w.ty) ∧
  Gives2 .sel (fun w => bitLanes (fun _ a b => if b = 0 then 0 else a) w.ty)) ∧
  ((LaneRule .abs (fun n _ x r => r = wrap n x.natAbs) ∧
  LaneRule .neg (fun n _ x r => r = wrap n (0 - x)) ∧
  LaneRule .clz (fun n a _ r => r ≤ n ∧ a < 2 ^ (n - r) ∧ (r < n → 2 ^ (n - r - 1) ≤ a)) ∧
  LaneRule .ctz (fun n a _ r => r ≤ n ∧ (∀ j : Nat, j < r → a.testBit j = false) ∧ (r < n → a.testBit r = true)) ∧
  LaneRule .popc (fun n a _ r => r = (List.range n).countP fun j => a.testBit j)) ∧
  (BitRule .bswap (fun _ n a _ j => a.testBit (n - 8 - 8 * (j / 8) + j % 8)) ∧
  BitRule .bfext (fun w n a _ j =>
    let lsb := bits w.value 5 0
    let top := bits w.value 11 6
    if j ≤ top then fieldBit w.ty n a (lsb + j) else isSigned w.ty && fieldBit w.ty n a (lsb + top)) ∧
  BitRule .bfins (fun _ _ a b j =>
    let lsb := bits b 5 0
    let top := bits b 11 6
    if lsb ≤ j ∧ j ≤ lsb + top then (bits b 63 12).testBit (j - lsb) else a.testBit j) ∧
  BitRule .sext (fun w _ a _ j => a.testBit (min j (w.value.toNat - 1))) ∧
  BitRule .zext (fun w _ a _ j => decide (j < w.value.toNat) && a.testBit j) ∧
  BitRule .movhi (fun w _ a _ j => if j < 27 then w.value.toNat.testBit j else a.testBit (j - 27)) ∧
  BitRule .movi (fun w _ _ _ j => (GWord.immWord w).toNat.testBit j)))

namespace Sys2Proof.Machine

/-- A predicate producer completes with a mask (R29, R116): with DATA operands its targets are sent the scalar whose bit
`j` says whether `rel` holds of the lanes `j`, and whose other bits are clear. -/
def GivesMask (mk : GWord → Instr) (rel : GWord → Nat → Nat → Bool) : Prop :=
  ∀ (w : GWord) (s : State) (f : Firing), s.sel = some f → Fires w.pm f → DataOnly (both f) → ∃ v : Word,
    exec (mk w) s = .next (s.emits f w.t0 w.t1 .data (.sc v)) ∧
    ∀ j : Nat, j < 64 → v.getLsbD j = (decide (j < laneCount w.ty) &&
      rel w ((readLanes w.ty f.lval).getD j 0) ((readLanes w.ty (rightOf w f)).getD j 0))

/-- The relation of a CMP mode on integers (R117). -/
def cmpHolds (mode : Nat) (x y : Int) : Bool :=
  match mode with
  | 0 => decide (x = y)
  | 1 => decide (x ≠ y)
  | 2 => decide (x < y)
  | 3 => decide (x ≤ y)
  | 4 => decide (y < x)
  | _ => decide (y ≤ x)

/-- The relation of an FCMP mode on decoded floats (R117): `d` is their order as extended numbers. -/
def fcmpHolds (mode : Nat) (x y : Num) : Bool :=
  let ordered := !x.isNan && !y.isNan
  let d := Num.cmp x y
  match mode with
  | 0 => ordered && decide (d = 0)
  | 1 => !ordered || decide (d ≠ 0)
  | 2 => ordered && decide (d < 0)
  | 3 => ordered && decide (d ≤ 0)
  | 4 => ordered && decide (d > 0)
  | 5 => ordered && decide (d ≥ 0)
  | 6 => ordered
  | _ => !ordered

/-- An instruction that hands on a token: whatever the kind of its left token, it answers the state in which its targets
have been sent kind and value `out`; a FAULT that has no target is the case of R30. -/
def Hands (mk : GWord → Instr) (out : GWord → Firing → Tok → Kind × Val) : Prop :=
  ∀ (w : GWord) (s : State) (f : Firing) (t : Tok), s.sel = some f → Fires w.pm f → f.l = some t →
    ((out w f t).1 ≠ .fault ∨ w.t0 ≠ .none ∨ w.t1 ≠ .none) →
    exec (mk w) s = .next (s.emits f w.t0 w.t1 (out w f t).1 (out w f t).2)

/-- The state with one token sent to T0 and another to T1. -/
def State.splits (s : State) (f : Firing) (t0 t1 : Target) (a b : Kind × Val) : State :=
  s.withTokens f.core (sendsTo s f t0 0 ⟨f.tag, a.1, a.2⟩ ++ sendsTo s f t1 1 ⟨f.tag, b.1, b.2⟩)

/-- The channels of a range, each with what it receives of the token of a ROUTE whose selector is `sel` (R127). -/
def routeRange (s : State) (f : Firing) (lo n sel : Nat) (t : Tok) : List Flight :=
  (List.range (n + 1)).flatMap fun k =>
    sendsTo s f (.chan (BitVec.ofNat 6 (lo + k))) (min k 1)
      (if k = min sel n then ⟨f.tag, t.kind, t.val⟩ else ⟨f.tag, .null, .sc 0⟩)

/-- An instance is marked as faulted with the record that a FAULT value names, unless it was marked before (R30). -/
def Marked (s u : State) (f : Firing) (v : Val) : Prop :=
  ∀ i : Inst, s.instOf f = some i →
    ∃ j : Inst, u.instOf f = some j ∧ j.marked = some (i.marked.getD (v.scalar.toNat % 65536))

/-- The held tokens among `mine` that go on from a next value, in order, and the next value after them (R126): while one has
it in its field `fl`, the first of those to come goes, and the next value is one more, or 0 after a STOPj. -/
def reordered (img : List Word) (fl : Nat) (mine : Ent → Bool) : Nat → Nat → Elem → List Ent × Nat
  | 0, next, _ => ([], next)
  | n + 1, next, el =>
    match firstEnt (el.all.filter fun e => mine e && tagField img e.tok.tag fl == next) with
    | none => ([], next)
    | some e =>
      let next := match e.tok.kind with
        | .stop _ => 0
        | _ => (next + 1) % 2 ^ fieldWidth img fl
      let r := reordered img fl mine n next (el.free e)
      (e :: r.1, r.2)

end Sys2Proof.Machine

/-- CMP and FCMP, fired with DATA operands, answer a next state in which nothing but the fabric has changed: the
targets receive a DATA scalar whose bit j says whether the relation of the mode holds of lanes j, signed or
unsigned by the type for CMP and with NaN unordered for FCMP, and whose other bits are clear. PAND, POR, PXOR
and PNOT, fired with DATA operands, send DATA 0 or 1, the operation on the truth values of the operands (under
a vector type too: the model's choice, log 99), and change nothing but the fabric; PNOT of NULL or STOPj is
false and PNOT of CHAFF is CHAFF. (R116, R117, R118) -/
def Obligations.PredicateInstructions : Prop :=
  (GivesMask .cmp (fun w a b => cmpHolds w.mode.toNat (toInt (laneBits w.ty) (isSigned w.ty) a)
    (toInt (laneBits w.ty) (isSigned w.ty) b)) ∧
  GivesMask .fcmp (fun w a b => fcmpHolds w.mode.toNat ((laneFmt w.ty).decode a) ((laneFmt w.ty).decode b))) ∧
  (∀ (w : GWord) (s : State) (f : Firing), s.sel = some f → Fires w.pm f →
    (DataOnly (both f) →
      let p : Bool := f.lval.scalar != 0
      let q : Bool := f.rval.scalar != 0
      exec (.pand w) s = .next (s.emits f w.t0 w.t1 .data (.sc (if p && q then 1 else 0))) ∧
      exec (.por w) s = .next (s.emits f w.t0 w.t1 .data (.sc (if p || q then 1 else 0))) ∧
      exec (.pxor w) s = .next (s.emits f w.t0 w.t1 .data (.sc (if p != q then 1 else 0)))) ∧
    (∀ t : Tok, f.l = some t → t.kind = .data →
      exec (.pnot w) s = .next (s.emits f w.t0 w.t1 .data (.sc (if t.val.scalar != 0 then 0 else 1)))) ∧
    ∀ t : Tok, f.l = some t →
      (t.kind = .null ∨ (∃ j, t.kind = .stop j) →
        exec (.pnot w) s = .next (s.emits f w.t0 w.t1 .data (.sc 0))) ∧
      (t.kind = .chaff → exec (.pnot w) s = .next (s.emits f w.t0 w.t1 .chaff (.sc 0))))

/-- ISSTOP #k sends DATA true for STOPj with j at least k and DATA false for DATA, NULL, CHAFF and a lower STOPj;
ISBUB sends true for CHAFF alone; both hand a FAULT on; nothing but the fabric changes. Under a vector type
too what they send is a scalar 0 or 1: the model's choice (log 99). (R119, R116, R28) -/
def Obligations.KindTests : Prop :=
  Hands .isstop (fun w _ t => if t.kind = .fault then (.fault, t.val) else
    (.data, .sc (match t.kind with
      | .stop j => if w.value.toNat ≤ j.val then 1 else 0
      | _ => 0))) ∧
  Hands .isbub (fun _ _ t => if t.kind = .fault then (.fault, t.val) else (.data, .sc (if t.kind = .chaff then 1 else 0)))

/-- STEER, MERGE and ROUTE answer a next state in every state. STEER with a true predicate sends the left token,
in any kind, to T0 and NULL to T1, with a false one the other way round; a CHAFF predicate sends CHAFF to
both, and a FAULT in either position, the left one first, goes to both; nothing but the fabric changes. A
FAULT for a target that is none marks the instance with its record, and goes to the other target where there
is one. The plain MERGE forwards the left token unless it is NULL, else the right one; the selecting MERGE
forwards the left token for a true predicate, the right one for a false one, and CHAFF for a CHAFF predicate;
a FAULT in any position goes to the targets, that of the lowest position first; nothing but the fabric
changes. ROUTE with a DATA selector s sends its left token, unless it is a FAULT, to channel c_lo + min(s,
c_hi - c_lo) of a range and NULL to every other channel of it; in the two-way form to T0 when s is 0 and else
to T1, and NULL to the other; nothing but the fabric changes. (R121, R116, R28, R122, R127) -/
def Obligations.SteeringMergingRouting : Prop :=
  (∀ (w : GWord) (s : State),
    (∃ u : State, exec (.steer w) s = .next u) ∧ (∃ u : State, exec (.merge w) s = .next u) ∧
    (∃ u : State, exec (.route w) s = .next u)) ∧
  (∀ (w : GWord) (s : State) (f : Firing) (t p : Tok), s.sel = some f → f.l = some t → f.p = some p →
    (t.kind ≠ .fault → p.kind ≠ .fault → p.kind ≠ .chaff →
      exec (.steer w) s = .next (if p.kind = .data ∧ p.val.scalar ≠ 0
        then s.splits f w.t0 w.t1 (t.kind, t.val) (.null, .sc 0)
        else s.splits f w.t0 w.t1 (.null, .sc 0) (t.kind, t.val))) ∧
    (t.kind ≠ .fault → p.kind = .chaff → exec (.steer w) s = .next (s.emits f w.t0 w.t1 .chaff (.sc 0))) ∧
    (t.kind = .fault ∨ p.kind = .fault →
      let v := if t.kind = .fault then t.val else p.val
      (w.t0 ≠ .none → w.t1 ≠ .none → exec (.steer w) s = .next (s.emits f w.t0 w.t1 .fault v)) ∧
      (w.t0 = .none ∨ w.t1 = .none → ∃ u : State, exec (.steer w) s = .next u ∧ Marked s u f v ∧ u.mem = s.mem ∧
        (u.core f.core).fabric = (s.core f.core).fabric ++ (if f.core < s.cores.length
          then deliveries s f w.t0 w.t1 ⟨f.tag, .fault, v⟩ else [])))) ∧
  (∀ (w : GWord) (s : State) (f : Firing) (a b : Tok), s.sel = some f → f.l = some a → f.r = some b →
    (∀ v : Val, lowestFault [f.l, f.r, f.p] = some v → w.t0 ≠ .none ∨ w.t1 ≠ .none →
      exec (.merge w) s = .next (s.emits f w.t0 w.t1 .fault v)) ∧
    (a.kind ≠ .fault → b.kind ≠ .fault → f.p = none →
      let t := if a.kind = .null then b else a
      exec (.merge w) s = .next (s.emits f w.t0 w.t1 t.kind t.val)) ∧
    ∀ p : Tok, f.p = some p → a.kind ≠ .fault → b.kind ≠ .fault → p.kind ≠ .fault →
      let t := if p.kind = .data ∧ p.val.scalar ≠ 0 then a else b
      exec (.merge w) s = .next (if p.kind = .chaff then s.emits f w.t0 w.t1 .chaff (.sc 0)
        else s.emits f w.t0 w.t1 t.kind t.val)) ∧
  (∀ (w : GWord) (s : State) (f : Firing) (t q : Tok), s.sel = some f → Fires w.pm f → f.l = some t → f.r = some q →
    t.kind ≠ .fault → q.kind = .data →
    (∀ lo hi : BitVec 6, w.t0 = .chan lo → w.t1 = .chan hi → lo.toNat ≤ hi.toNat →
      exec (.route w) s =
        .next (s.withTokens f.core (routeRange s f lo.toNat (hi.toNat - lo.toNat) q.val.scalar.toNat t))) ∧
    ((∀ lo hi : BitVec 6, ¬ (w.t0 = .chan lo ∧ w.t1 = .chan hi)) →
      exec (.route w) s = .next (if q.val.scalar = 0
        then s.splits f w.t0 w.t1 (t.kind, t.val) (.null, .sc 0)
        else s.splits f w.t0 w.t1 (.null, .sc 0) (t.kind, t.val))))

/-- NULL turns every kind but FAULT into NULL; STRIP turns STOPj into DATA with its value and hands every other
kind on; STOP #k turns DATA and STOPj into STOPk with their value and hands NULL and CHAFF on; SINK sends
nothing, changes nothing, and marks the instance for a FAULT. MOV and NOP send their left token on in its
value and kind; ORDJOIN does so once its right token is there too, sending CHAFF for a CHAFF on the right;
nothing but the fabric changes. (R123, R30, R114, R124, R125) -/
def Obligations.KindChangesAndPassing : Prop :=
  (Hands .null (fun _ _ t => if t.kind = .fault then (.fault, t.val) else (.null, .sc 0)) ∧
  Hands .strip (fun _ _ t => (match t.kind with
    | .stop _ => .data
    | k => k, t.val)) ∧
  (∀ k : Fin 4, ∀ (w : GWord) (s : State) (f : Firing) (t : Tok), w.value.toNat = k.val → s.sel = some f →
    Fires w.pm f → f.l = some t →
    ((t.kind = .data ∨ ∃ j, t.kind = .stop j) →
      exec (.stop w) s = .next (s.emits f w.t0 w.t1 (.stop k) t.val)) ∧
    (t.kind = .null ∨ t.kind = .chaff → exec (.stop w) s = .next (s.emits f w.t0 w.t1 t.kind t.val))) ∧
  ∀ (w : GWord) (s : State) (f : Firing) (t : Tok), s.sel = some f → Fires w.pm f → f.l = some t →
    exec (.sink w) s = .next (if t.kind = .fault then s.mark f t.val else s)) ∧
  (Hands .mov (fun _ _ t => (t.kind, t.val)) ∧
  Hands .nop (fun _ _ t => (t.kind, t.val)) ∧
  ∀ (w : GWord) (s : State) (f : Firing) (t r : Tok), s.sel = some f → Fires w.pm f → f.l = some t → f.r = some r →
    t.kind ≠ .fault → r.kind ≠ .fault →
    exec (.ordjoin w) s = .next (if r.kind = .chaff then s.emits f w.t0 w.t1 .chaff (.sc 0)
      else s.emits f w.t0 w.t1 t.kind t.val))

/-- REORDER #f hands a token on at once when its tag has no field f. Any other token enters the store as a held
one; then, from the next value of its group, 0 for a new one, the held token of the group with that value
leaves for the targets under its own tag and for its own instance, the value rising by one modulo 2^w, or
going back to 0 after a STOPj, until no held token has it. The group keeps the value that was reached, and
only the tokens that have left are gone from the store. (R126) -/
def Obligations.Reordering : Prop :=
  ∀ (w : GWord) (s : State) (f : Firing) (t : Tok), s.sel = some f → Fires w.pm f → f.l = some t → t.kind ≠ .fault →
    f.core < s.cores.length → f.ctx < (s.core f.core).cxs.length →
    let n := w.value.toNat
    let img := (s.cx f.core f.ctx).lau.image
    (tagDepth f.tag ≤ n → exec (.reorder w) s = .next (s.emits f w.t0 w.t1 t.kind t.val)) ∧
    ∀ r : State, n < tagDepth f.tag →
      s.enterElem f.core f.elem ⟨f.ctx, f.idx % 32, .left, ⟨f.tag, t.kind, t.val⟩, f.hdl, f.seq, 0, none, true⟩ = some r →
      let key := setTagField img f.tag n 0
      let g := (s.cx f.core f.ctx).groupOf f key
      let el := r.elem f.core f.elem
      let mine (e : Ent) : Bool := e.held && e.ctx == f.ctx && e.hdl == f.hdl && e.slot == f.idx % 32 &&
        setTagField img e.tok.tag n 0 == key
      let out := reordered img n mine el.all.length g.next el
      ((s.cx f.core f.ctx).groups = [] → g.next = 0) ∧
      ∃ u : State, exec (.reorder w) s = .next u ∧ u.mem = r.mem ∧
        (u.core f.core).fabric = (s.core f.core).fabric ++ out.1.flatMap (fun e =>
          deliveries s { f with seq := e.own, tag := e.tok.tag } w.t0 w.t1 (r.entTok f.core e)) ∧
        ((u.cx f.core f.ctx).groupOf f key).next = out.2 ∧
        (u.elem f.core f.elem).all = (out.1.foldl Elem.free el).all

namespace Sys2Proof.Machine

/-- The image that the context of a firing runs. -/
def imgOf (s : State) (f : Firing) : List Word := (s.cx f.core f.ctx).lau.image

/-- A retagging instruction hands its token on under the tag `new` (R134); a FAULT keeps its tag. -/
def Retags (mk : GWord → Instr) (new : List Word → Nat → Word → Word → Word) : Prop :=
  ∀ (w : GWord) (s : State) (f : Firing) (t : Tok), s.sel = some f → Fires w.pm f → f.l = some t →
    (t.kind ≠ .fault → exec (mk w) s = .next (s.withTokens f.core (deliveries s f w.t0 w.t1
      ⟨new (imgOf s f) w.value.toNat f.tag t.val.scalar, t.kind, t.val⟩))) ∧
    (t.kind = .fault → w.t0 ≠ .none ∨ w.t1 ≠ .none → exec (mk w) s = .next (s.emits f w.t0 w.t1 .fault t.val))

/-- The block that an instance's strand, or its handler strand, wants next (R50). -/
def State.wanted (s : State) (f : Firing) : Option Want :=
  if f.hdl then (s.cx f.core f.ctx).hWant else (s.cx f.core f.ctx).want

/-- The operand of an exit lets it fire (R46): there is none, or it is DATA, STOPj or CHAFF. -/
def ExitOperand (f : Firing) : Prop := ∀ t : Tok, f.l = some t → t.kind ≠ .fault ∧ t.kind ≠ .null

/-- An exit is the first of its instance `i` that fires, and its tag action gives `tag` without the bobbin (R33, R46). -/
def FirstExit (s : State) (w : XWord) (f : Firing) (i : Inst) (tag : Word) : Prop :=
  s.sel = some f ∧ Fires w.pm f ∧ ExitOperand f ∧ s.instOf f = some i ∧ i.exit = none ∧
  tagAction (imgOf s f) i.tag w.action w.field.toNat = .ok (tag, none)

/-- An exit completes (R46, R50): its instance has taken it, the next block is wanted under the new tag with the next
sequence number and the link stack, and memory, fabric and partitions are as they were. -/
def ExitDone (s : State) (o : Out) (f : Firing) (i : Inst) (tag : Word) (b : Nat) (links : List Nat) : Prop :=
  ∃ t : State, o = .next t ∧ t.wanted f = some ⟨b, tag, f.seq + 1, links⟩ ∧
    t.instOf f = some { i with exit := some ⟨f.idx, true, some b, tag, links, none, false, none⟩ } ∧
    t.mem = s.mem ∧ t.parts = s.parts ∧ (t.core f.core).fabric = (s.core f.core).fabric

/-- The block whose record stands `16 * target` bytes from the record of the instance's own block (R75). -/
def directBlock (s : State) (w : XWord) (f : Firing) (i : Inst) : Option Nat :=
  blkAtOff (imgOf s f) ((blkAt (imgOf s f) i.blk).off + 16 * w.target.toInt)

/-- The block whose record stands at the byte offset, from the first record, that the left operand holds (R130). -/
def indirectBlock (s : State) (f : Firing) : Option Nat :=
  blkAtOff (imgOf s f) (imgBlockoff (imgOf s f) + f.lval.scalar.toNat : Nat)

end Sys2Proof.Machine

/-- With fields that fit into bits 57 to 0, a tag in which field k has been written reads the value modulo 2^w
there, and every other field, the depth and the context number read as before. The tag action none keeps the
tag; push of the field at the depth raises the depth and clears the field; increment of the last field adds
one modulo 2^w; pop of it clears the field and lowers the depth; a push or an increment of a dynamic field
asks the bobbin for its value; any other field is the field of a TAG_DEPTH, and field 7 names the last field
for increment and pop (R75). (R31, R32, R33, R75) -/
def Obligations.TagFields : Prop :=
  (∀ (img : List Word) (t : Word) (j k v : Nat), j ≤ 6 → k ≤ 6 →
    ((List.range 7).map (fieldWidth img)).sum ≤ 58 →
    tagField img (setTagField img t k v) k = v % 2 ^ fieldWidth img k ∧
    (j ≠ k → tagField img (setTagField img t k v) j = tagField img t j) ∧
    tagDepth (setTagField img t k v) = tagDepth t ∧
    (setTagField img t k v).toNat / 2 ^ 61 = t.toNat / 2 ^ 61) ∧
  (∀ (img : List Word) (t : Word) (f : Nat),
    let d := tagDepth t
    let n := imgNfields img
    let dyn (f : Nat) : Option Nat := if fieldDynamic img f then some f else none
    tagAction img t .none f = .ok (t, none) ∧
    (f < n → f = d → tagAction img t .push f = .ok (setTagField img (setTagDepth t (d + 1)) f 0, dyn f)) ∧
    (f < n → f + 1 = d → f ≠ 7 →
      tagAction img t .increment f = .ok (if fieldDynamic img f then t else
        setTagField img t f ((tagField img t f + 1) % 2 ^ fieldWidth img f), dyn f) ∧
      tagAction img t .pop f = .ok (setTagDepth (setTagField img t f 0) (d - 1), none)) ∧
    (¬ (f < n ∧ f = d) → tagAction img t .push f = .error f) ∧
    (¬ (f < n ∧ f + 1 = d) → f ≠ 7 → tagAction img t .increment f = .error f ∧ tagAction img t .pop f = .error f) ∧
    (d ≠ 0 → tagAction img t .increment 7 = tagAction img t .increment (d - 1) ∧
      tagAction img t .pop 7 = tagAction img t .pop (d - 1)))

/-- TAGGET sends a field of the tag, 0 for a field that the depth does not reach, the whole tag for #7 and the
depth for #8; TAGSET, TAGINC, TAGIN and TAGOUT send their token in its kind and value under the tag that the
table gives, under the same tag where its condition is not met, and a FAULT under its own tag; nothing but the
fabric changes. TAGWIN #k sends its left token unchanged when fewer than k instances of its strand older than
its own are in flight, and otherwise waits to be tried again; nothing else changes. (R134, R136) -/
def Obligations.TagMoves : Prop :=
  ((∀ (w : GWord) (s : State) (f : Firing), (Instr.tagget w).codeOk = true → s.sel = some f → Fires w.pm f →
    DataOnly (leftOnly f) →
    exec (.tagget w) s = .next (s.emits f w.t0 w.t1 .data (.sc (
      if w.value.toNat = 7 then f.tag
      else if w.value.toNat = 8 then BitVec.ofNat 64 (tagDepth f.tag)
      else if w.value.toNat < tagDepth f.tag then BitVec.ofNat 64 (tagField (imgOf s f) f.tag w.value.toNat)
      else 0)))) ∧
  Retags .tagset (fun img n t x => if n < tagDepth t then setTagField img t n x.toNat else t) ∧
  Retags .taginc (fun img n t _ => if n < tagDepth t then setTagField img t n (tagField img t n + 1) else t) ∧
  Retags .tagin (fun img n t x => if n = tagDepth t ∧ tagDepth t < 7
    then setTagField img (setTagDepth t (tagDepth t + 1)) n x.toNat else t) ∧
  Retags .tagout (fun img n t _ => if n + 1 = tagDepth t
    then setTagDepth (setTagField img t n 0) (tagDepth t - 1) else t)) ∧
  (∀ (w : GWord) (s : State) (f : Firing) (t : Tok), s.sel = some f → Fires w.pm f → f.l = some t → t.kind ≠ .fault →
    ((((s.cx f.core f.ctx).strand f.hdl).filter fun i => i.seq < f.seq).length < w.value.toNat →
      exec (.tagwin w) s = .next (s.emits f w.t0 w.t1 t.kind t.val)) ∧
    (w.value.toNat ≤ (((s.cx f.core f.ctx).strand f.hdl).filter fun i => i.seq < f.seq).length →
      exec (.tagwin w) s = .next (s.addPend ⟨.tagwin w, f, .held, 0⟩)))

/-- BR and YIELD start the block at the offset in their word, whose kind is the one in the word, BRI the block at
the offset in its operand when its kind is the one in the word: the exit completes and the block is wanted
under the tag of the tag action, with the next sequence number and the same link stack. (R33, R46, R50, R129,
R130) -/
def Obligations.Branches : Prop :=
  (∀ (w : XWord) (s : State) (f : Firing) (i : Inst) (tag : Word) (b : Nat), FirstExit s w f i tag →
    directBlock s w f i = some b → (blkAt (imgOf s f) b).kind = w.kind.code →
    ExitDone s (exec (.br w) s) f i tag b i.links ∧ ExitDone s (exec (.yield w) s) f i tag b i.links) ∧
  ∀ (w : XWord) (s : State) (f : Firing) (i : Inst) (tag : Word) (b : Nat), FirstExit s w f i tag →
    indirectBlock s f = some b → (blkAt (imgOf s f) b).kind = w.kind.code →
    ExitDone s (exec (.bri w) s) f i tag b i.links

/-- CALL and CALLI start a block with the block after their own pushed on the link stack, which holds fewer than
eight; RET starts the block on top of the stack and leaves the rest. (R130, R131) -/
def Obligations.CallsAndReturns : Prop :=
  (∀ (w : XWord) (s : State) (f : Firing) (i : Inst) (tag : Word) (b : Nat), FirstExit s w f i tag →
    i.links.length < 8 →
    (directBlock s w f i = some b → (blkAt (imgOf s f) b).kind = w.kind.code → ExitDone s (exec (.call w) s) f i tag b ((i.blk + 1) :: i.links)) ∧
    (indirectBlock s f = some b → (blkAt (imgOf s f) b).kind = 2 → w.kind = .callEntry →
      ExitDone s (exec (.calli w) s) f i tag b ((i.blk + 1) :: i.links))) ∧
  ∀ (w : XWord) (s : State) (f : Firing) (i : Inst) (tag : Word) (b : Nat) (rest : List Nat), FirstExit s w f i tag →
    i.links = b :: rest → b < imgNblocks (imgOf s f) → ExitDone s (exec (.ret w) s) f i tag b rest

/-- HALT completes the exit of its instance and starts no block: nothing new is wanted, and memory, fabric and
partitions are as they were. When an instance has taken an exit, every later exit of it that fires changes
nothing. (R132, R46) -/
def Obligations.HaltsAndLaterExits : Prop :=
  (∀ (w : XWord) (s : State) (f : Firing) (i : Inst) (tag : Word), FirstExit s w f i tag →
    ∃ t : State, exec (.halt w) s = .next t ∧ t.wanted f = s.wanted f ∧
      t.instOf f = some { i with exit := some ⟨f.idx, true, none, tag, i.links, none, true, none⟩ } ∧
      t.mem = s.mem ∧ t.parts = s.parts ∧ (t.core f.core).fabric = (s.core f.core).fabric) ∧
  (∀ (w : XWord) (s : State) (f : Firing) (i : Inst), s.sel = some f → Fires w.pm f → ExitOperand f →
    s.instOf f = some i → i.exit.isSome = true →
    exec (.br w) s = .next s ∧ exec (.yield w) s = .next s ∧ exec (.bri w) s = .next s ∧ exec (.call w) s = .next s ∧
    exec (.calli w) s = .next s ∧ exec (.ret w) s = .next s ∧ exec (.halt w) s = .next s)

/-- When the tag action of an exit breaks the conditions of R33, the exit does not complete, and its instance is
marked with a record of kind TAG_DEPTH that holds the field number; memory is unchanged. That the tag action
is checked before the target and the link stack, and that the record holds the field that the action names,
are the model's choices (logs 37, 38). (R33, R34) -/
def Obligations.ExitFaults : Prop :=
  ∀ (w : XWord) (s : State) (f : Firing) (i : Inst) (fld : Nat), s.sel = some f → Fires w.pm f → ExitOperand f →
    s.instOf f = some i → i.exit = none → i.marked = none →
    (∀ e ∈ (s.cx f.core f.ctx).recTab, ¬ (e.2.hdl = f.hdl ∧ e.2.seq = f.seq)) →
    tagAction (imgOf s f) i.tag w.action w.field.toNat = .error fld →
    ∃ (t : State) (j : Inst) (num : Nat) (r : FRec), exec (.br w) s = .next t ∧ exec (.bri w) s = .next t ∧
      exec (.call w) s = .next t ∧ exec (.calli w) s = .next t ∧ exec (.ret w) s = .next t ∧
      t.instOf f = some j ∧ j.marked = some num ∧ t.record f.core f.ctx num = some r ∧ r.kind = 9 ∧
      r.detail = BitVec.ofNat 64 fld ∧ t.mem = s.mem ∧ (∀ e : Exit, j.exit = some e → e.done = false)

namespace Sys2Proof.Machine

/-- The rational number that a finite value is. -/
def Num.rat : Num → ℚ
  | .fin neg m e => (if neg then -1 else 1) * (m : ℚ) * (2 : ℚ) ^ e
  | _ => 0

def Num.isFin : Num → Bool
  | .fin _ _ _ => true
  | _ => false

/-- `r` is the rounding of the exact result `x` of two finite operands (R182, R201); an exact zero has the sign `zneg`. -/
def RoundsTo (f : FF) (mode : RM) (sat : Bool) (r : Nat) (x : ℚ) (zneg : Bool) : Prop :=
  ∃ (neg : Bool) (m : Nat) (e : Int), r = roundNum f mode sat (.fin neg m e) ∧ (Machine.Num.fin neg m e).rat = x ∧
    (x = 0 → neg = zneg)

/-- A lane function of one operand, in the lane format and rounding mode of the word. -/
def floatLanes1 (op : FF → RM → Nat → Nat) (w : GWord) (a : Val) : Val :=
  writeLanes w.ty ((readLanes w.ty a).map (op (laneFmt w.ty) (rmOf w.mode.toNat)))

/-- A lane function of two operands. -/
def floatLanes2 (op : FF → RM → Nat → Nat → Nat) (w : GWord) (a b : Val) : Val :=
  writeLanes w.ty (List.zipWith (op (laneFmt w.ty) (rmOf w.mode.toNat)) (readLanes w.ty a) (readLanes w.ty b))

/-- An instruction of a vector type gives in lane `i` what `rule` says of the lanes of its left operand and of its right
operand. -/
def LanesGive (mk : GWord → Instr) (rule : GWord → (Nat → Nat) → Val → Nat → Nat) : Prop :=
  ∀ (w : GWord) (s : State) (f : Firing), w.ty.isVec = true → s.sel = some f → Fires w.pm f → DataOnly (both f) →
    ∃ v : Val, exec (mk w) s = .next (s.emits f w.t0 w.t1 .data v) ∧
      ∀ i : Nat, i < laneCount w.ty →
        v.lane (laneBits w.ty) i = rule w (f.lval.lane (laneBits w.ty)) (rightOf w f) i

/-- `r` is the integer that `x` rounds to (R187). -/
def RoundsInt (mode : RM) (x : ℚ) (r : Int) : Prop :=
  match mode with
  | .rne => |(r : ℚ) - x| ≤ 1 / 2 ∧ (|(r : ℚ) - x| = 1 / 2 → r % 2 = 0)
  | .rtz => r = if 0 ≤ x then ⌊x⌋ else ⌈x⌉
  | .rup => r = ⌈x⌉
  | .rdn => r = ⌊x⌋

/-- The lane table of CVT (R205): a conversion of one element taken from the source's lanes to the destination's. -/
def cvtShape (ty src : RType) (g : Nat → Nat) (a : Val) : Val :=
  let ys := (readLanes src a).map g
  if ty.isVec = false then writeLanes ty [ys.headD 0]
  else if src.isVec = false then writeLanes ty (List.replicate (laneCount ty) (ys.headD 0))
  else writeLanes ty (ys.take (laneCount ty))

/-- The integer nearest to `x` in the range of a lane of the type (R181). -/
def clampTo (ty : RType) (x : Int) : Int :=
  let n := laneBits ty
  if isSigned ty then max (-(2 ^ (n - 1) : Nat)) (min x (2 ^ (n - 1) - 1 : Nat)) else max 0 (min x (2 ^ n - 1 : Nat))

/-- What CVT makes of one element `a` of type `src` (R187, R205). -/
def CvtElemIs (ty src : RType) (mode : Nat) (a r : Nat) : Prop :=
  let rm := rmOf (mode % 4)
  let n := laneBits ty
  if src.isFlt then
    let x := (laneFmt src).decode a
    if ty.isFlt then r = roundNum (laneFmt ty) rm (decide (4 ≤ mode)) x
    else match x with
      | .nan _ _ => r = 0
      | .inf neg => r = wrap n (clampTo ty (if neg then -(2 ^ 64 : Nat) else (2 ^ 64 : Nat)))
      | .fin _ _ _ => ∃ y : Int, RoundsInt rm x.rat y ∧ r = wrap n (clampTo ty y)
  else
    let x : Int := toInt (laneBits src) (isSigned src) a
    if ty.isFlt then r = roundNum (laneFmt ty) rm (decide (4 ≤ mode)) (.ofInt x)
    else r = wrap n (if 4 ≤ mode then clampTo ty x else x)

/-- Word `k` of the carry that VARGMAX and VARGMIN read (R210). -/
def carryWord (w : GWord) (f : Firing) (k : Nat) : Nat :=
  if w.imm then [0x7FC00000, 0xFFFFFFFF, bits (GWord.immWord w) 31 0, 0].getD k 0 else f.rval.wide / 2 ^ (32 * k) % 2 ^ 32

/-- The candidates of VARGMAX and VARGMIN, as f32 codes with their indices: the carry's and the lanes', but no NaN (R211). -/
def candidatesOf (w : GWord) (f : Firing) : List (Nat × Nat) :=
  let lane (i : Nat) : Nat := if w.ty = .vf32 then f.lval.lane 32 i else f.lval.lane 16 i * 2 ^ 16
  ((carryWord w f 0, carryWord w f 1) ::
    (List.range (laneCount w.ty)).map fun i => (lane i, (carryWord w f 2 + i) % 2 ^ 32)).filter
      fun p => !(FF.f32.decode p.1).isNan

/-- A vector holds the result of VARGMAX (`most`) or VARGMIN (R211). -/
def ArgResult (most : Bool) (w : GWord) (f : Firing) (v : Val) : Prop :=
  let cs := candidatesOf w f
  let at' (x y : Nat) : Int := Machine.Num.cmp (FF.f32.decode x) (FF.f32.decode y)
  v.lane 32 2 = (carryWord w f 2 + laneCount w.ty) % 2 ^ 32 ∧ (∀ i : Nat, 4 ≤ i → i < 16 → v.lane 32 i = 0) ∧
  (cs = [] → v.lane 32 0 = 0x7FC00000 ∧ v.lane 32 1 = 0xFFFFFFFF ∧ v.lane 32 3 = 1) ∧
  (cs ≠ [] → v.lane 32 3 = 0 ∧ (v.lane 32 0, v.lane 32 1) ∈ cs ∧ ∀ p ∈ cs,
    (if most then at' p.1 (v.lane 32 0) ≤ 0 else 0 ≤ at' p.1 (v.lane 32 0)) ∧
    (at' p.1 (v.lane 32 0) = 0 → v.lane 32 1 ≤ p.2))

/-- Integer lanes of 32 bits. -/
def intVec (ty : RType) : Prop := ty = .vs32 ∨ ty = .vz32

end Sys2Proof.Machine

/-- FADD, FSUB, FMUL, FMA and FSCALE, fired with DATA operands, answer a next state in which nothing but the
fabric has changed: the targets receive the lanes of the sum, difference or product rounded to the lane format
under the mode of the word, for FMA.f32 the fused result of c and the packed pair, for FMA.bf16 the same of
bf16 values, for the vector forms of FMA the fused result of lane i with the bf16 pair i of the right operand,
the lanes from 16 on passing unchanged, and for FSCALE with an immediate the value times two to the immediate;
every other form of FSCALE completes with a value that depends on the operands alone. (R201, R202) -/
def Obligations.FloatArithmetic : Prop :=
  Gives2 .fadd (floatLanes2 fun f m a b => fpAdd f m false (f.decode a) (f.decode b)) ∧
  Gives2 .fsub (floatLanes2 fun f m a b => fpAdd f m false (f.decode a) (Machine.Num.neg (f.decode b))) ∧
  Gives2 .fmul (floatLanes2 fun f m a b => fpMul f m false (f.decode a) (f.decode b)) ∧
  (∀ w : GWord, w.ty = .f32 → ∀ (s : State) (f : Firing), s.sel = some f → Fires w.pm f → DataOnly (both f) →
    exec (.fma w) s = .next (s.emits f w.t0 w.t1 .data (.sc (BitVec.ofNat 64 (fpFma .f32 (rmOf w.mode.toNat)
      (FF.f32.decode (bits f.lval.scalar 31 0)) (FF.f32.decode (bits (rightOf w f).scalar 31 0))
      (FF.f32.decode (bits (rightOf w f).scalar 63 32)) % 2 ^ 32))))) ∧
  (∀ w : GWord, w.ty = .bf16 → ∀ (s : State) (f : Firing), s.sel = some f → Fires w.pm f → DataOnly (both f) →
    exec (.fma w) s = .next (s.emits f w.t0 w.t1 .data (.sc (BitVec.ofNat 64 (fpFma .bf16 (rmOf w.mode.toNat)
      (FF.bf16.decode (bits f.lval.scalar 15 0)) (FF.bf16.decode (bits (rightOf w f).scalar 15 0))
      (FF.bf16.decode (bits (rightOf w f).scalar 31 16)) % 2 ^ 16))))) ∧
  (∀ w : GWord, w.ty.isVec = true → w.ty.isFlt = true → ∀ (s : State) (f : Firing), s.sel = some f → Fires w.pm f →
    DataOnly (both f) → ∃ v : Val, exec (.fma w) s = .next (s.emits f w.t0 w.t1 .data v) ∧
      ∀ i : Nat, i < laneCount w.ty →
        let c := f.lval.lane (laneBits w.ty) i
        let r := rightOf w f
        v.lane (laneBits w.ty) i = if 16 ≤ i then c else
          fpFma (laneFmt w.ty) (rmOf w.mode.toNat) ((laneFmt w.ty).decode c)
            (FF.bf16.decode (if w.ty = .vf32 then r.lane 32 i % 2 ^ 16 else r.lane 16 (2 * i)))
            (FF.bf16.decode (if w.ty = .vf32 then r.lane 32 i / 2 ^ 16 else r.lane 16 (2 * i + 1)))) ∧
  (∀ w : GWord, w.imm = true → ∀ (s : State) (f : Firing), s.sel = some f → Fires w.pm f → DataOnly (both f) →
    exec (.fscale w) s = .next (s.emits f w.t0 w.t1 .data (writeLanes w.ty ((readLanes w.ty f.lval).map fun a =>
      fScale (laneFmt w.ty) (rmOf w.mode.toNat) a w.value.toInt)))) ∧
  ∀ w : GWord, ∃ v : Val → Val → Val, ∀ (s : State) (f : Firing), s.sel = some f → Fires w.pm f → DataOnly (both f) →
    exec (.fscale w) s = .next (s.emits f w.t0 w.t1 .data (v f.lval (rightOf w f)))

/-- FABS, FNEG and FCPSGN clear, invert or copy the sign bit of every lane; FMAX and FMIN give one of two finite
operands, the one that is at least, or at most, both; these and FCLAMP complete, and nothing but the fabric
changes. FEXP2, FLOG2, FRCP, FRSQ, FSQRT and FROUND, fired with a DATA operand, answer a next state in which
nothing but the fabric has changed: the targets receive the function of each lane. In f32 and bf16 these
functions give the results of the table for NaN, zeros, infinities and negative operands; FEXP2 of an integer
from -126 to 127 is exactly that power of two, FLOG2 of a power of two is its exponent, rounded to nearest; a
finite reciprocal, every square root and every reciprocal square root is a value of the format that none is
nearer than; and FROUND gives the integral value that its mode names, with the sign of the operand. (R203,
R188, R204) -/
def Obligations.FloatOperations : Prop :=
  (Gives1 .fabs (floatLanes1 fun f _ a => a % 2 ^ (f.width - 1)) ∧
  Gives1 .fneg (floatLanes1 fun f _ a => a ^^^ 2 ^ (f.width - 1)) ∧
  Gives2 .fcpsgn (floatLanes2 fun f _ a b => a % 2 ^ (f.width - 1) + b / 2 ^ (f.width - 1) % 2 * 2 ^ (f.width - 1)) ∧
  Gives2 .fmax (floatLanes2 fun f _ a b => fMax f a b) ∧
  Gives2 .fmin (floatLanes2 fun f _ a b => fMin f a b) ∧
  Gives2 .fclamp (floatLanes2 fun f _ a b => fClamp f a b) ∧
  ∀ (f : FF) (a b : Nat), (f.decode a).isFin = true → (f.decode b).isFin = true →
    (fMax f a b = a ∨ fMax f a b = b) ∧ (fMin f a b = a ∨ fMin f a b = b) ∧
    (f.decode a).rat ≤ (f.decode (fMax f a b)).rat ∧ (f.decode b).rat ≤ (f.decode (fMax f a b)).rat ∧
    (f.decode (fMin f a b)).rat ≤ (f.decode a).rat ∧ (f.decode (fMin f a b)).rat ≤ (f.decode b).rat) ∧
  (Gives1 .fexp2 (floatLanes1 fun f _ a => fpExp2 f (f.decode a)) ∧
  Gives1 .flog2 (floatLanes1 fun f _ a => fpLog2 f (f.decode a)) ∧
  Gives1 .frcp (floatLanes1 fun f _ a => fpRcp f (f.decode a)) ∧
  Gives1 .frsq (floatLanes1 fun f _ a => fpRsq f (f.decode a)) ∧
  Gives1 .fsqrt (floatLanes1 fun f _ a => fpSqrt f (f.decode a)) ∧
  Gives1 .fround (floatLanes1 fRound) ∧
  ∀ f : FF, f = .f32 ∨ f = .bf16 →
    let sg (neg : Bool) : Nat := if neg then 2 ^ (f.width - 1) else 0
    (∀ (neg : Bool) (fr : Nat), let x := Machine.Num.nan neg fr
      fpExp2 f x = nanOf f neg fr ∧ fpLog2 f x = nanOf f neg fr ∧ fpRcp f x = nanOf f neg fr ∧
      fpRsq f x = nanOf f neg fr ∧ fpSqrt f x = nanOf f neg fr) ∧
    (∀ (neg : Bool) (e : Int), let x := Machine.Num.fin neg 0 e
      fpLog2 f x = sg true + f.infCode ∧ fpRcp f x = sg neg + f.infCode ∧ fpRsq f x = sg neg + f.infCode ∧
      fpSqrt f x = sg neg) ∧
    (let x := Machine.Num.inf false;
      fpExp2 f x = f.infCode ∧ fpLog2 f x = f.infCode ∧ fpRcp f x = 0 ∧ fpRsq f x = 0 ∧ fpSqrt f x = f.infCode) ∧
    (let x := Machine.Num.inf true;
      fpExp2 f x = 0 ∧ fpLog2 f x = f.defNan ∧ fpRcp f x = sg true ∧ fpRsq f x = f.defNan ∧ fpSqrt f x = f.defNan) ∧
    (∀ (m : Nat) (e : Int), m ≠ 0 → let x := Machine.Num.fin true m e
      fpLog2 f x = f.defNan ∧ fpRsq f x = f.defNan ∧ fpSqrt f x = f.defNan) ∧
    ∀ a : Nat, (f.decode a).isFin = true →
      let x := (f.decode a).rat
      (∀ k : Int, x = k → -126 ≤ k → k ≤ 127 → fpExp2 f (f.decode a) = (k + 127).toNat * 2 ^ f.fbits) ∧
      (∀ k : Int, x = (2 : ℚ) ^ k → fpLog2 f (f.decode a) = roundNum f .rne false (.ofInt k)) ∧
      (∀ d : Nat, (f.decode d).isFin = true → x ≠ 0 →
        let y := f.decode (fpRcp f (f.decode a))
        y.isFin = true → |y.rat - 1 / x| ≤ |(f.decode d).rat - 1 / x|) ∧
      (∀ d : Nat, (f.decode d).isFin = true → 0 < x →
        let root := Real.sqrt (x : ℝ)
        let y := f.decode (fpSqrt f (f.decode a))
        let z := f.decode (fpRsq f (f.decode a))
        y.isFin = true ∧ z.isFin = true ∧ |(y.rat : ℝ) - root| ≤ |((f.decode d).rat : ℝ) - root| ∧
        |(z.rat : ℝ) - 1 / root| ≤ |((f.decode d).rat : ℝ) - 1 / root|) ∧
      ∀ mode : RM,
        let y := f.decode (fRound f mode a)
        y.isFin = true ∧ y.isNeg = (f.decode a).isNeg ∧ ∃ k : Int, y.rat = k ∧ RoundsInt mode x k)

/-- The sum and the product of two finite values and the fused c + a times b round the exact rational result once;
an exact zero sum of operands of one sign keeps the sign, and of opposite signs is +0, or -0 under rdn; a
product has the exclusive or of the signs. The comparison of two finite values is that of the rational numbers
that they are, so that -0 equals +0, and the infinities lie outside every finite value. (R182, R201, R202,
R117) -/
def Obligations.ExactArithmetic : Prop :=
  (∀ (f : FF) (mode : RM) (sat : Bool) (n1 n2 n3 : Bool) (m1 m2 m3 : Nat) (e1 e2 e3 : Int),
    RoundsTo f mode sat (fpAdd f mode sat (.fin n1 m1 e1) (.fin n2 m2 e2))
      ((Machine.Num.fin n1 m1 e1).rat + (Machine.Num.fin n2 m2 e2).rat)
      (if n1 = n2 then n1 else decide (mode = .rdn)) ∧
    RoundsTo f mode sat (fpMul f mode sat (.fin n1 m1 e1) (.fin n2 m2 e2))
      ((Machine.Num.fin n1 m1 e1).rat * (Machine.Num.fin n2 m2 e2).rat) (n1 != n2) ∧
    ((Machine.Num.fin n3 m3 e3).rat + (Machine.Num.fin n1 m1 e1).rat * (Machine.Num.fin n2 m2 e2).rat ≠ 0 →
      RoundsTo f mode false (fpFma f mode (.fin n3 m3 e3) (.fin n1 m1 e1) (.fin n2 m2 e2))
        ((Machine.Num.fin n3 m3 e3).rat + (Machine.Num.fin n1 m1 e1).rat * (Machine.Num.fin n2 m2 e2).rat) false)) ∧
  (∀ (n1 n2 : Bool) (m1 m2 : Nat) (e1 e2 : Int),
    let x : Machine.Num := .fin n1 m1 e1
    let y : Machine.Num := .fin n2 m2 e2
    (Machine.Num.cmp x y < 0 ↔ x.rat < y.rat) ∧ (Machine.Num.cmp x y = 0 ↔ x.rat = y.rat) ∧ (0 < Machine.Num.cmp x y ↔ y.rat < x.rat) ∧
    Machine.Num.cmp (.inf true) x < 0 ∧ 0 < Machine.Num.cmp (.inf false) x)

/-- Under rne a finite value that does not overflow is rounded to a value of the format, no finite value of the
format lies nearer to it, and where another lies as near the code has bit 0 clear. In every format, where the
result is finite, rtz gives the greatest magnitude of the format that is at most the exact one, rup the least
value that is at least the exact one, and rdn the greatest that is at most the exact one. (R182, R200) -/
def Obligations.Rounding : Prop :=
  (∀ (f : FF) (neg : Bool) (m : Nat) (e : Int) (d : Nat), m ≠ 0 →
    let x := (Machine.Num.fin neg m e).rat
    let y := f.decode (roundNum f .rne false (.fin neg m e))
    y.isFin = true → (f.decode d).isFin = true → |y.rat - x| ≤ |(f.decode d).rat - x| ∧
      (|y.rat - x| = |(f.decode d).rat - x| → y.rat ≠ (f.decode d).rat →
        roundNum f .rne false (.fin neg m e) % 2 = 0)) ∧
  (∀ (f : FF) (neg : Bool) (m : Nat) (e : Int), m ≠ 0 →
    let x := (Machine.Num.fin neg m e).rat
    let y (mode : RM) : Machine.Num := f.decode (roundNum f mode false (.fin neg m e))
    ((y .rtz).isFin = true → |(y .rtz).rat| ≤ |x| ∧ 0 ≤ (y .rtz).rat * x ∧
      ∀ d : Nat, (f.decode d).isFin = true → |(f.decode d).rat| ≤ |x| → |(f.decode d).rat| ≤ |(y .rtz).rat|) ∧
    ((y .rup).isFin = true → x ≤ (y .rup).rat ∧
      ∀ d : Nat, (f.decode d).isFin = true → x ≤ (f.decode d).rat → (y .rup).rat ≤ (f.decode d).rat) ∧
    ((y .rdn).isFin = true → (y .rdn).rat ≤ x ∧
      ∀ d : Nat, (f.decode d).isFin = true → (f.decode d).rat ≤ x → (f.decode d).rat ≤ (y .rdn).rat))

/-- VBCAST, VSELM, VSHUF, VSLIDE, VZIP, VUNZIP, VINS, VEXTR and VIOTA, under every vector type, answer a next
state in which nothing but the fabric has changed: each lane of the result is the operand lane, the zero, or
for VIOTA the sum of lane 0 and the lane number, that the table names. Under the integer vector types VRSUM
sends the sum of the sixteen lanes modulo 2^32, VSCAN every prefix sum, and VRMAX and VRMIN a lane that is the
greatest or the least, read signed or unsigned by the type; under every type they complete with a value that
depends on the operand alone, and nothing but the fabric changes. Choices of the model in it: log 114 (lane 0
of VIOTA from a float base of -0). (R207, R27, R208, R209) -/
def Obligations.VectorInstructions : Prop :=
  (LanesGive .vbcast (fun _ a _ _ => a 0) ∧
  LanesGive .vselm (fun _ a b i => if b.scalar.getLsbD i then a i else 0) ∧
  LanesGive .vshuf (fun w a b i => a (b.lane (laneBits w.ty) i % laneCount w.ty)) ∧
  LanesGive .vslide (fun w a b i =>
    let j : Int := i + b.scalar.toInt
    if 0 ≤ j ∧ j < laneCount w.ty then a j.toNat else 0) ∧
  LanesGive .vzip (fun w a b i => if i % 2 = 0 then a (i / 2) else b.lane (laneBits w.ty) (i / 2)) ∧
  LanesGive .vunzip (fun w a b i =>
    if i < laneCount w.ty / 2 then a (2 * i) else b.lane (laneBits w.ty) (2 * (i - laneCount w.ty / 2))) ∧
  (∀ (w : GWord) (s : State) (f : Firing), w.ty.isVec = true → s.sel = some f → Fires w.pm f → DataOnly (both f) →
    ∃ v : Val, exec (.vins w) s = .next (s.emits f w.t0 w.t1 .data v) ∧
      ∀ i : Nat, i < laneCount w.ty → v.lane (laneBits w.ty) i =
        if i = bits f.lval.scalar 36 32 % laneCount w.ty then f.lval.scalar.toNat % 2 ^ laneBits w.ty
        else (rightOf w f).lane (laneBits w.ty) i) ∧
  (∀ (w : GWord) (s : State) (f : Firing), w.ty.isVec = true → s.sel = some f → Fires w.pm f → DataOnly (both f) →
    let x := f.lval.lane (laneBits w.ty) ((rightOf w f).scalar.toNat % laneCount w.ty)
    exec (.vextr w) s = .next (s.emits f w.t0 w.t1 .data (if w.ty = .vs32
      then .sc ((BitVec.ofNat 32 x).signExtend 64) else .sc (BitVec.ofNat 64 x)))) ∧
  ∀ (w : GWord) (s : State) (f : Firing), w.ty.isVec = true → s.sel = some f → Fires w.pm f → DataOnly (leftOnly f) →
    ∃ v : Val, exec (.viota w) s = .next (s.emits f w.t0 w.t1 .data v) ∧
      (intVec w.ty → ∀ i : Nat, i < 16 → v.lane 32 i = (f.lval.lane 32 0 + i) % 2 ^ 32) ∧
      (¬ intVec w.ty → ∀ i : Nat, i < laneCount w.ty → v.lane (laneBits w.ty) i =
        fpAdd (laneFmt w.ty) .rne false ((laneFmt w.ty).decode (f.lval.lane (laneBits w.ty) 0)) (.ofInt i))) ∧
  ((∀ (w : GWord) (s : State) (f : Firing), intVec w.ty → s.sel = some f → Fires w.pm f → DataOnly (leftOnly f) →
    let lane (i : Nat) : Nat := f.lval.lane 32 i
    let out (n : Nat) : Val := if w.ty = .vs32 then .sc ((BitVec.ofNat 32 n).signExtend 64) else .sc (BitVec.ofNat 64 n)
    exec (.vrsum w) s = .next (s.emits f w.t0 w.t1 .data (out (((List.range 16).map lane).sum % 2 ^ 32))) ∧
    (∃ v : Val, exec (.vscan w) s = .next (s.emits f w.t0 w.t1 .data v) ∧
      ∀ i : Nat, i < 16 → v.lane 32 i = ((List.range (i + 1)).map lane).sum % 2 ^ 32) ∧
    (∃ k : Nat, k < 16 ∧ exec (.vrmax w) s = .next (s.emits f w.t0 w.t1 .data (out (lane k))) ∧
      ∀ i : Nat, i < 16 → toInt 32 (isSigned w.ty) (lane i) ≤ toInt 32 (isSigned w.ty) (lane k)) ∧
    ∃ k : Nat, k < 16 ∧ exec (.vrmin w) s = .next (s.emits f w.t0 w.t1 .data (out (lane k))) ∧
      ∀ i : Nat, i < 16 → toInt 32 (isSigned w.ty) (lane k) ≤ toInt 32 (isSigned w.ty) (lane i)) ∧
  ∀ w : GWord, ∃ sum scan most least : Val → Val, ∀ (s : State) (f : Firing), s.sel = some f → Fires w.pm f →
    DataOnly (leftOnly f) →
    exec (.vrsum w) s = .next (s.emits f w.t0 w.t1 .data (sum f.lval)) ∧
    exec (.vscan w) s = .next (s.emits f w.t0 w.t1 .data (scan f.lval)) ∧
    exec (.vrmax w) s = .next (s.emits f w.t0 w.t1 .data (most f.lval)) ∧
    exec (.vrmin w) s = .next (s.emits f w.t0 w.t1 .data (least f.lval)))

/-- CVT converts every element by one rule of its type, its source type and its mode and places the elements by
the lane table: a float to a float is rounded once, a float to an integer is rounded to an integer and
clamped, an integer to a float is rounded, an integer to an integer is reduced modulo 2^n or, with sat,
clamped; QSCALE gives the power of two of its clamped code for the format that its mode names, and the NaN for
a NaN or an infinity; VARGMAX and VARGMIN, with a carry or with an immediate, give the greatest or least
candidate with the lowest index, the next base and the flag. Each answers a next state in which nothing but
the fabric has changed. (R187, R192, R205, R206, R210, R211) -/
def Obligations.Conversions : Prop :=
  (∀ (ty src : RType) (mode : BitVec 3), ∃ g : Nat → Nat,
    (∀ a : Nat, a < 2 ^ laneBits src → CvtElemIs ty src mode.toNat a (g a)) ∧
    ∀ (w : GWord) (s : State) (f : Firing), w.ty = ty → w.mode = mode → s.sel = some f → Fires w.pm f → DataOnly (both f) →
      (RType.ofNat? (bits (rightOf w f).scalar 3 0)).getD .b64 = src →
      exec (.cvt w) s = .next (s.emits f w.t0 w.t1 .data (cvtShape ty src g f.lval))) ∧
  (∀ w : GWord,
    let emax : Int := if w.mode.toNat = 0 then 8 else if w.mode.toNat = 1 then 15 else 5
    let scale (code : Nat) : Nat := if code = 0 then 0x400000 else code * 2 ^ 23
    ∃ r : Nat → Nat,
    (∀ a : Nat, ((FF.f32.decode a).isFin = false → r a = 0x7FC00000) ∧
      ((FF.f32.decode a).isFin = true →
        ((FF.f32.decode a).rat = 0 → r a = scale 0) ∧
        ∀ k : Int, (2 : ℚ) ^ k ≤ |(FF.f32.decode a).rat| → |(FF.f32.decode a).rat| < (2 : ℚ) ^ (k + 1) →
          r a = scale (max 0 (min (k - emax + 127) 254)).toNat)) ∧
    ∀ (s : State) (f : Firing), s.sel = some f → Fires w.pm f → DataOnly (leftOnly f) →
    exec (.qscale w) s = .next (s.emits f w.t0 w.t1 .data (writeLanes w.ty ((readLanes w.ty f.lval).map r)))) ∧
  ∀ (w : GWord) (s : State) (f : Firing), w.ty = .vf32 ∨ w.ty = .vbf16 → s.sel = some f → Fires w.pm f →
    DataOnly (both f) →
    (∃ v : Val, exec (.vargmax w) s = .next (s.emits f w.t0 w.t1 .data v) ∧ ArgResult true w f v) ∧
    ∃ v : Val, exec (.vargmin w) s = .next (s.emits f w.t0 w.t1 .data v) ∧ ArgResult false w f v

namespace Sys2Proof.Machine

/-- Operation number `k` that waits in context `x` of core `c` is `q`. -/
def PendAt (s : State) (c x k : Nat) (q : Pend) : Prop := (s.cx c x).pend[k]? = some q ∧ q.f.core = c ∧ q.f.ctx = x

/-- The tokens of an emission as another unit sends them: no output slot of an element holds them. -/
def sentBy (src : Nat) (l : List Flight) : List Flight := l.map fun fl => { fl with src, out := none }

/-- Core `c` has received `l` in its fabric. -/
def Received (s t : State) (c : Nat) (l : List Flight) : Prop := (t.core c).fabric = (s.core c).fabric ++ l

/-- No write of a completed command that is still under way is to one of these bytes. -/
def NoLate (s : State) (pas : List Nat) : Prop :=
  ∀ o ∈ s.cores, ∀ l ∈ o.late, l.runs = false → ∀ b ∈ l.bytes, b.1 ∉ pas

/-- Memory and partitions are as they were. -/
def SameStore (s t : State) : Prop := t.mem = s.mem ∧ t.parts = s.parts

/-- An instruction of format M has passed its predicate and has only DATA operands among those that it reads. -/
def ReadyM (s : State) (w : MWord) (f : Firing) (ops : Firing → List (Option Tok)) : Prop :=
  s.sel = some f ∧ Fires w.pm f ∧ DataOnly (ops f)

/-- The addresses whose translations an access of a word uses: none of a misaligned one. -/
def vasOf (w : MWord) (f : Firing) : List Nat := vasIf (MWord.ea w f) (fmtBytes w.fmt) (MWord.span w)

/-- The state in which a returning load reads the bytes that it has not read: its acquire part has invalidated CACHE, and so
has a plain load of a byte that a release covering the core wrote last (R320, R323; the second is the model's reading, log 95). -/
def readState (s : State) (c : Nat) (w : MWord) (left : List Nat) : State :=
  if (MWord.acq w && decide (2 ≤ w.scope.code)) || (!MWord.acq w && left.any (s.readsRelease c)) then s.cacheAcquire c
  else s

/-- Does an entry say what a byte was to the accesses of a strand at a place: one that lies before an access which has been
performed already, and not before the store whose value it read (R147, R325)? -/
def Past.holdsAt (e : Past) (f : Firing) (place pa : Nat) : Prop :=
  e.hdl = f.hdl ∧ e.pa = pa ∧ precedes (f.seq, place) e.lo = false ∧ precedes (f.seq, place) e.hi = true

/-- A load whose checks pass on `pas`, once its addresses are translated, waits to return (R146). -/
def StartsLoad (mk : MWord → Instr) (vas : MWord → Firing → List Nat)
    (chk : State → MWord → Firing → Except AccErr (List Nat)) : Prop :=
  ∀ (w : MWord) (s : State) (f : Firing) (pas : List Nat), ReadyM s w f leftOnly → s.portTakes f = true →
    s.walkStalls f.core (vas w f) = false → chk (s.fillTlb f.core (vas w f)) w f = .ok pas →
    exec (mk w) s = .next ((s.fillTlb f.core (vas w f)).addPend ⟨mk w, f, .load pas [], 0⟩)

/-- A load returns (R147, R326): its targets receive what `val` makes of its bytes, those that it has read before and those
that `loadByte` reads now. -/
def ReturnsLoad (mk : MWord → Instr) (val : MWord → Firing → List Byte → Val) : Prop :=
  ∀ (w : MWord) (s : State) (c x k : Nat) (q : Pend) (pas : List Nat) (got : List (Nat × Byte)), PendAt s c x k q →
    q.i = mk w → q.st = .load pas got → s.readAllowed q.f (w.lsid.toNat + 1) pas = true → s.acquireStalls q = false →
    s.badByte c pas = none → ∃ t : State, exec (.loadReturn c x k) s = .next t ∧
      Received s t c (sentBy (srcPort q.f.elem) (deliveries s q.f w.t0 w.t1
        ⟨q.f.tag, .data, val w q.f (pas.map fun pa => (lastWrite got pa).getD
          ((readState (s.dropPend c x k) c w (pas.filter fun a => !got.any (·.1 == a))).loadByte q.f (w.lsid.toNat + 1) pa))⟩)) ∧
      (t.cx c x).pend = (s.cx c x).pend.eraseIdx k ∧ t.parts = s.parts ∧
      ((s.core c).split.cache = 0 → (s.core c).cache = [] → t.mem = s.mem)

/-- A store whose checks pass on `pas` is buffered in its instance until that commits, and its LSID is counted (R146,
R48). -/
def Buffers (mk : MWord → Instr) (scale : Firing → Nat) (vas : MWord → Firing → List Nat) (chk : State → MWord → Firing → Except AccErr (List Nat)) : Prop :=
  ∀ (w : MWord) (s : State) (f : Firing) (i : Inst) (pas : List Nat), ReadyM s w f both → s.portTakes f = true →
    s.walkStalls f.core (vas w f) = false → s.instOf f = some i → chk (s.fillTlb f.core (vas w f)) w f = .ok pas →
    let bytes := List.zip pas (storeBytes w.ty w.fmt (w.order.toNat.testBit 0) (scale f) f.rval)
    ∃ t : State, exec (mk w) s = .next t ∧ SameStore (s.fillTlb f.core (vas w f)) t ∧
      ((s.core f.core).cache = [] → SameStore s t) ∧ Received s t f.core [] ∧
      t.instOf f = some { i with
        stores := i.stores ++ [{
          idx := f.idx, lsid := w.lsid.toNat,
          bytes, zero := zeroLines bytes,
          copySrc := [], copyDst := [], scope := w.scope, rel := MWord.rel w, fence := false, shown := false }],
        counted := i.counted ||| BitVec.ofNat 32 (2 ^ w.lsid.toNat) }

end Sys2Proof.Machine

/-- LD, LDX and LDS, fired with a DATA address at a port that takes accesses and with checks that pass, translate
their addresses and wait to return; nothing else changes. When the order of R147 allows it and no byte fails,
LOAD_RETURN of a waiting LD, LDS or LDX answers a next state in which the targets have been sent, as DATA, the
bytes that the load has read before or reads now, after the acquire of a DIE or wider scope, converted by
format and type with the scale 1.0 or, for LDX, the scale of its operand; the operation waits no more, and
without CACHE memory is unchanged. That a plain load which reads what a release made visible acts on CACHE in
the same way is the model's choice (log 95). Choices of the model in it: log 17 (which accesses a load waits
for), log 95 (a plain load of what a release wrote). (R142, R146, R140, R144, R147, R326) -/
def Obligations.Loads : Prop :=
  (StartsLoad .ld vasOf (fun s w f => s.checkMem f w .load) ∧
  StartsLoad .ldx vasOf (fun s w f => s.checkMem f w .load) ∧
  StartsLoad .lds (fun _ _ => []) (fun s w f => s.checkMemPad f w)) ∧
  (ReturnsLoad .ld (fun w _ bs => loadValue w.ty w.fmt 0x3F800000 bs) ∧
  ReturnsLoad .lds (fun w _ bs => loadValue w.ty w.fmt 0x3F800000 bs) ∧
  ReturnsLoad .ldx (fun w f bs => loadValue w.ty w.fmt (match f.lval with
    | .vec v => bits v 95 64
    | .sc _ => 0x3F800000) bs))

/-- A byte that a load reads is the one of the latest buffered store to it that precedes the load in strand order;
else what the byte was before the nearest later access of the strand that has been performed already; else the
byte of the CACHE line that covers it; else that of a write which a command completed at a scope that holds
the core and which has not reached its coherence point (log 96), else the byte of memory. Choices of the model
in it: log 17 (what a byte was to an access that comes later than those after it), log 96 (writes of commands
under way). (R147, R315, R320, R325) -/
def Obligations.LoadsSeeStores : Prop :=
  ∀ (s : State) (f : Firing) (place pa : Nat),
    ((∀ e ∈ s.storesBefore f.core f.ctx f.hdl (f.seq, place), e.2.writes pa = none) →
      ((∀ e ∈ (s.cx f.core f.ctx).past, ¬ e.holdsAt f place pa) → s.loadByte f place pa = s.readCached f.core pa) ∧
      ∀ e ∈ (s.cx f.core f.ctx).past, e.holdsAt f place pa →
        ∃ g ∈ (s.cx f.core f.ctx).past, g.holdsAt f place pa ∧ s.loadByte f place pa = g.val ∧
          precedes e.hi g.hi = false) ∧
    (∀ (e : (Nat × Nat) × BStore) (v : Byte), e ∈ s.storesBefore f.core f.ctx f.hdl (f.seq, place) →
      e.2.writes pa = some (.ok v) →
      (∀ g ∈ s.storesBefore f.core f.ctx f.hdl (f.seq, place), (g.2.writes pa).isSome = true →
        g = e ∨ precedes g.1 e.1 = true) →
      s.loadByte f place pa = v) ∧
    (cacheable pa = false → s.readCached f.core pa = Memory.get s.mem pa) ∧
    (cacheable pa = true → ∀ l : CLine, (s.core f.core).findLine (pa / 64) = some l →
      s.readCached f.core pa = l.bytes.getD (pa % 64) 0) ∧
    (cacheable pa = true → (s.core f.core).findLine (pa / 64) = none →
      ((∀ (o : Nat) (k : Core) (l : Late), s.cores[o]? = some k → l ∈ k.late → l.seenBy o f.core = true →
          ∀ v : Byte, (pa, v) ∉ l.bytes) → s.readCached f.core pa = Memory.get s.mem pa) ∧
      ((∃ (o : Nat) (k : Core) (l : Late) (v : Byte), s.cores[o]? = some k ∧ l ∈ k.late ∧
          l.seenBy o f.core = true ∧ (pa, v) ∈ l.bytes) →
        ∃ (o : Nat) (k : Core) (l : Late), s.cores[o]? = some k ∧ l ∈ k.late ∧ l.seenBy o f.core = true ∧
          (pa, s.readCached f.core pa) ∈ l.bytes))

/-- ST, STS and STX, fired with DATA operands at a port that takes accesses and with checks that pass, buffer the
converted bytes at the checked addresses in their instance and count their LSID; memory and partitions are as
the translation of their addresses leaves them, which without CACHE changes neither, and the fabric is
unchanged. ST, STS and STX with an operand that is NULL, STOPj or CHAFF, and no FAULT, store nothing and send
nothing; their LSID is counted. (R142, R145, R146, R28) -/
def Obligations.Stores : Prop :=
  (Buffers .st (fun _ => 0x3F800000) vasOf (fun s w f => s.checkMem f w .store) ∧
  Buffers .sts (fun _ => 0x3F800000) (fun _ _ => []) (fun s w f => s.checkMemPad f w) ∧
  Buffers .stx (fun f => match f.lval with
    | .vec v => bits v 95 64
    | .sc _ => 0x3F800000) vasOf (fun s w f => s.checkMem f w .store)) ∧
  (∀ (w : MWord) (s : State) (f : Firing) (i : Inst), s.sel = some f → Fires w.pm f → s.instOf f = some i →
    (∃ t : Tok, some t ∈ both f ∧ t.kind ≠ .data) → (∀ t : Tok, some t ∈ both f → t.kind ≠ .fault) →
    ∀ o : Out, (o = exec (.st w) s ∨ o = exec (.sts w) s ∨ o = exec (.stx w) s) → ∃ t : State, o = .next t ∧
      SameStore s t ∧ Received s t f.core [] ∧
      t.instOf f = some { i with counted := i.counted ||| BitVec.ofNat 32 (2 ^ w.lsid.toNat) })

/-- For every type and every integer format as wide as its lanes, and for line64 under the vector types, the bytes
that a store makes are as many as the access spans, and a load converts them back to the lanes stored. (R143,
R144, R145) -/
def Obligations.FormatsRoundTrip : Prop :=
  ∀ (ty : RType) (fm : Fmt) (v : Val) (sat : Bool),
    (fm = .line64 ∧ ty.isVec = true) ∨ (FF.ofFmt fm = none ∧ fm ≠ .line64 ∧ 8 * fmtBytes fm = laneBits ty) →
    loadValue ty fm 0x3F800000 (storeBytes ty fm sat 0x3F800000 v) = writeLanes ty (readLanes ty v) ∧
    (storeBytes ty fm sat 0x3F800000 v).length = spanBytes ty fm

/-- An LD whose check fails sends a FAULT that names a new record of the kind, address, LSID, tag and sequence
number of the failure under TRAP mode, and under NULLIFY mode but for NOT_PRESENT, which sends CHAFF and
counts one repair; under FREEZE mode its port is frozen and it waits. Memory is as the translation of its
addresses leaves it. (R140, R141, R339, R340) -/
def Obligations.FailedLoads : Prop :=
  ∀ (w : MWord) (s : State) (f : Firing) (e : AccErr), ReadyM s w f leftOnly → s.portTakes f = true →
    s.walkStalls f.core (vasOf w f) = false → f.core < s.cores.length → f.elem < 64 → f.ctx < 8 → f.ctx < (s.core f.core).cxs.length →
    let u := s.fillTlb f.core (vasOf w f)
    u.checkMem f w .load = .error e →
    let mode := (s.cx f.core f.ctx).ctl.smode
    let sent (k : Kind) (v : Val) := sentBy (srcPort f.elem) (deliveries s f w.t0 w.t1 ⟨f.tag, k, v⟩)
    ((mode = 0 ∨ mode = 1 ∧ e.code ≠ 4) → ∃ (t : State) (n : Nat) (r : FRec), exec (.ld w) s = .next t ∧
      Received s t f.core (sent .fault (faultVal n)) ∧
      t.record f.core f.ctx n = some r ∧ r.kind = e.code ∧ r.addr = BitVec.ofNat 64 e.addr ∧
      r.lsid = w.lsid.toNat ∧ r.tag = f.tag ∧ r.seq = f.seq ∧ t.mem = u.mem) ∧
    (mode = 1 → e.code = 4 → ∃ t : State, exec (.ld w) s = .next t ∧
      Received s t f.core (sent .chaff (.sc 0)) ∧ t.mem = u.mem ∧
      (t.cx f.core f.ctx).ctl.rpend = (s.cx f.core f.ctx).ctl.rpend + 1) ∧
    (mode = 2 → ∃ t : State, exec (.ld w) s = .next t ∧ Received s t f.core [] ∧ t.mem = u.mem ∧
      t.isFrozen f.core (portOf f.elem) f.ctx = true ∧
      (t.cx f.core f.ctx).pend = (s.cx f.core f.ctx).pend ++ [⟨.ld w, f, .frozen (portOf f.elem), 0⟩])

namespace Sys2Proof.Machine

/-- A firing is the first of an atomic: its element waits to be acted on, and its LSID is counted (R152). Where the atomic of
a squashed instance still waits, which `sseq` 1 marks, the firing goes on with it (R331). -/
def StartsAtomic (mk : MWord → Instr) : Prop :=
  ∀ (w : MWord) (s : State) (f : Firing), ReadyM s w f both → s.keptOf f = none →
    (s.adopt (mk w) f = none → s.portTakes f = true →
      exec (mk w) s = .next ((s.countLsid f w.lsid.toNat).addPend ⟨mk w, f, .perform, 0⟩)) ∧
    ∀ t : State, s.adopt (mk w) f = some t → exec (mk w) s = .next (t.countLsid f w.lsid.toNat)

/-- An atomic is performed as one step (R151, R152), also when its instance has been squashed meanwhile (R331): from `m`, the element as memory holds it, and the 512 bits of the right
operand, `op` gives the new element and the result. The bytes written are those that the check answers, and no other. -/
def PerformsAtomic (mk : MWord → Instr) (op : RType → (bits m r : Nat) → Nat × Nat) : Prop :=
  ∀ (w : MWord) (s : State) (c x k : Nat) (q : Pend) (pas : List Nat), PendAt s c x k q → q.i = mk w →
    q.st = .perform → (s.fillTlb c (vasOf w q.f)).checkMem q.f w .atomic = .ok pas →
    s.atomicAllowed q w (MWord.rel w) (s.atomicBytes q) = true → s.atomicAllowed q w (MWord.rel w) pas = true →
    s.walkStalls c (vasOf w q.f) = false → (s.core c).cache = [] →
    NoLate s pas → (∀ i : Inst, s.instOf q.f = some i → i.stores = []) →
    let n := fmtBytes w.fmt
    let out := op w.ty (8 * n) (bytesToNat (pas.map (Memory.get s.mem))) q.f.rval.wide
    ∃ t : State, exec (.atomicPerform c x k) s = .next t ∧
      t.mem = Memory.putAll s.mem (List.zip pas (natBytes n out.1)) ∧ t.parts = s.parts ∧
      Received s t c (if q.sseq = 1 then [] else sentBy (srcPort q.f.elem) (deliveries s q.f w.t0 w.t1
        ⟨q.f.tag, .data, .sc (BitVec.ofInt 64 (toInt (8 * n) (isSigned w.ty) out.2))⟩))

end Sys2Proof.Machine

/-- AADD, AAND, ACAS, AFADD, AMAX, AMIN, AOR, ATSET, AXCHG and AXOR, fired with DATA operands and without a kept
result, count their LSID and wait to be performed, or go on with the atomic that a squash of their instance
left waiting; nothing else changes. When its check passes and the order allows it, ATOMIC_PERFORM of each of
the ten atomics writes the new element of the table into the checked bytes and no other byte, and sends the
old element, or the old bit for ATSET, as DATA, but for an instance that was squashed meanwhile; this is said
where no CACHE line, no store of the same instance and no write under way to these bytes comes first. Choices
of the model in it: log 23 (an atomic is checked when it is performed). (R151, R152, R331, R154) -/
def Obligations.Atomics : Prop :=
  (StartsAtomic .aadd ∧ StartsAtomic .aand ∧ StartsAtomic .acas ∧ StartsAtomic .afadd ∧ StartsAtomic .amax ∧
  StartsAtomic .amin ∧ StartsAtomic .aor ∧ StartsAtomic .atset ∧ StartsAtomic .axchg ∧ StartsAtomic .axor) ∧
  (PerformsAtomic .aadd (fun _ n m r => ((m + r) % 2 ^ n, m)) ∧
  PerformsAtomic .aand (fun _ n m r => (m &&& r % 2 ^ n, m)) ∧
  PerformsAtomic .aor (fun _ n m r => (m ||| r % 2 ^ n, m)) ∧
  PerformsAtomic .axor (fun _ n m r => (m ^^^ r % 2 ^ n, m)) ∧
  PerformsAtomic .axchg (fun _ n m r => (r % 2 ^ n, m)) ∧
  PerformsAtomic .acas (fun _ n m r => (if m = r % 2 ^ n then r / 2 ^ n % 2 ^ n else m, m)) ∧
  PerformsAtomic .atset (fun _ n m r => (m ||| 2 ^ (r % 2 ^ n % n), if m.testBit (r % 2 ^ n % n) then 1 else 0)) ∧
  PerformsAtomic .amax (fun ty n m r =>
    (if toInt n (isSigned ty) m < toInt n (isSigned ty) (r % 2 ^ n) then r % 2 ^ n else m, m)) ∧
  PerformsAtomic .amin (fun ty n m r =>
    (if toInt n (isSigned ty) (r % 2 ^ n) < toInt n (isSigned ty) m then r % 2 ^ n else m, m)) ∧
  PerformsAtomic .afadd (fun _ n m r => (fpAdd .f32 .rne false (FF.f32.decode m) (FF.f32.decode (r % 2 ^ n)), m)))

namespace Sys2Proof.Machine

/-- Does a core's translation cache hold the translation of a virtual address (R138)? -/
def State.tlbHolds (s : State) (c va : Nat) : Bool :=
  (s.core c).tlb.any fun e => decide (e.vbase ≤ va) && decide (va < e.vbase + e.size)

end Sys2Proof.Machine

/-- FENCE and WIDEN, once the loads and atomics that precede them have returned and, for a release part, their
instance is the oldest, send their trigger on as DATA; at DIE or wider, where no failed link stalls the
write-back, a release leaves no dirty byte in CACHE and an acquire, which is performed once, leaves no line;
at a narrower scope memory is unchanged. XLAT hands on an operand that is a physical-address token; for a
virtual address that is translated to bytes that the partition owns it sends a token with bits 63:62 set, the
generation of the core, the write permission, and the physical address. A translation that the core does not
hold enters its 2,048 entries, the oldest going first, which is the model's choice (log 104), and the walk
leaves no CACHE line, being an acquire at PKG; a held one changes nothing. PFETCH and RESIDE send nothing:
without CACHE banks they change nothing, neither checked nor counted, which is the model's reading (log 43); a
hint that would fault only counts in the hint register, and one whose check passes leaves its line in CACHE,
for RESIDE marked resident, and changes no memory beyond what the translation of its address does while the
set of the line has a free way. (R155, R156, R320, R138, R158, R392, R161) -/
def Obligations.FencesAndTranslation : Prop :=
  (∀ (w : MWord) (s : State) (f : Firing) (i : Inst), ReadyM s w f leftOnly → s.instOf f = some i →
    s.returnsWait f (w.lsid.toNat + 1) = false → (MWord.rel w = true → s.oldest f = true) →
    (2 ≤ w.scope.code → s.dirtyStalls f.core = false) →
    ∀ o : Out, (o = exec (.fence w) s ∨ o = exec (.widen w) s) → ∃ t : State, o = .next t ∧
      Received s t f.core (deliveries s f w.t0 w.t1 ⟨f.tag, .data, f.lval⟩) ∧ t.parts = s.parts ∧
      (2 ≤ w.scope.code → MWord.rel w = true → ∀ l ∈ (t.core f.core).cache, l.dirty = 0) ∧
      (2 ≤ w.scope.code → MWord.acq w = true → f.idx ∉ i.acq → (t.core f.core).cache = []) ∧
      (w.scope.code < 2 → t.mem = s.mem)) ∧
  ((∀ (w : GWord) (s : State) (f : Firing), s.sel = some f → Fires w.pm f → DataOnly (leftOnly f) → s.portTakes f = true →
    let va := f.lval.scalar.toNat
    s.walkStalls f.core [va] = false →
    let u := s.fillTlb f.core [va]
    let sent (v : Word) := sentBy (srcPort f.elem) (deliveries s f w.t0 w.t1 ⟨f.tag, .data, .sc v⟩)
    (s.tlbHolds f.core va = true → u = s) ∧
    (∀ e : TlbE, s.tlbHolds f.core va = false → (s.cacheAcquire f.core).lookup f.core va = .ok e →
      f.core < s.cores.length →
      (u.core f.core).tlb = e :: (s.core f.core).tlb.take 2047 ∧ (u.core f.core).cache = []) ∧
    (va / 2 ^ 62 = 3 → ∃ t : State, exec (.xlat w) s = .next t ∧ SameStore s t ∧
      Received s t f.core (sent f.lval.scalar)) ∧
    ∀ e : TlbE, va / 2 ^ 62 ≠ 3 → u.lookup f.core va = .ok e → s.ownedBy f.core (e.pbase + (va - e.vbase)) = true →
      f.core < s.cores.length →
      ∃ (t : State) (v : Word), exec (.xlat w) s = .next t ∧ SameStore u t ∧ Received s t f.core (sent v) ∧
        bits v 63 62 = 3 ∧ bits v 61 54 = (s.core f.core).xgen.toNat ∧ bit v 53 = e.w ∧
        bits v 51 0 = (e.pbase + (va - e.vbase)) % 2 ^ 52) ∧
  (∀ (w : MWord) (s : State) (f : Firing), ReadyM s w f leftOnly → s.portTakes f = true →
    let vas := touched (MWord.ea w f) 1
    let u := s.fillTlb f.core vas
    s.walkStalls f.core vas = false →
    ((s.core f.core).split.cache = 0 → exec (.pfetch w) s = .next s ∧ exec (.reside w) s = .next s) ∧
    ((s.core f.core).split.cache ≠ 0 → ∀ e : AccErr, u.check f.core .load (MWord.ea w f) 1 1 = .error e →
      let v := u.cx f.core f.ctx
      let t := u.setCx f.core f.ctx { v with ctl := { v.ctl with hintdrop := v.ctl.hintdrop + 1 } }
      exec (.pfetch w) s = .next t ∧ exec (.reside w) s = .next t) ∧
    ∀ pa : Nat, f.core < s.cores.length → u.check f.core .load (MWord.ea w f) 1 1 = .ok [pa] → cacheable pa = true →
      u.linkDown f.core [pa] = false → (s.core f.core).split.cache ≠ 0 → ((u.core f.core).setLines (pa / 64)).length < 16 →
      (∃ t : State, exec (.pfetch w) s = .next t ∧ SameStore u t ∧ Received s t f.core [] ∧
        ∃ l ∈ (t.core f.core).cache, l.line = pa / 64) ∧
      ∃ t : State, exec (.reside w) s = .next t ∧ SameStore u t ∧ Received s t f.core [] ∧
        ∃ l ∈ (t.core f.core).cache, l.line = pa / 64 ∧ l.resident = true))

namespace Sys2Proof.Machine

/-- An instruction of format E has passed its predicate and has only DATA operands among those that it reads. -/
def ReadyE (s : State) (w : EWord) (f : Firing) (ops : Firing → List (Option Tok)) : Prop :=
  s.sel = some f ∧ Fires w.pm f ∧ DataOnly (ops f)

/-- A barrier operation waits until every older instance has committed and is then applied (R164, R165): `op` gives the
barrier after it, and the new count is sent on. One whose instance has been squashed meanwhile, which `sseq` 1 marks, is
applied all the same and sends nothing, unless the replay of its instance takes it up (R331). -/
def BarrierRule (mk : EWord → Instr) (op : Barrier → BitVec 32 → Barrier) : Prop :=
  (∀ (w : EWord) (s : State) (f : Firing), ReadyE s w f leftOnly → s.keptOf f = none →
    (s.adopt (mk w) f = none → exec (mk w) s = .next (s.addPend ⟨mk w, f, .perform, 0⟩)) ∧
    ∀ t : State, s.adopt (mk w) f = some t → exec (mk w) s = .next t) ∧
  ∀ (w : EWord) (s : State) (c x k : Nat) (q : Pend), PendAt s c x k q → q.i = mk w → q.st = .perform →
    s.due q = true → (s.core c).barriers.length = 128 → ∃ t : State, exec (.barrierApply c x k) s = .next t ∧
      SameStore s t ∧
      let b := op ((s.core c).barrier (barOf w)) (q.f.lval.scalar.setWidth 32)
      (t.core c).barrier (barOf w) = b ∧
      (∀ n : Nat, n ≠ barOf w → (t.core c).barrier n = (s.core c).barrier n) ∧
      Received s t c (if q.sseq = 1 then [] else
        deliveries s q.f w.t0 w.t1 ⟨q.f.tag, .data, .sc (b.count.signExtend 64)⟩)

/-- What a report of tag `n` with result `v` sends (R238). -/
def marked : Mark → Val → Kind × Val
  | .none, v => (.data, v)
  | .chaff, _ => (.chaff, .sc 0)
  | .fault n, _ => (.fault, faultVal n)

/-- Tag `n` of a core acquires nothing beyond the core when it is reported (R168, R320). -/
def NarrowTag (s : State) (c n : Nat) : Prop := ((s.core c).ctag n).scope < 2

/-- Instance `i` after a wait has asked for the tags `l` to be cleared at its commit (R169). -/
def Clears (s : State) (c : Nat) (i : Inst) (l : List Nat) : Inst :=
  { i with post := i.post ++ l.map fun n => .clearTag n ((s.core c).ctag n).owner }

/-- The commands of core `c` are `l`. -/
def CmdsAre (t : State) (c : Nat) (l : List Cmd) : Prop := (t.core c).cmds = l

/-- A command's tag is DONE, unmarked, when it holds one (R167, R238). -/
def TagDone (t : State) (c : Nat) (m : Cmd) : Prop :=
  ∀ n : Nat, n < 64 → m.ctag = some n → ((t.core c).ctag n).st = .done ∧ ((t.core c).ctag n).mark = .none

/-- CACHE of a core holds no dirty byte. -/
def NoDirty (s : State) (c : Nat) : Prop := ∀ l ∈ (s.core c).cache, l.dirty = 0

/-- A command without a squashed instance, which releases at CORE or a narrower scope or finds no dirty byte in CACHE. -/
def PlainCmd (s : State) (c : Nat) (m : Cmd) : Prop :=
  m.orphan = false ∧ (m.scope < 2 ∨ NoDirty s c) ∧ m.f.core = c ∧ (s.core c).ctags.length = 64

/-- The island on `m`'s port has sent kind and value to the targets of its instruction. -/
def CmdSent (s t : State) (c : Nat) (m : Cmd) (k : Kind) (v : Val) : Prop :=
  Received s t c (sentBy (srcIsland m.port) (deliveries s m.f (instrTargets m.i).1 (instrTargets m.i).2 ⟨m.f.tag, k, v⟩))

/-- Every byte of memory outside `l` reads as before. (Said of a step from memory in its canonical form, `State.memOk`, which
every step keeps: `MemoryStaysCanonical`.) -/
def MemOutside (s t : State) (l : List Nat) : Prop := ∀ a : Nat, a ∉ l → Memory.get t.mem a = Memory.get s.mem a

/-- The writes that command `m` of core `c` has under way. -/
def ownWrites (s : State) (c : Nat) (m : Cmd) : List (Nat × Byte) :=
  ((s.core c).late.filter fun l => l.job == m.ord).flatMap fun l => l.bytes

/-- A command with an order number may complete: it releases at CORE or a narrower scope, or CACHE holds no dirty byte, and no
write under way of a command that has completed is to its bytes. -/
def MayEnd (s : State) (c : Nat) (m : Cmd) : Prop :=
  m.ord ≠ 0 ∧ (m.scope < 2 ∨ NoDirty s c) ∧ (s.core c).ctags.length = 64 ∧ s.memOk ∧
  NoLate s ((ownWrites s c m).map fun x => x.1)

/-- Writes come to rest at a scope (R315): at PKG or SYS all of them are in memory, at a narrower scope those that CACHE does
not serve; no other byte of memory changes. -/
def Lands (s t : State) (scope : Nat) (l : List (Nat × Byte)) : Prop :=
  MemOutside s t (l.map fun x => x.1) ∧
  ∀ pa : Nat, s.inSize pa = true → ∀ b : Byte, lastWrite l pa = some b →
    (scope < 3 ∧ cacheable pa = true → Memory.get t.mem pa = Memory.get s.mem pa) ∧
    (¬ (scope < 3 ∧ cacheable pa = true) → Memory.get t.mem pa = b)

/-- The writes under way of a core that have bytes left. -/
def underWay (s : State) (c : Nat) : List Late := (s.core c).late.filter fun l => !l.bytes.isEmpty

/-- A command's writes are made as its scope asks (R243, R315): at PKG or SYS all of them are in memory, at a narrower scope
those that CACHE does not serve are, and the parties in the scope see the others. -/
def WritesEnd (s t : State) (c : Nat) (m : Cmd) : Prop :=
  let far (x : Nat × Byte) : Bool := decide (m.scope < 3) && cacheable x.1
  Lands s t m.scope (ownWrites s c m) ∧
  underWay t c = ((underWay s c).filter fun l => !(l.job == m.ord)) ++
    ((underWay s c).filter fun l => l.job == m.ord && l.bytes.any far).map fun l =>
      { l with reach := max 1 m.scope, job := 0, bytes := l.bytes.filter far }

/-- Command `m` has begun the writes `l` (R243, R326): memory is unchanged, and they are under way. -/
def WritesBegin (s t : State) (c : Nat) (m : Cmd) (l : List (Nat × Byte)) : Prop :=
  underWay t c = underWay s c ++ (if l = [] then [] else [⟨4, m.ord, l, zeroLines l⟩])

/-- The state in which a command that has no order number yet has taken the next of its core (R249). -/
def State.ordered (s : State) (c : Nat) (m : Cmd) : State := if m.ord = 0 then (s.takeOrd c).1 else s

/-- A streamer command is sent to its engine, with its tag taken when it is granted and free (R167, R237). -/
def StartsStream (mk : EWord → Instr) : Prop :=
  ∀ (w : EWord) (s : State) (f : Firing), ReadyE s w f leftOnly → s.stallsTile (mk w) f = false →
    let scope := w.mods.toNat % 8
    (s.takeTag f w.ctag.toNat = .noTag → exec (mk w) s = .next (s.addCmd f.core (mkCmd (mk w) f 33 none scope))) ∧
    (s.takeTag f w.ctag.toNat = .free → exec (mk w) s = .next
      ((s.claimTag f w.ctag.toNat scope).addCmd f.core (mkCmd (mk w) f 33 (some w.ctag.toNat) scope)))

end Sys2Proof.Machine

/-- BARINIT, BARADD and BARARR wait, a replay taking up the operation of its squashed firing; BARRIER_APPLY, once
every older instance has committed, gives the barrier its new count, the flag of R164, and sends the count,
but for an operation whose instance is squashed; every other barrier is unchanged. BARWAIT hands DATA and
STOPj on when the barrier has fired and otherwise waits, and BARWAIT_RELEASE hands it on once it has. With the
tags that the operand selects among those granted: FFR sends the lowest that is DONE, or 64, at once; WAITANY
does so once one is DONE, and sends 64 when none is selected; WAITALL sends the mask once all are DONE, and
both wait until then; a mark turns the report into CHAFF or FAULT; the clearing forms ask for the reported
tags to be cleared at commit; CCLR sends the selected tags that are BUSY and asks for the others to be
cleared. WAIT_SATISFIED ends a waiting WAITALL whose tags are all DONE, or a WAITANY of which one is, with the
report of R168; COMPLETION_TAG_TAKE makes a held engine command the next move once its tag is no longer busy,
and changes nothing before. Choices of the model in it: log 2 (which operation goes next), log 89 (what waits
is held whole), log 112 (a satisfied wait reports before its tag is taken again). (R163, R164, R165, R331,
R168, R169, R238, R167) -/
def Obligations.BarriersAndCompletionTags : Prop :=
  (BarrierRule .barinit (fun _ x => ⟨x, x == 0⟩) ∧
  BarrierRule .baradd (fun b x => ⟨b.count + x, b.fired || (x != 0 && b.count + x == 0)⟩) ∧
  BarrierRule .bararr (fun b _ => ⟨b.count - 1, b.fired || b.count == 1⟩) ∧
  (∀ (w : EWord) (s : State) (f : Firing) (t : Tok), s.sel = some f → Fires w.pm f → f.l = some t →
    (t.kind = .data ∨ ∃ j, t.kind = .stop j) →
    (((s.core f.core).barrier (barOf w)).fired = true →
      exec (.barwait w) s = .next (s.emits f w.t0 w.t1 t.kind t.val)) ∧
    (((s.core f.core).barrier (barOf w)).fired = false →
      exec (.barwait w) s = .next (s.addPend ⟨.barwait w, f, .wait, 0⟩))) ∧
  ∀ (w : EWord) (s : State) (c x k : Nat) (q : Pend) (t : Tok), PendAt s c x k q → q.i = .barwait w → q.st = .wait →
    q.f.l = some t → t.kind ≠ .fault → ((s.core c).barrier (barOf w)).fired = true →
    ∃ u : State, exec (.barwaitRelease c x k) s = .next u ∧ SameStore s u ∧
      (u.cx c x).pend = (s.cx c x).pend.eraseIdx k ∧ Received s u c (deliveries s q.f w.t0 w.t1 ⟨q.f.tag, t.kind, t.val⟩)) ∧
  ((∀ (w : EWord) (s : State) (f : Firing) (i : Inst), ReadyE s w f leftOnly → s.instOf f = some i →
    let all := s.selTags f
    let done := s.doneTags f
    let hit (n : Nat) := marked ((s.core f.core).ctag n).mark (.sc (BitVec.ofNat 64 n))
    (done = [] → exec (.ffr w) s = .next (s.emits f w.t0 w.t1 .data (.sc 64))) ∧
    (all = [] → exec (.waitany w) s = .next (s.emits f w.t0 w.t1 .data (.sc 64))) ∧
    (all ≠ [] → done = [] → exec (.waitany w) s = .next (s.addPend ⟨.waitany w, f, .wait, 0⟩)) ∧
    (done ≠ all → exec (.waitall w) s = .next (s.addPend ⟨.waitall w, f, .wait, 0⟩)) ∧
    (∀ (n : Nat) (rest : List Nat), done = n :: rest → NarrowTag s f.core n → (w.t0 ≠ .none ∨ w.t1 ≠ .none) →
      exec (.ffr w) s = .next (s.emits f w.t0 w.t1 (hit n).1 (hit n).2) ∧
      ∃ t : State, exec (.waitany w) s = .next t ∧ SameStore s t ∧
        Received s t f.core (deliveries s f w.t0 w.t1 ⟨f.tag, (hit n).1, (hit n).2⟩) ∧
        t.instOf f = some (Clears s f.core i (if bit w.mods 0 then [n] else []))) ∧
    (done = all → (∀ n ∈ all, NarrowTag s f.core n ∧ ((s.core f.core).ctag n).mark = .none) →
      ∃ t : State, exec (.waitall w) s = .next t ∧ SameStore s t ∧
        Received s t f.core (deliveries s f w.t0 w.t1
          ⟨f.tag, .data, .sc (f.lval.scalar &&& (s.cx f.core f.ctx).ctl.ctagmask)⟩) ∧
        t.instOf f = some (Clears s f.core i (if bit w.mods 0 then all else []))) ∧
    ∃ (t : State) (v : Word), exec (.cclr w) s = .next t ∧ SameStore s t ∧
      Received s t f.core (deliveries s f w.t0 w.t1 ⟨f.tag, .data, .sc v⟩) ∧
      (∀ n : Nat, n < 64 → v.getLsbD n = (decide (n ∈ all) && decide (((s.core f.core).ctag n).st = .busy))) ∧
      t.instOf f = some (Clears s f.core i (all.filter fun n => decide (((s.core f.core).ctag n).st ≠ .busy)))) ∧
  ((∀ (w : EWord) (s : State) (c x k : Nat) (q : Pend), PendAt s c x k q → q.st = .wait →
    (q.i = .waitall w → s.doneTags q.f = s.selTags q.f →
      (∀ n ∈ s.selTags q.f, NarrowTag s c n ∧ ((s.core c).ctag n).mark = .none) →
      ∃ t : State, exec (.waitSatisfied c x k) s = .next t ∧ SameStore s t ∧
        (t.cx c x).pend = (s.cx c x).pend.eraseIdx k ∧
        Received s t c (deliveries s q.f w.t0 w.t1
          ⟨q.f.tag, .data, .sc (q.f.lval.scalar &&& (s.cx c x).ctl.ctagmask)⟩)) ∧
    (q.i = .waitany w → ∀ (n : Nat) (rest : List Nat), s.doneTags q.f = n :: rest → NarrowTag s c n →
      ((s.core c).ctag n).mark = .none →
      ∃ t : State, exec (.waitSatisfied c x k) s = .next t ∧ SameStore s t ∧
        (t.cx c x).pend = (s.cx c x).pend.eraseIdx k ∧
        Received s t c (deliveries s q.f w.t0 w.t1 ⟨q.f.tag, .data, .sc (BitVec.ofNat 64 n)⟩))) ∧
  ∀ (w : EWord) (s : State) (c x k : Nat) (q : Pend), PendAt s c x k q → q.st = .held → q.i.form = .e w →
    exec (.completionTagTake c x k) s = .next (if s.takeTag q.f w.ctag.toNat = .busy then s
      else { s with agenda := .retry c x k :: s.agenda })))

/-- CPY, CPYFILL and CPYROT issue a command under their tag; STREAMER_ACCEPT sends the status of a bad descriptor
and ends the command, or sends 0, keeps the checked bytes and gives the command its order number;
STREAMER_COMPLETION of a running command begins its writes, which are to the checked bytes and no other, a
CPYFILL its value into every element and a CPY of one format the source element, as it has read it before or
reads it now, into each destination element when no byte appears twice; and once they are under way it
completes: at PKG or SYS every write has reached memory, at a narrower scope those that CACHE does not serve
have and the others are seen by the parties in the scope, and the tag is DONE. How writes under way stand in
the state is the model's (log 96). What memory reads as is said for memory in its canonical form. (R167, R237,
R238, R239, R240, R242, R243, R315, R326) -/
def Obligations.Streamer : Prop :=
  (StartsStream .cpy ∧ StartsStream .cpyfill ∧ StartsStream .cpyrot) ∧
  (∀ (s : State) (c n : Nat) (m : Cmd), s.nextSent c 33 = some n → s.cmd? c n = some m → PlainCmd s c m →
    ((s.core c).cmds.filter fun o => o.port == 33 && (o.st == .accepted || o.st == .started)).length < 20 →
    s.walkStalls c (accVas (accsOf m.i m.f)) = false →
    (descStatus m.i m.f ≠ 0 → ∃ t : State, exec (.streamerAccept c) s = .next t ∧ SameStore s t ∧
      CmdsAre t c ((s.core c).cmds.eraseIdx n) ∧ TagDone t c m ∧
      CmdSent s t c m .data (.sc (BitVec.ofNat 64 (descStatus m.i m.f)))) ∧
    let u := (s.ordered c m).fillTlb c (accVas (accsOf m.i m.f))
    ∀ pas : List Nat, descStatus m.i m.f = 0 → u.checkAccs c (accsOf m.i m.f) = .ok pas →
      ∃ t : State, exec (.streamerAccept c) s = .next t ∧ SameStore u t ∧
        CmdsAre t c ((s.core c).cmds.set n { m with
          st := .accepted, pas, frozen := false, ord := if m.ord = 0 then (s.core c).ordLast + 1 else m.ord }) ∧
        CmdSent s t c m .data (.sc 0)) ∧
  (∀ (s : State) (c k : Nat) (m : Cmd), s.cmd? c k = some m → m.port = 33 → m.st = .accepted →
    (s.core c).streamRuns k = true → s.linkDown c m.pas = false → s.bad = [] →
    ∃ (t : State) (l : List (Nat × Byte)), exec (.streamerCompletion c k) s = .next t ∧ SameStore s t ∧ Received s t c [] ∧
      CmdsAre t c ((s.core c).cmds.set k { m with st := .started, status := 0, j := 0, p := 0 }) ∧
      WritesBegin s t c m l ∧ (∀ x ∈ l, x.1 ∈ m.pas) ∧
      (∀ w : EWord, m.i = .cpyfill w → m.pas.Nodup → m.pas.length = ((accsOf m.i m.f).map fun a => a.wr.2).sum →
        ∀ e j : Nat, e < (accsOf m.i m.f).length → j < (fillElem m.f).length →
        lastWrite l (m.pas.getD (e * (fillElem m.f).length + j) 0) = some ((fillElem m.f).getD j 0)) ∧
      (∀ w : EWord, m.i = .cpy w → m.pas.Nodup → dfield m.f 36 1 = dfield m.f 37 1 →
        (∀ a ∈ accsOf m.i m.f, a.rd.isSome = true) →
        let n := fmtSize (dfield m.f 36 1)
        m.pas.length = 2 * n * (accsOf m.i m.f).length → ∀ e j : Nat, e < (accsOf m.i m.f).length → j < n →
          lastWrite l (m.pas.getD (2 * n * e + n + j) 0) = some (s.cmdByte c m (m.pas.getD (2 * n * e + j) 0)))) ∧
  ∀ (s : State) (c k : Nat) (m : Cmd), s.cmd? c k = some m → m.port = 33 → m.st = .started → m.status = 0 →
    MayEnd s c m → (s.core c).streamRuns k = true → s.linkDown c m.pas = false →
    ∃ t : State, exec (.streamerCompletion c k) s = .next t ∧ t.parts = s.parts ∧ Received s t c [] ∧
      CmdsAre t c ((s.core c).cmds.eraseIdx k) ∧ TagDone t c m ∧ WritesEnd s t c m

namespace Sys2Proof.Machine

/-- A matrix command is sent under its tag and enters the tile matching store while that has room (R167, R232). -/
def StartsMatrix (mk : EWord → Instr) : Prop :=
  ∀ (w : EWord) (s : State) (f : Firing), ReadyE s w f both → s.stallsTile (mk w) f = false →
    let scope := w.mods.toNat % 8
    let t := s.takeTag f w.ctag.toNat
    let u := if EWord.cev w then s.takeTag f (EWord.ctcNum w) else .noTag
    (t = .noTag ∨ t = .free) → (u = .noTag ∨ u = .free) →
    let s₁ := if t = .free then s.claimTag f w.ctag.toNat scope else s
    let s₂ := if u = .free then s₁.claimTag f (EWord.ctcNum w) scope else s₁
    exec (mk w) s = .next ((s₂.addCmd f.core { mkCmd (mk w) f 32 (if t = .free then some w.ctag.toNat else none) scope with
      ctc := if u = .free then some (EWord.ctcNum w) else none }).matEnter f.core)

/-- The result of an island goes to the targets of a word, and nothing else changes. -/
def State.answers (s : State) (f : Firing) (port : Nat) (w : EWord) (k : Kind) (v : Val) : State :=
  s.withTokens f.core (sentBy (srcIsland port) (deliveries s f w.t0 w.t1 ⟨f.tag, k, v⟩))

/-- Element `k` of row `r` of an operand tile (R226). -/
def tileElem (fmt : Nat) (bs : List Byte) (r k : Nat) : Machine.Num :=
  (((Fmt.ofNat? fmt).bind FF.ofFmt).getD .f32).decode (bytesNat bs (512 * r + fmtSize fmt * k) (fmtSize fmt))

/-- The exponent of the scales of K-group `g`, none for a NaN scale (R191, R234). -/
def groupExp (scale : Option Tok) (g : Nat) : Option Int :=
  match scale with
  | none => some 0
  | some t =>
    let byte (k : Nat) : Nat := t.val.wide / 2 ^ (8 * k) % 256
    if byte g = 255 ∨ byte (16 + g) = 255 then none else some ((byte g : Int) - 127 + ((byte (16 + g) : Int) - 127))

/-- `sum` is the sum S of a group of scaled products (R191, R195). -/
def IsGroupSum (e : Option Int) (ps : List (Machine.Num × Machine.Num)) (sum : Machine.Num) : Prop :=
  let wrong := e = none ∨ ∃ p ∈ ps, exactMul p.1 p.2 = none
  let hasInf (n : Bool) := ∃ p ∈ ps, exactMul p.1 p.2 = some (.inf n)
  (wrong ∨ (hasInf false ∧ hasInf true) → sum.isNan = true) ∧
  (∀ n : Bool, ¬ wrong → hasInf n → ¬ hasInf (!n) → sum = .inf n) ∧
  ∀ k : Int, e = some k → ¬ wrong → ¬ hasInf false → ¬ hasInf true →
    sum.isFin = true ∧ sum.rat = (ps.map fun p => p.1.rat * p.2.rat).sum * (2 : ℚ) ^ k ∧
    (sum.rat = 0 → (sum.isNeg = true ↔ ∀ p ∈ ps, p.1.isNeg ≠ p.2.isNeg))

/-- The 32 products of K-group `g` of one accumulator element. -/
def groupPairs (w : EWord) (a b : List Byte) (r j g : Nat) : List (Machine.Num × Machine.Num) :=
  (List.range 32).map fun i => (tileElem (EWord.afmt w) a r (32 * g + i), tileElem (EWord.bfmt w) b j (32 * g + i))

/-- What the return of a gather request sends. -/
def gathSends (s : State) (m : Cmd) : List Flight :=
  match m.i with
  | .gath w => sentBy (srcIsland m.port)
      (sendsTo s m.f w.t0 0 ⟨m.f.tag, .data, loadValue (gathType w) (gathFmt w) 0x3F800000 m.a⟩ ++
        sendsTo s m.f w.t1 1 ⟨m.f.tag, .data, .sc (BitVec.ofNat 64 m.gseq)⟩)
  | _ => []

/-- The context has given out the next sequence number of a gather unit. -/
def GseqStepped (s t : State) (f : Firing) (port : Nat) : Prop :=
  let l := (s.cx f.core f.ctx).gseq
  (t.cx f.core f.ctx).gseq = l.set (port - 34) ((l.getD (port - 34) 0 + 1) % 2 ^ 32)

/-- A network command without a tag (R267): one whose status is not 0 sends it and ends. One whose status is 0 sends 0 and is
accepted; when the checks of its buffer and of its completion word pass it holds their bytes, and an RDMA READ sends its
request; when one fails it is to end with status 2 (R268). `pas` and `word` are what the two checks answer. -/
def StartsNet (mk : EWord → Instr) (send : Bool) : Prop :=
  ∀ (w : EWord) (s : State) (f : Firing), ReadyE s w f leftOnly → s.netTakes f = true →
    s.stallsTile (mk w) f = false → s.walkStalls f.core (ntVas f) = false →
    s.takeTag f w.ctag.toNat = .noTag → (scopeLow w < 2 ∨ NoDirty s f.core) →
    let sent (n : Nat) := sentBy (srcIsland 40) (deliveries s f w.t0 w.t1 ⟨f.tag, .data, .sc (BitVec.ofNat 64 n)⟩)
    let u := s.fillTlb f.core (ntVas f)
    let buf := u.check f.core (if send && ntOp f != 2 then .island else .store) (ntAddr f) (ntLen f) 1
    let word : Except AccErr (List Nat) := if ntWord f = 0 then .ok [] else u.check f.core .store (ntWord f) 8 8
    (ntStatus s send f ≠ 0 → ∃ t : State, exec (mk w) s = .next t ∧ SameStore s t ∧
      CmdsAre t f.core (s.core f.core).cmds ∧ Received s t f.core (sent (ntStatus s send f))) ∧
    (ntStatus s send f = 0 → f.core < s.cores.length → ∃ (t : State) (m : Cmd), exec (mk w) s = .next t ∧
      t.mem = u.mem ∧ CmdsAre t f.core ((s.core f.core).cmds ++ [m]) ∧ m.i = mk w ∧ m.f = f ∧ m.st = .accepted ∧
      Received s t f.core (sent 0) ∧
      (∀ pas ws : List Nat, buf = .ok pas → word = .ok ws → t.parts = u.parts ∧ m.status = 0 ∧ m.pas = pas ∧
        m.q = ((ws.head?).map (· + 1)).getD 0 ∧
        t.netTx = s.netTx ++ (if send && ntOp f == 2
          then [⟨ntQp f, 2, BitVec.ofNat 64 (ntRemote f), ntKey f, natBytes 4 (ntLen f)⟩] else [])) ∧
      ((buf.isOk = false ∨ word.isOk = false) → m.status = 2 ∧ t.netTx = s.netTx))

/-- The completion word of a network command, as writes (R268): the count of bytes, then the status. -/
def wordWrites (m : Cmd) (count status : Nat) : List (Nat × Byte) :=
  List.zip m.wordPas (natBytes 8 (count % 2 ^ 32 + status * 2 ^ 32))

/-- A command of the network port has ended with a status (R265, R268): its tag is DONE, and with a status other than 0 it has
an engine record that holds the status and marks the tag. -/
def NetDone (t : State) (c : Nat) (m : Cmd) (status : Nat) : Prop :=
  (status = 0 → TagDone t c m) ∧
  (status ≠ 0 → ∃ (num : Nat) (r : FRec), t.record c m.f.ctx num = some r ∧ r.kind = 13 ∧ r.node = 40 ∧
    r.detail = BitVec.ofNat 64 status ∧
    ∀ n : Nat, n < 64 → m.ctag = some n → ((t.core c).ctag n).st = .done ∧ ((t.core c).ctag n).mark = .fault num)

/-- A port may take commands of a firing's context: its node is not frozen and the replay buffer has room. -/
def NodeTakes (s : State) (f : Firing) (port : Nat) : Prop :=
  s.isFrozen f.core port f.ctx = false ∧ s.portFull f.core (portOf f.elem) = false

/-- The PAD bytes of the bitmap of an accumulator (R261). -/
def bitmapBytes (c : Nat) (w : EWord) : List Nat :=
  (List.range (spWidth w / 8)).map fun j => padAddr c (64 * spLine w + j)

/-- The byte at an address once the dirty bytes of a core's CACHE are written back. -/
def State.flushed (s : State) (c a : Nat) : Byte :=
  match (s.core c).findLine (a / 64) with
  | some l => if bit l.dirty (a % 64) then l.bytes.getD (a % 64) 0 else Memory.get s.mem a
  | none => Memory.get s.mem a

/-- What a POOLMOVE of `n` lines from `a` to `d`, or one that drops them, writes at PAD byte `j`: the byte that it reads, the
zeros that it leaves, or nothing (R222). -/
def moveByte (s : State) (c : Nat) (m : Cmd) (drop : Bool) (j : Nat) : Option Byte :=
  let a := bits m.f.lval.scalar 23 0
  let d := bits m.f.lval.scalar 47 24
  let n := m.f.rval.scalar.toNat
  if drop = false ∧ 64 * d ≤ j ∧ j < 64 * (d + n) then some (s.cmdByte c m (padAddr c (64 * a + (j - 64 * d))))
  else if 64 * a ≤ j ∧ j < 64 * (a + n) then some 0 else none

end Sys2Proof.Machine

/-- POOLCUT waits; POOLCUT_APPLY of the oldest instance answers 5 for counts that do not sum to 96, 4 for counts
outside the limits, 6 under the pool lock and 7 for a second cut with the refuse bit, with the split
unchanged, and else makes the cut pending; POOL_TRANSITION answers 0 at once for the split in force; while
TILE references exist and TILE changes it answers 2, or with WAIT leaves the cut pending and holds new
references back; it answers 1 when FRAME data would not fit and 3 when marked PAD data would not under RELOC;
and else it puts the new split in force with code 0 and leaves no CACHE line: FRAME data keeps its contents, a
PAD or TILE that changes keeps them under RELOC as far as R219 says and else reads zero, one that does not
change keeps them, and outside the window of the core memory changes only by the dirty bytes that FLUSH writes
back. What memory reads as is said for memory in its canonical form. POOLMOVE sends 1 when its lines are out
of range and ends, and else sends 0; POOLMOVE_COMPLETION begins to write into every PAD byte of the
destination lines what it has read or reads now of the source, and 0 into every other byte of the source
lines, and into no other byte, and, once the writes are under way, makes them and sets the tag DONE (how
writes under way stand in the state is the model's, log 96); POOLQRY sends the counter of its selector, or all
fifteen as lanes of a vector, and with its clearing bit sets the CACHE high-water mark to the present use.
What memory reads as is said for memory in its canonical form. (R216, R217, R218, R219, R220, R222, R225,
R238, R243, R326) -/
def Obligations.PoolOperations : Prop :=
  ((∀ (w : EWord) (s : State) (f : Firing), ReadyE s w f leftOnly → s.keptOf f = none →
    exec (.poolcut w) s = .next (s.addPend ⟨.poolcut w, f, .perform, 0⟩)) ∧
  (∀ (w : EWord) (s : State) (c x k : Nat) (q : Pend), PendAt s c x k q → q.i = .poolcut w → q.st = .perform →
    s.oldest q.f = true →
    let p := cutOf q.f
    let code := if p.frame + p.pad + p.tile + p.cache ≠ 96 then 5 else if p.limitsOk = false then 4
      else if s.poolLock c = true then 6 else if (s.core c).cuts ≠ [] ∧ bit w.mods 3 = true then 7 else 0
    (code ≠ 0 → ∃ t : State, exec (.poolcutApply c x k) s = .next t ∧ SameStore s t ∧
      (t.core c).poolLast = code ∧ (t.core c).split = (s.core c).split ∧
      Received s t c (deliveries s q.f w.t0 w.t1 ⟨q.f.tag, .data, cutResult (s.core c).split code⟩)) ∧
    (code = 0 → ∃ t : State, exec (.poolcutApply c x k) s = .next t ∧ SameStore s t ∧ Received s t c [] ∧
      ∃ p' : Pend, p'.i = q.i ∧ p'.f = q.f ∧ p'.st = .cut ∧ (t.cx c x).pend = (s.cx c x).pend.eraseIdx k ++ [p'])) ∧
  ∀ (w : EWord) (s : State) (c x j : Nat) (q : Pend) (rest : List (Nat × Nat × Pend)),
    (s.core c).cuts = (x, j, q) :: rest → q.i = .poolcut w → q.f.core = c → q.f.ctx = x →
    let old := (s.core c).split
    let new := cutOf q.f
    (new = old → ∃ t : State, exec (.poolTransition c) s = .next t ∧ SameStore s t ∧ (t.core c).split = old ∧
      Received s t c (deliveries s q.f w.t0 w.t1 ⟨q.f.tag, .data, cutResult old 0⟩)) ∧
    let moved := (old.frame, old.pad) ≠ (new.frame, new.pad)
    let busy := (moved ∨ old.tile ≠ new.tile) ∧ s.tileRefs c = true
    (new ≠ old → busy → (bit w.mods 2 = false → ∃ t : State, exec (.poolTransition c) s = .next t ∧ SameStore s t ∧
        (t.core c).split = old ∧ Received s t c (deliveries s q.f w.t0 w.t1 ⟨q.f.tag, .data, cutResult old 2⟩)) ∧
      (bit w.mods 2 = true → ∃ t : State, exec (.poolTransition c) s = .next t ∧ SameStore s t ∧ Received s t c [] ∧
        (t.core c).split = old ∧ (t.core c).cuts = (s.core c).cuts ∧ (t.core c).cutting.isSome = true)) ∧
    (new ≠ old → ¬ busy →
      (new.frame * 0x40000 < (s.core c).frameExtent → ∃ t : State, exec (.poolTransition c) s = .next t ∧ SameStore s t ∧
        (t.core c).split = old ∧
        Received s t c (deliveries s q.f w.t0 w.t1 ⟨q.f.tag, .data, cutResult old 1⟩)) ∧
      ((s.core c).frameExtent ≤ new.frame * 0x40000 → bit w.mods 1 = true → new.pad * 0x40000 < (s.core c).padHigh →
        ∃ t : State, exec (.poolTransition c) s = .next t ∧ SameStore s t ∧ (t.core c).split = old ∧
          Received s t c (deliveries s q.f w.t0 w.t1 ⟨q.f.tag, .data, cutResult old 3⟩)) ∧
      ((s.core c).frameExtent ≤ new.frame * 0x40000 → (bit w.mods 1 = true → (s.core c).padHigh ≤ new.pad * 0x40000) →
        s.memOk → (∀ k ∈ s.cores, k.cmds = []) → new.frame ≤ 32 → new.pad ≤ 64 → new.tile ≤ 88 →
        ((s.core c).cache.map fun l => l.line).Nodup → (∀ l ∈ (s.core c).cache, cacheable (64 * l.line) = true) →
        ∃ t : State, exec (.poolTransition c) s = .next t ∧ t.parts = s.parts ∧ (t.core c).split = new ∧
          (t.core c).cache = [] ∧
          Received s t c (deliveries s q.f w.t0 w.t1 ⟨q.f.tag, .data, cutResult new 0⟩) ∧
          (∀ a : Nat, (a < windowBase c ∨ windowBase (c + 1) ≤ a) →
            Memory.get t.mem a = if bit w.mods 0 then s.flushed c a else Memory.get s.mem a) ∧
          (∀ a : Nat, a < (s.core c).frameExtent →
            Memory.get t.mem (frameAddr c a) = Memory.get s.mem (frameAddr c a)) ∧
          (∀ a : Nat, a < new.pad * 0x40000 → Memory.get t.mem (padAddr c a) =
            if ¬ moved ∨ (bit w.mods 1 = true ∧ a < (s.core c).padHigh) then Memory.get s.mem (padAddr c a) else 0) ∧
          ∀ a : Nat, a < new.tile * 0x40000 → Memory.get t.mem (tileAddr c a) =
            if ¬ (moved ∨ old.tile ≠ new.tile) ∨ (bit w.mods 1 = true ∧ a < old.tile * 0x40000)
            then Memory.get s.mem (tileAddr c a) else 0))) ∧
  ((∀ (w : EWord) (s : State) (f : Firing), ReadyE s w f both → s.takeTag f w.ctag.toNat = .noTag →
    let a := bits f.lval.scalar 23 0
    let d := bits f.lval.scalar 47 24
    let n := f.rval.scalar.toNat
    let bad := n ≠ 0 ∧ ((s.core f.core).split.pad * 4096 < a + n ∨
      bit w.mods 0 = false ∧ (s.core f.core).split.pad * 4096 < d + n)
    (bad → exec (.poolmove w) s = .next (s.answers f 63 w .data (.sc 1))) ∧
    (¬ bad → f.core < s.cores.length → ∃ (t : State) (m : Cmd), exec (.poolmove w) s = .next t ∧ SameStore s t ∧
      CmdsAre t f.core ((s.core f.core).cmds ++ [m]) ∧ m.i = .poolmove w ∧ m.f = f ∧ m.st = .accepted ∧ m.got = [] ∧
      m.scope = 1 ∧ m.ord = (s.core f.core).ordLast + 1 ∧
      Received s t f.core (sentBy (srcIsland 63) (deliveries s f w.t0 w.t1 ⟨f.tag, .data, .sc 0⟩)))) ∧
  (∀ (w : EWord) (s : State) (c k : Nat) (m : Cmd), s.cmd? c k = some m → m.i = .poolmove w → m.f.core = c →
    (m.st = .accepted → ∃ (t : State) (l : List (Nat × Byte)), exec (.poolmoveCompletion c k) s = .next t ∧
      SameStore s t ∧ Received s t c [] ∧ CmdsAre t c ((s.core c).cmds.set k { m with st := .started }) ∧
      WritesBegin s t c m l ∧ (∀ x ∈ l, ∃ j : Nat, x.1 = padAddr c j) ∧
      ∀ j : Nat, lastWrite l (padAddr c j) = moveByte s c m (bit w.mods 0) j) ∧
    (m.st = .started → m.scope = 1 → PlainCmd s c m → MayEnd s c m →
      ∃ t : State, exec (.poolmoveCompletion c k) s = .next t ∧ t.parts = s.parts ∧ Received s t c [] ∧
        CmdsAre t c ((s.core c).cmds.eraseIdx k) ∧ TagDone t c m ∧ WritesEnd s t c m)) ∧
  ∀ (w : EWord) (s : State) (f : Firing), ReadyE s w f leftOnly → f.core < s.cores.length →
    let k := s.core f.core
    let n := w.mods.toNat % 32
    ∃ (t : State) (v : Val), exec (.poolqry w) s = .next t ∧ SameStore s t ∧
      Received s t f.core (deliveries s f w.t0 w.t1 ⟨f.tag, .data, v⟩) ∧
      let counters : List Nat := [k.split.frame, k.split.pad, k.split.tile, k.split.cache, k.frameLive,
        64 * k.padMarks.length, 64 * k.tileMarks.length, 64 * k.cache.length, k.frameExtent, k.padHigh, k.tileHigh,
        k.cacheHw, if k.cuts = [] then 0 else 1, if s.poolLock f.core then 1 else 0, k.poolLast]
      (n < 15 → v = .sc (BitVec.ofNat 64 (counters.getD n 0))) ∧
      (n = 31 → ∀ i : Nat, i < 16 → v.lane 32 i = counters.getD i 0 % 2 ^ 32) ∧
      (t.core f.core).cacheHw = if bit w.mods 5 then 64 * k.cache.length else k.cacheHw)

/-- MMA, MMAS and ATTSC issue a command that enters the tile matching store; MATRIX_COMMAND_START starts one that
may start and whose tiles fit; CONSUMED_EVENT reads the two operand tiles; MATRIX_COMPLETION begins to write
the tile of sums over the C tile, where C overlaps neither operand, and, once the writes are under way, makes
them as the scope asks, sends 0 and sets the tag DONE; every element of the tile of sums is the old
accumulator, or +0, to which the rounded exact sums of its groups of 32 scaled products are added in turn (how
writes under way stand in the state is the model's, log 96; an overlapping C is log 16); SCLD hands its token
on and sends a scale token, which SCALE_TOKEN_ARRIVAL enters into the store. What memory reads as is said for
memory in its canonical form. Choices of the model in it: log 16 (an accumulator tile over an operand tile).
(R191, R194, R195, R226, R228, R230, R231, R232, R234, R235, R236, R238) -/
def Obligations.Matrix : Prop :=
  (StartsMatrix .mma ∧ StartsMatrix .mmas ∧ StartsMatrix .attsc) ∧
  (∀ (s : State) (c k : Nat) (m : Cmd), s.cmd? c k = some m → m.port = 32 → isMat m.i = true →
    (s.core c).matMayStart m = true → (∀ t : Tok, m.scale = some t → t.kind = .data) →
    (s.tileFits c (aLine m.f) && s.tileFits c (bLine m.f) && s.tileFits c (cLine m.f)) = true →
    exec (.matrixCommandStart c k) s =
      .next (((s.setCmd c k { m with st := .started }).markLines (tileLines c (cLine m.f))).matLeft c m)) ∧
  (∀ (s : State) (c k : Nat) (m : Cmd), s.cmd? c k = some m → m.port = 32 → m.st = .started →
    exec (.consumedEvent c k) s = .next ((s.setCmd c k { m with
      st := .consumed, a := Memory.read s.mem (tileAddr c (64 * aLine m.f)) 65536,
      b := Memory.read s.mem (tileAddr c (64 * bLine m.f)) 65536 }).consumedTags c)) ∧
  (∀ (w : EWord) (s : State) (c k : Nat) (m : Cmd), s.cmd? c k = some m → m.port = 32 → m.i.form = .e w →
    (m.st = .consumed → tilesOverlap (aLine m.f) (cLine m.f) = false → tilesOverlap (bLine m.f) (cLine m.f) = false →
      ∃ t : State, exec (.matrixCompletion c k) s = .next t ∧ SameStore s t ∧ Received s t c [] ∧
        CmdsAre t c ((s.core c).cmds.set k { m with st := .issued }) ∧
        let base := tileAddr c (64 * cLine m.f)
        WritesBegin s t c m ((matTile w m.scale m.a m.b (Memory.read s.mem base 65536)).mapIdx fun j b => (base + j, b))) ∧
    (m.st = .issued → PlainCmd s c m → MayEnd s c m → (∀ o ∈ (s.core c).cmds, o.ctc = none) →
      ∃ t : State, exec (.matrixCompletion c k) s = .next t ∧ t.parts = s.parts ∧ TagDone t c m ∧
        CmdSent s t c m .data (.sc 0) ∧ WritesEnd s t c m)) ∧
  (∀ (w : EWord) (scale : Option Tok) (a b c : List Byte) (r j : Nat), a.length = 65536 → b.length = 65536 →
    c.length = 65536 → r < 128 → j < 128 → (fmtSize (EWord.afmt w) = 1 ∨ fmtSize (EWord.afmt w) = 2) →
    fmtSize (EWord.bfmt w) = fmtSize (EWord.afmt w) → ∃ sum : Nat → Machine.Num,
      (∀ g : Nat, g < 16 / fmtSize (EWord.afmt w) → IsGroupSum (groupExp scale g) (groupPairs w a b r j g) (sum g)) ∧
      bytesNat (matTile w scale a b c) (512 * r + 4 * j) 4 =
        (List.range (16 / fmtSize (EWord.afmt w))).foldl (fun acc g => f32add acc (match sum g with
          | .nan _ _ => 0x7FC00000
          | x => roundNum .f32 .rne false x)) (if EWord.zAcc w then 0 else bytesNat c (512 * r + 4 * j) 4)) ∧
  (∀ (w : EWord) (s : State) (f : Firing) (t : Tok), s.sel = some f → Fires w.pm f → f.l = some t → t.kind ≠ .fault →
    s.stallsTile (.scld w) f = false → s.takeTag f w.ctag.toNat = .noTag → f.core < s.cores.length →
    ∃ (u : State) (v : Tok) (m : Cmd), exec (.scld w) s = .next u ∧ SameStore s u ∧
      Received s u f.core (sentBy (srcIsland 32) (deliveries s f w.t0 w.t1 ⟨f.tag, t.kind, t.val⟩)) ∧
      (u.core f.core).scaleFlights = (s.core f.core).scaleFlights ++ [(v, m)] ∧ v.tag = f.tag ∧
      (t.kind = .chaff → v.kind = .chaff) ∧ (t.kind = .null → v.kind = .null) ∧
      (t.kind = .data → v.kind = .data ∧ (bit w.mods 3 = true → v.val = .vec (BitVec.ofNat 512 t.val.wide)))) ∧
  ∀ (s : State) (c k : Nat) (t : Tok) (m : Cmd), (s.core c).scaleFlights[k]? = some (t, m) → (s.core c).matUsed < 32 →
    (s.cx c m.f.ctx).rateOk = true → (∀ o ∈ (s.core c).scaleFlights.take k, o.2.f.elem ≠ m.f.elem) →
    (s.core c).cmds = [] → m.scope < 2 → ∃ u : State, exec (.scaleTokenArrival c k) s = .next u ∧ SameStore s u ∧
      (u.core c).scaleFlights = (s.core c).scaleFlights.eraseIdx k ∧
      ∃ n : Nat, (u.core c).scales = (s.core c).scales ++ [(n, t)]

/-- GATH, with a check that passes, becomes an open request with the next sequence number of its unit;
GATHER_ENTRY_ISSUE of an entry that has been open for 256 cycles reads the bytes of every open request of its
row block; GATHER_RETURN of the entry issued first sends for each of its requests, in turn, the converted
value to T0 and the sequence number to T1, sets the tags DONE and ends the requests. One whose check fails
takes its number all the same and sends a FAULT that names a record with it, its tag left free, or CHAFF, its
tag DONE with that mark, or freezes its unit, which holds it, by the stall mode. That its tag is left free
under TRAP is the model's reading (log 48), and that T1 gets the CHAFF or FAULT too is its choice (log 110).
(R141, R238, R252, R255, R256, R257) -/
def Obligations.GatherUnits : Prop :=
  (∀ (w : EWord) (s : State) (f : Firing) (pas : List Nat), ReadyE s w f leftOnly → NodeTakes s f w.port.toNat →
    s.stallsTile (.gath w) f = false →
    s.takeTag f w.ctag.toNat = .noTag → ((s.core f.core).gathOpen w.port.toNat).length < 64 →
    let n := spanBytes (gathType w) (gathFmt w)
    let vas := vasIf f.lval.scalar.toNat (fmtBytes (gathFmt w)) n
    let u := s.fillTlb f.core vas
    s.walkStalls f.core vas = false → u.check f.core .island f.lval.scalar.toNat n (fmtBytes (gathFmt w)) = .ok pas →
    f.core < s.cores.length → ∃ (t : State) (m : Cmd), exec (.gath w) s = .next t ∧ SameStore u t ∧
      Received s t f.core [] ∧ CmdsAre t f.core ((s.core f.core).cmds ++ [m]) ∧ m.i = .gath w ∧ m.f = f ∧
      m.st = .accepted ∧ m.pas = pas ∧ m.gseq = (s.cx f.core f.ctx).gseq.getD (w.port.toNat - 34) 0) ∧
  (∀ (w : EWord) (s : State) (c k : Nat) (m : Cmd), s.cmd? c k = some m → m.i = .gath w → m.st = .accepted →
    s.linkDown c m.pas = false → m.opened + 256 ≤ (s.core c).cycle.toNat →
    (∀ o ∈ (s.core c).cmds, o.frozen = false ∧ o.st ≠ .sent ∧ ∀ pa ∈ o.pas, s.badIsland c pa = false) → ∃ t : State,
      exec (.gatherEntryIssue c k) s = .next t ∧ SameStore s t ∧ Received s t c [] ∧
      ∀ n : Nat, (t.cmd? c n).map (fun o => (o.st, o.a)) = (s.cmd? c n).map fun o =>
        if o.port = m.port ∧ o.st = .accepted ∧ o.pas.headD 0 / 1024 = m.pas.headD 0 / 1024
        then (.issued, s.readPas c o.pas) else (o.st, o.a)) ∧
  (∀ (s : State) (c k : Nat) (m : Cmd), s.cmd? c k = some m → m.st = .issued →
    (∀ o ∈ (s.core c).cmds, o.port = m.port → o.st = .issued → m.ord ≤ o.ord) →
    let entry (o : Cmd) : Bool := o.port == m.port && o.st == .issued && o.ord == m.ord
    let out := (s.core c).cmds.filter entry
    (∀ o ∈ out, PlainCmd s c o ∧ ∃ w : EWord, o.i = .gath w) →
    ∃ t : State, exec (.gatherReturn c k) s = .next t ∧ SameStore s t ∧ (∀ o ∈ out, TagDone t c o) ∧
      CmdsAre t c ((s.core c).cmds.filter fun o => !entry o) ∧ Received s t c (out.flatMap (gathSends s))) ∧
  ∀ (w : EWord) (s : State) (f : Firing) (e : AccErr), ReadyE s w f leftOnly → NodeTakes s f w.port.toNat →
    s.stallsTile (.gath w) f = false → f.core < s.cores.length → f.elem < 64 → f.ctx < 8 →
    f.ctx < (s.core f.core).cxs.length → (s.core f.core).ctags.length = 64 →
    let t? := s.takeTag f w.ctag.toNat
    t? = .noTag ∨ t? = .free →
    let n := spanBytes (gathType w) (gathFmt w)
    let vas := vasIf f.lval.scalar.toNat (fmtBytes (gathFmt w)) n
    let u := s.fillTlb f.core vas
    s.walkStalls f.core vas = false → u.check f.core .island f.lval.scalar.toNat n (fmtBytes (gathFmt w)) = .error e →
    let port := w.port.toNat
    let mode := (s.cx f.core f.ctx).ctl.smode
    ((mode = 0 ∨ mode = 1 ∧ e.code ≠ 4) → ∃ (t : State) (n : Nat) (r : FRec), exec (.gath w) s = .next t ∧
      Received s t f.core (sentBy (srcIsland port) (deliveries s f w.t0 w.t1 ⟨f.tag, .fault, faultVal n⟩)) ∧
      t.record f.core f.ctx n = some r ∧ r.kind = e.code ∧ r.node = port ∧
      r.sseq = (s.cx f.core f.ctx).gseq.getD (port - 34) 0 ∧ GseqStepped s t f port ∧
      (t.core f.core).ctags = (s.core f.core).ctags ∧ (t.core f.core).cmds = (s.core f.core).cmds ∧ t.mem = u.mem) ∧
    (mode = 1 → e.code = 4 → ∃ t : State, exec (.gath w) s = .next t ∧ t.mem = u.mem ∧
      Received s t f.core (sentBy (srcIsland port) (deliveries s f w.t0 w.t1 ⟨f.tag, .chaff, .sc 0⟩)) ∧
      GseqStepped s t f port ∧ (t.core f.core).cmds = (s.core f.core).cmds ∧
      (t? = .free → ((t.core f.core).ctag w.ctag.toNat).st = .done ∧ ((t.core f.core).ctag w.ctag.toNat).mark = .chaff)) ∧
    (mode = 2 → ∃ (t : State) (m : Cmd), exec (.gath w) s = .next t ∧ Received s t f.core [] ∧ t.mem = u.mem ∧
      t.isFrozen f.core port f.ctx = true ∧ GseqStepped s t f port ∧
      CmdsAre t f.core ((s.core f.core).cmds ++ [m]) ∧ m.i = .gath w ∧ m.f = f ∧ m.frozen = true ∧ m.st = .sent ∧
      m.gseq = (s.cx f.core f.ctx).gseq.getD (port - 34) 0)

/-- INTSECT without a tag sends the status of a bad descriptor and ends, or sends 0 and becomes a command of its
unit; INTSECT_STREAM_SEND of the first command of its unit, while the channel has room, sends DATA of a match
where the walk stands, with the two values, the coordinate and the fibre, STOP0 after the last match of a
fibre and STOP1 with the fibre count at the end, where the command completes. SPACC waits; SPACC_APPLY, once
every older instance has committed, sends NULL for a coordinate beyond the width, and else stores the operand,
or its FP32 sum with the value there when the bit of the coordinate is set, sets that bit, and sends the new
value, changing no other byte; SPFLUSH issues a command, and SPFLUSH_COMPLETION with checks that pass begins
to write each set coordinate and its value, rounded to the format, at the next places of the two arrays, and
clears the bitmap; once the writes are under way it makes them as its scope asks and sends the number of
coordinates; that they are under way meanwhile is the model's (log 96). What memory reads as is said for
memory in its canonical form. (R258, R259, R261, R262, R315, R326, R331) -/
def Obligations.SparseUnits : Prop :=
  ((∀ (w : EWord) (s : State) (f : Firing), ReadyE s w f leftOnly → s.isFrozen f.core w.port.toNat f.ctx = false →
    s.stallsTile (.intsect w) f = false → s.takeTag f w.ctag.toNat = .noTag → scopeLow w < 2 →
    (isStatus f ≠ 0 → exec (.intsect w) s =
      .next (s.answers f w.port.toNat w .data (.sc (BitVec.ofNat 64 (isStatus f))))) ∧
    (isStatus f = 0 → exec (.intsect w) s = .next ((s.answers f w.port.toNat w .data (.sc 0)).addAccepted f.core
      (mkCmd (.intsect w) f w.port.toNat none (scopeLow w))))) ∧
  ∀ (w : EWord) (s : State) (c k : Nat) (m : Cmd), s.cmd? c k = some m → m.i = .intsect w → m.frozen = false →
    (∀ (n : Nat) (o : Cmd), n < k → s.cmd? c n = some o → o.port = m.port → ∀ v : EWord, o.i ≠ .intsect v) →
    s.behindFrozen c k m = false → m.status < 2 → s.chanRoom c m.f.ctx (EWord.chanNum w) ≠ 0 → s.portFull c (portOf m.f.elem) = false → m.st = .started →
    let send (kd : Kind) (l : List Nat) := s.chanSend c m.f.ctx (EWord.chanNum w) kd (.vec (vecOf 32 l))
    (isNb m.f ≤ m.j → exec (.intsectStreamSend c k) s =
      .next (((send (.stop 1) [0, 0, 0, isNb m.f]).dropCmd c k).complete c m (if m.status = 1 then .chaff else .none))) ∧
    (m.j < isNb m.f → m.opened ≠ 0 →
      let es := fmtSize (isVfmt m.f)
      let na := m.a.length / (4 + es)
      let nb := m.b.length / (4 + es)
      let ac (n : Nat) := bytesNat m.a (4 * n) 4
      let bc (n : Nat) := bytesNat m.b (4 * n) 4
      let val (bs : List Byte) (len n : Nat) := roundNum .f32 .rne false
        ((((Fmt.ofNat? (isVfmt m.f)).bind FF.ofFmt).getD .f32).decode (bytesNat bs (4 * len + es * n) es))
      (m.p < na → m.q < nb → ac m.p = bc m.q → exec (.intsectStreamSend c k) s =
        .next ((send .data [val m.a na m.p, val m.b nb m.q, ac m.p, m.j]).setCmd c k
          { m with p := m.p + 1, q := m.q + 1, m := m.m + 1 })) ∧
      ((∀ p q : Nat, m.p ≤ p → m.q ≤ q → p < na → q < nb → ac p ≠ bc q) → 0 < m.m →
      exec (.intsectStreamSend c k) s =
        .next ((send (.stop 0) [0, 0, 0, m.j]).setCmd c k { m with j := m.j + 1, opened := 0, m := 0 })))) ∧
  ((∀ (w : EWord) (s : State) (f : Firing), ReadyE s w f both → s.isFrozen f.core w.port.toNat f.ctx = false →
    s.keptOf f = none → s.adopt (.spacc w) f = none →
    (s.takeTag f w.ctag.toNat = .noTag → exec (.spacc w) s = .next (s.addPend ⟨.spacc w, f, .perform, 0⟩)) ∧
    (s.takeTag f w.ctag.toNat = .free → exec (.spacc w) s =
      .next ((s.claimTag f w.ctag.toNat 1).addPend ⟨.spacc w, f, .perform, 0⟩))) ∧
  (∀ (w : EWord) (s : State) (c x k : Nat) (q : Pend), PendAt s c x k q → q.i = .spacc w → q.st = .perform →
    s.due q = true → NodeTakes s q.f w.port.toNat → (s.core c).split.pad ≤ 64 →
    let out (k : Kind) (v : Val) := if q.sseq = 1 then [] else
      sentBy (srcIsland w.port.toNat) (deliveries s q.f w.t0 w.t1 ⟨q.f.tag, k, v⟩)
    let x' := q.f.lval.scalar.toNat % 2 ^ 32
    let j := q.f.rval.scalar.toNat
    (spWidth w ≤ j → ∃ t : State, exec (.spaccApply c x k) s = .next t ∧ SameStore s t ∧
      Received s t c (out .null (.sc 0))) ∧
    (j < spWidth w → s.spCheck c w = none → s.memOk →
      let old := (Memory.get s.mem (padAddr c (spBit w j))).getLsbD (j % 8)
      let y := if old then f32add (bytesToNat (Memory.read s.mem (padAddr c (spVal w j)) 4)) x' else x'
      ∃ t : State, exec (.spaccApply c x k) s = .next t ∧
        Received s t c (out .data (.sc (BitVec.ofNat 64 y))) ∧
        bytesToNat (Memory.read t.mem (padAddr c (spVal w j)) 4) = y % 2 ^ 32 ∧
        Memory.get t.mem (padAddr c (spBit w j)) =
          Memory.get s.mem (padAddr c (spBit w j)) ||| BitVec.ofNat 8 (2 ^ (j % 8)) ∧
        MemOutside s t (padAddr c (spBit w j) :: (List.range 4).map fun n => padAddr c (spVal w j + n)))) ∧
  (∀ (w : EWord) (s : State) (f : Firing), ReadyE s w f both → s.isFrozen f.core w.port.toNat f.ctx = false →
    s.stallsTile (.spflush w) f = false → s.takeTag f w.ctag.toNat = .noTag →
    exec (.spflush w) s = .next (s.addAccepted f.core (mkCmd (.spflush w) f w.port.toNat none (scopeLow w)))) ∧
  (∀ (w : EWord) (s : State) (c k : Nat) (m : Cmd) (pas : List (List Nat × List Nat)), s.cmd? c k = some m →
    m.i = .spflush w → m.st = .accepted → m.frozen = false → s.behindFrozen c k m = false →
    s.portFull c (portOf m.f.elem) = false → s.linkDown c m.pas = false → s.spCheck c w = none →
    (s.core c).cache = [] → (s.core c).split.pad ≤ 64 → s.memOk → m.ord ≠ 0 → NoLate s (bitmapBytes c w) →
    let es := fmtSize (bits w.mods 6 3)
    let ff := ((Fmt.ofNat? (bits w.mods 6 3)).bind FF.ofFmt).getD .f32
    let js := (List.range (spWidth w)).filter fun j => (Memory.get s.mem (padAddr c (spBit w j))).getLsbD (j % 8)
    let value (j : Nat) := FF.f32.decode (bytesToNat (Memory.read s.mem (padAddr c (spVal w j)) 4))
    let coords (n : Nat) := (effAddr m.f.lval.scalar.toNat ((4 * n : Nat)), 4)
    let vals (n : Nat) := (effAddr m.f.rval.scalar.toNat ((es * n : Nat)), es)
    let l : List (Nat × Byte) := (List.zip js pas).flatMap fun p => List.zip p.2.1 (natBytes 4 p.1) ++
      List.zip p.2.2 (natBytes es (roundNum ff .rne false (value p.1)))
    let vas := (List.range js.length).flatMap fun n => vasIf (coords n).1 4 4 ++ vasIf (vals n).1 es es
    s.walkStalls c vas = false →
    (s.fillTlb c vas).spChecks c ((List.range js.length).map fun n => (coords n, vals n)) = .ok pas →
    ∃ t : State, exec (.spflushCompletion c k) s = .next t ∧ Received s t c [] ∧ WritesBegin s t c m l ∧
      CmdsAre t c ((s.core c).cmds.set k { m with st := .started, j := js.length, pas := l.map fun x => x.1 }) ∧
      (∀ a ∈ bitmapBytes c w, Memory.get t.mem a = 0) ∧ MemOutside s t (bitmapBytes c w)) ∧
  ∀ (w : EWord) (s : State) (c k : Nat) (m : Cmd), s.cmd? c k = some m → m.i = .spflush w → m.st = .started →
    m.frozen = false → s.behindFrozen c k m = false → s.portFull c (portOf m.f.elem) = false →
    s.linkDown c m.pas = false → PlainCmd s c m → MayEnd s c m →
    ∃ t : State, exec (.spflushCompletion c k) s = .next t ∧ CmdsAre t c ((s.core c).cmds.eraseIdx k) ∧ TagDone t c m ∧
      CmdSent s t c m .data (.sc (BitVec.ofNat 64 m.j)) ∧ WritesEnd s t c m)

namespace Sys2Proof.Machine

/-- The state in which an instance has one more effect due at its commit, and a DATA token has been sent. -/
def PostsAndSends (s : State) (o : Out) (w : GWord) (f : Firing) (i : Inst) (p : List Post) (v : Val) : Prop :=
  ∃ t : State, o = .next t ∧ SameStore s t ∧ t.instOf f = some { i with post := i.post ++ p } ∧
    Received s t f.core (deliveries s f w.t0 w.t1 ⟨f.tag, .data, v⟩)

/-- A load-like operation of format M has entered its translations and waits, or waits to be performed. -/
def ReadyAt (s : State) (w : MWord) (f : Firing) : Prop := ReadyM s w f both ∧ s.portTakes f = true

end Sys2Proof.Machine

/-- NETSEND and NETRECV, at any scope when CACHE holds no dirty byte, send the status of a bad command and end, or
send 0 and are accepted, one whose local checks fail to end with status 2; a completed NETSEND puts the bytes
of its buffer, each as they were at issue or are now (log 8), on the network, and what an RDMA READ brought,
whose request went out at acceptance, begins to be written into its buffer; an arriving SEND begins to fill
the oldest receive buffer or is answered not ready; a buffer that is filled ends its command: its writes are
made as its scope asks (that they are under way meanwhile is the model's, log 96), then the completion word
with count and status, and the tag is DONE, a status other than 0 marking it with an engine record that holds
it; an RDMA WRITE stores its bytes when every check passes and is else answered with an error and changes no
byte; an RDMA READ of a peer is answered with the bytes. What memory reads as is said for memory in its
canonical form. COLL sends the status of a bad descriptor and ends, or sends 0 and waits with its checked
bytes; once a member of every rank has arrived, COLL_INSTANCE gives each member the result of the operation on
the sources of the ranks in order: all blocks, or in every element the fold over the ranks from rank 0 on, a
float sum running in FP32 and rounded once, a b32 sum modulo 2^32, max and min as FMAX and FMIN or signed;
COLL_COMPLETION begins to write it to the checked destination, and then, at any scope when CACHE holds no
dirty byte, completes as its scope asks, and the tag is DONE (that its writes are under way meanwhile is the
model's, log 96). What memory reads as is said for memory in its canonical form. Choices of the model in it:
log 8 (which bytes a NETSEND sends), log 26 (how a peer's address is checked), log 44 (when a collective is
checked, and the detail of its fault), log 96 (writes under way). (R267, R268, R269, R315, R326, R338, R357,
R394, R264, R265, R266) -/
def Obligations.NetworkAndCollectives : Prop :=
  (StartsNet .netsend true ∧ StartsNet .netrecv false ∧
  (∀ (s : State) (c k status : Nat) (m : Cmd) (data : List Byte), s.cmd? c k = some m → isNet m.i = true →
    PlainCmd s c m → m.f.ctx < 8 → m.f.elem < 64 → s.portFull c (portOf m.f.elem) = false →
    s.linkDown c (m.pas ++ m.wordPas) = false → s.memOk → NoLate s m.wordPas →
    let Ends (t : State) (count st : Nat) : Prop :=
      Lands s t m.scope (wordWrites m count st) ∧ NetDone t c m st ∧ CmdsAre t c ((s.core c).cmds.eraseIdx k)
    (m.st = .accepted → m.status ≠ 0 → ∃ t : State, exec (.netCompletion c k status data) s = .next t ∧
      Ends t 0 m.status ∧ t.netTx = s.netTx) ∧
    (∀ w : EWord, m.i = .netsend w → m.st = .accepted → m.status = 0 →
      (status = 0 → ntOp m.f ≠ 2 → ∃ (t : State) (bs : List Byte), exec (.netCompletion c k status data) s = .next t ∧
        Ends t (ntLen m.f) 0 ∧
        t.netTx = s.netTx ++ [⟨ntQp m.f, ntOp m.f, if ntOp m.f = 1 then BitVec.ofNat 64 (ntRemote m.f) else 0,
          if ntOp m.f = 1 then ntKey m.f else 0, bs⟩] ∧ (m.pas = [] → bs = m.a) ∧
        (m.pas ≠ [] → bs.length = m.pas.length ∧ ∀ j : Nat, j < m.pas.length →
          bs.getD j 0 = m.a.getD j 0 ∨ bs.getD j 0 = s.readEngine c (m.pas.getD j 0))) ∧
      (status = 0 → ntOp m.f = 2 → data.length = ntLen m.f → ∃ t : State,
        exec (.netCompletion c k status data) s = .next t ∧ SameStore s t ∧
        CmdsAre t c ((s.core c).cmds.set k { m with st := .started, j := data.length, m := 0 }) ∧
        WritesBegin s t c m (List.zip m.pas data)) ∧
      (status = 2 ∨ status = 3 → ∃ t : State, exec (.netCompletion c k status data) s = .next t ∧
        Ends t (min (ntLen m.f) data.length) status)) ∧
    (m.st = .started → s.netBehind m = false → MayEnd s c m → (∀ x ∈ ownWrites s c m, x.1 ∉ m.wordPas) →
      ∃ t : State, exec (.netCompletion c k status data) s = .next t ∧
        Lands s t m.scope (ownWrites s c m ++ wordWrites m m.j m.m) ∧ NetDone t c m m.m ∧
        CmdsAre t c ((s.core c).cmds.eraseIdx k))) ∧
  (∀ (s : State) (qp : Nat) (data : List Byte), (s.qp qp).receives = true → (s.qp qp).command = false →
    (s.oldestRecv qp = none → exec (.sendArrival qp data) s = .next { s with netTx := s.netTx ++ [⟨qp, 3, 0, 0, []⟩] }) ∧
    ∀ (c k : Nat) (m : Cmd), s.oldestRecv qp = some (c, k, m) → s.linkDown c (m.pas ++ m.wordPas) = false →
      ∃ t : State, exec (.sendArrival qp data) s = .next t ∧ SameStore s t ∧
        CmdsAre t c ((s.core c).cmds.set k { m with
          st := .started, j := min (ntLen m.f) data.length, m := if ntLen m.f < data.length then 1 else 0 }) ∧
        WritesBegin s t c m (List.zip m.pas data)) ∧
  ∀ (s : State) (qp : Nat) (addr : Word), (s.qp qp).receives = true → (s.qp qp).granted = true →
    (∀ (data : List Byte) (ps : List Nat), s.peerBytes (s.qp qp).part .store
        ((List.range data.length).map fun j => (addr.toNat + j) % 2 ^ 64) = .ok ps →
      ∃ t : State, exec (.rdmaWriteArrival qp addr data) s = .next t ∧ t.netTx = s.netTx ∧
        t.mem = Memory.putAll s.mem (List.zip ps data)) ∧
    (∀ (data : List Byte) (e : AccErr), s.peerBytes (s.qp qp).part .store
        ((List.range data.length).map fun j => (addr.toNat + j) % 2 ^ 64) = .error e →
      ∃ t : State, exec (.rdmaWriteArrival qp addr data) s = .next t ∧ t.mem = s.mem ∧
        t.netTx = s.netTx ++ [⟨qp, 5, 0, 0, []⟩]) ∧
    ∀ (len : Nat) (ps : List Nat), s.peerBytes (s.qp qp).part .load
        ((List.range len).map fun j => (addr.toNat + j) % 2 ^ 64) = .ok ps →
      exec (.rdmaReadRequest qp addr len) s =
        .next { s with netTx := s.netTx ++ [⟨qp, 4, addr, 0, ps.map (Memory.get s.mem)⟩] }) ∧
  ((∀ (w : EWord) (s : State) (f : Firing), ReadyE s w f leftOnly → s.netTakes f = true →
    s.stallsTile (.coll w) f = false → s.walkStalls f.core (clVas f) = false → s.takeTag f w.ctag.toNat = .noTag →
    let sent (n : Nat) := sentBy (srcIsland 40) (deliveries s f w.t0 w.t1 ⟨f.tag, .data, .sc (BitVec.ofNat 64 n)⟩)
    let u := s.fillTlb f.core (clVas f)
    (clStatus f ≠ 0 → (scopeLow w < 2 ∨ NoDirty s f.core) → ∃ t : State, exec (.coll w) s = .next t ∧ SameStore s t ∧
      CmdsAre t f.core (s.core f.core).cmds ∧ Received s t f.core (sent (clStatus f))) ∧
    ∀ ps qs : List Nat, clStatus f = 0 → f.core < s.cores.length →
      (∀ o ∈ s.collMembers ((s.partOfCore f.core).getD 0) (clGroup f) (clEpoch f), collFits f o.2.2 = true) →
      u.checkLoads f.core (arrayAt (clSrc f) (clSize f) 0 (clReads f)) = .ok ps →
      u.checkStores f.core (arrayAt (clDst f) (clSize f) 0 (clWrites f)) = .ok qs →
      ∃ (t : State) (m : Cmd), exec (.coll w) s = .next t ∧ SameStore u t ∧
        CmdsAre t f.core ((s.core f.core).cmds ++ [m]) ∧ m.i = .coll w ∧ m.f = f ∧ m.st = .accepted ∧
        m.pas = ps ++ qs ∧ m.scope = scopeLow w ∧ m.ord = (s.core f.core).ordLast + 1 ∧
        Received s t f.core (sent 0)) ∧
  (∀ (s : State) (part group epoch : Nat) (first : Nat × Nat × Cmd) (src : Nat → List Byte),
    let all := s.collMembers part group epoch
    all.head? = some first → (∀ e ∈ all, s.linkDown e.1 e.2.2.pas = false) →
    (∀ r : Nat, r < clParts first.2.2.f → ∃ e ∈ all, clRank e.2.2.f = r) →
    (∀ e ∈ all, src (clRank e.2.2.f) = s.readPas e.1 (e.2.2.pas.take (clReads e.2.2.f * clSize e.2.2.f))) →
    ∃ t : State, exec (.collInstance part group epoch) s = .next t ∧ SameStore s t ∧
      ∀ e ∈ all, t.cmd? e.1 e.2.1 = some { e.2.2 with
        st := .started, b := collResult e.2.2.f ((List.range (clParts first.2.2.f)).map src) (clRank e.2.2.f) }) ∧
  (∀ (s : State) (c k : Nat) (m : Cmd) (w : EWord), s.cmd? c k = some m → m.i = .coll w → s.linkDown c m.pas = false →
    (m.st = .started → ∃ t : State, exec (.collCompletion c k) s = .next t ∧ SameStore s t ∧ Received s t c [] ∧
      CmdsAre t c ((s.core c).cmds.set k { m with st := .consumed }) ∧
      WritesBegin s t c m (List.zip (m.pas.drop (clReads m.f * clSize m.f)) m.b)) ∧
    (m.st = .consumed → PlainCmd s c m → m.f.ctx < 8 → MayEnd s c m → ∃ t : State,
      exec (.collCompletion c k) s = .next t ∧ t.parts = s.parts ∧ CmdsAre t c ((s.core c).cmds.eraseIdx k) ∧
      TagDone t c m ∧ WritesEnd s t c m)) ∧
  ∀ (f : Firing) (srcs : List (List Byte)) (r e : Nat), srcs ≠ [] → e < clCount f →
    (clFmt f = 2 ∨ clFmt f = 4 ∨ clFmt f = 5) →
    let ff : FF := if clFmt f = 5 then .bf16 else .f32
    let at' (bs : List Byte) (j : Nat) := bytesNat bs (clSize f * j) (clSize f)
    let got := at' (collResult f srcs r) e
    (clOp f = 1 → collResult f srcs r = srcs.flatten) ∧
    (clOp f = 0 ∨ clOp f = 2 →
      let xs := srcs.map fun b => at' b (if clOp f = 2 then r * clCount f + e else e)
      let ys := xs.map fun x => roundNum .f32 .rne false (ff.decode x)
      (clFmt f = 2 → (clRed f = 0 → got = xs.sum % 2 ^ 32) ∧
        (clRed f = 1 → got ∈ xs ∧ ∀ x ∈ xs, toInt 32 true x ≤ toInt 32 true got) ∧
        (clRed f = 2 → got ∈ xs ∧ ∀ x ∈ xs, toInt 32 true got ≤ toInt 32 true x)) ∧
      (clFmt f ≠ 2 →
        (clRed f = 0 → got = roundNum ff .rne false (FF.f32.decode (ys.tail.foldl f32add (ys.headD 0)))) ∧
        (clRed f = 1 → got = xs.tail.foldl (fMax ff) (xs.headD 0)) ∧
        (clRed f = 2 → got = xs.tail.foldl (fMin ff) (xs.headD 0)))))

namespace Sys2Proof.Machine

/-- A vector holds the carry that SPECRES makes of its operands (R307, R308). -/
def SpecOut (f : Firing) (v : Val) : Prop :=
  let w (k : Nat) : Nat := f.rval.wide / 2 ^ (32 * k) % 2 ^ 32
  let fl := w 3 % 32
  let pos (x : Nat) : Nat := if 0 < x ∧ x ≤ 0x7F800000 then x else 0
  let p (i : Nat) : Nat := f.lval.lane 32 i
  let res (i : Nat) : Nat := pos (f32sub (p i) (f.lval.lane 32 (8 + i)))
  v.lane 32 2 = (w 2 + 8) % 2 ^ 32 ∧ v.lane 32 4 = w 4 ∧ (∀ i : Nat, 8 ≤ i → i < 16 → v.lane 32 i = 0) ∧
  (fl.testBit 0 = false → v.lane 32 0 = ((List.range 8).map res).foldl f32add (w 0) ∧
    v.lane 32 1 = ((List.range 8).map fun i => pos (p i)).foldl f32add (w 1) ∧ v.lane 32 3 = fl ∧
    ∀ i : Nat, 5 ≤ i → i < 8 → v.lane 32 i = w i) ∧
  (fl.testBit 0 = true →
    let armed := fl.testBit 4
    let t := if armed then w 5 else if 0 < pos (w 0) then f32mul (w 4) (w 0)
      else if 0 < pos (w 1) then f32mul (w 4) (w 1) else w 5
    let fl' := if armed then fl else (fl ||| 16) ||| (if 0 < pos (w 0) then 0 else if 0 < pos (w 1) then 2 else 8)
    let c := if armed then w 6 else 0
    let k := if armed then w 7 else 0xFFFFFFFF
    let live := fl'.testBit 3 = false ∧ fl'.testBit 2 = false
    let r (i : Nat) : Nat := if fl'.testBit 1 then pos (p i) else res i
    let sum (i : Nat) : Nat := (((List.range (i + 1)).map r).filter fun x => decide (0 < x)).foldl f32add c
    let hit (i : Nat) : Prop := 0 < r i ∧ floatRel .f32 4 (sum i) t = true
    v.lane 32 0 = w 0 ∧ v.lane 32 1 = w 1 ∧ v.lane 32 5 = t ∧
    (¬ live → v.lane 32 6 = c ∧ v.lane 32 7 = k ∧ v.lane 32 3 = fl') ∧
    (live → ∀ i : Nat, i < 8 → hit i → (∀ j : Nat, j < i → ¬ hit j) →
      v.lane 32 6 = sum i ∧ v.lane 32 7 = (w 2 + i) % 2 ^ 32 ∧ v.lane 32 3 = fl' ||| 4) ∧
    (live → (∀ i : Nat, i < 8 → ¬ hit i) → v.lane 32 6 = sum 7 ∧ v.lane 32 3 = fl' ∧
      ((∀ i : Nat, i < 8 → r i = 0) → v.lane 32 7 = k) ∧
      ∀ i : Nat, i < 8 → 0 < r i → (∀ j : Nat, i < j → j < 8 → r j = 0) → v.lane 32 7 = (w 2 + i) % 2 ^ 32))

end Sys2Proof.Machine

/-- SKSET of a TEXT or MIXTURE descriptor and SKMIX of 1 to 6 entries send 0 and write their register at commit,
and send 1 and write nothing for an invalid operand; SKSET of a HIDDEN descriptor starts the read of its
vector, and LOAD_RETURN sends 0 and writes the descriptor with the digest of what it read at commit; SKGET
sends the register once no older writer is open, and waits before; COLLAPSE copies a TEXT with status 1,
refuses a HIDDEN with status 2 and writes nothing, and turns a MIXTURE by arg-max into the TEXT of the entry
whose weight none exceeds, the lowest id among equals, or by a sampled draw into that of the first positive
weight that is infinite, or at which the running sum passes the limit, or else the last; with no entry that
qualifies it answers status 3 and writes nothing. RNG sends 16 uniforms of the Philox words of its key,
position, draw and lanes, each between 2^-25 and 1 - 2^-24; SMAXINIT and SMAXUPD give in the four rows the
maximum, the sum and the two factors of the rules, and a NULL summary leaves maximum and sum with the factors
1 and 0; SPECRES sends the carry of its sums or of its walk, with the base raised by 8, and an instance counts
a fallback once, at its commit; nothing but the fabric and that count changes. (R273, R275, R277, R278, R303,
R304, R305, R296, R297, R307, R308, R309) -/
def Obligations.SoftTokensAndSampling : Prop :=
  (∀ (w : GWord) (s : State) (f : Firing) (i : Inst), s.sel = some f → Fires w.pm f → s.instOf f = some i →
    DataOnly (leftOnly f) →
    (∀ v : Vec, skCheck (BitVec.ofNat 512 f.lval.wide) = .value v →
      PostsAndSends s (exec (.skset w) s) w f i [.sk w.value.toNat v] (.sc 0)) ∧
    (skCheck (BitVec.ofNat 512 f.lval.wide) = .invalid →
      exec (.skset w) s = .next (s.emits f w.t0 w.t1 .data (.sc 1))) ∧
    (let n := f.lval.wide / 2 ^ 480 % 2 ^ 32
      let lane (j : Nat) : Nat := f.lval.wide / 2 ^ (32 * j) % 2 ^ 32
      (n = 0 ∨ 6 < n → exec (.skmix w) s = .next (s.emits f w.t0 w.t1 .data (.sc 1))) ∧
      (n ≠ 0 ∧ n ≤ 6 → PostsAndSends s (exec (.skmix w) s) w f i [.sk w.value.toNat
        (mkMixture ((List.range n).map fun j => (lane (2 * j), lane (2 * j + 1))))] (.sc 0))) ∧
    (∀ v : Vec, s.skRead f w.value.toNat = some v →
      exec (.skget w) s = .next (s.emits f w.t0 w.t1 .data (.vec v))) ∧
    (s.skRead f w.value.toNat = none → exec (.skget w) s = .next (s.addPend ⟨.skget w, f, .held, 0⟩)) ∧
    (∀ (fmt dim addr : Nat) (pas : List Nat), skCheck (BitVec.ofNat 512 f.lval.wide) = .hidden fmt dim addr →
      s.portTakes f = true →
      let vas := vasIf addr (hiddenEs fmt) (dim * hiddenEs fmt)
      let u := s.fillTlb f.core vas
      s.walkStalls f.core vas = false → u.check f.core .load addr (dim * hiddenEs fmt) (hiddenEs fmt) = .ok pas →
      exec (.skset w) s = .next (u.addPend ⟨.skset w, f, .load pas [], 0⟩)) ∧
    (∀ (fmt dim addr c x k : Nat) (q : Pend) (pas : List Nat), PendAt s c x k q → q.i = .skset w → q.st = .load pas [] →
      s.instOf q.f = some i → skCheck (BitVec.ofNat 512 q.f.lval.wide) = .hidden fmt dim addr →
      s.readAllowed q.f 0 pas = true → s.badByte c pas = none →
      let ws := words32 (pas.map (s.loadByte q.f 0))
      let dig := ((ws.mapIdx fun n x => (n + 1) * x).sum + ws.length * 2 ^ 32) % 2 ^ 64
      ∃ t : State, exec (.loadReturn c x k) s = .next t ∧
        t.instOf q.f = some { i with post := i.post ++ [.sk w.value.toNat (mkHidden fmt dim dig addr)] } ∧
        Received s t c (sentBy (srcPort q.f.elem) (deliveries s q.f w.t0 w.t1 ⟨q.f.tag, .data, .sc 0⟩))) ∧
    ∀ src : Vec, s.skRead f (bits f.lval.scalar 3 0) = some src → (w.mode = 1 → DataOnly (both f)) →
      let dst := bits f.lval.scalar 7 4
      let answers (p : List Post) (id status : Nat) := PostsAndSends s (exec (.collapse w) s) w f i p
        (.sc (BitVec.ofNat 64 (id + status * 2 ^ 32)))
      let val (e : Nat × Nat) := FF.f32.decode e.2
      let es := skEntries src
      (skKind src = 0 → answers [.sk dst src] (skId src) 1) ∧
      (skKind src = 1 → answers [] 0xFFFFFFFF 2) ∧
      (2 ≤ skKind src → w.mode ≠ 1 →
        ((∀ e ∈ es, (val e).isNan = true) → answers [] 0xFFFFFFFF 3) ∧
        ((∃ e ∈ es, (val e).isNan = false) → ∃ e ∈ es, (val e).isNan = false ∧
          (∀ o ∈ es, (val o).isNan = false → Machine.Num.cmp (val o) (val e) ≤ 0 ∧
            (Machine.Num.cmp (val o) (val e) = 0 → e.1 ≤ o.1)) ∧
          answers [.sk dst (mkText e.1 1 (skDigest src))] e.1 0)) ∧
      (2 ≤ skKind src → w.mode = 1 →
        let cs := es.filter fun e => decide (0 < e.2) && decide (e.2 ≤ 0x7F800000)
        let total := (cs.map fun e => e.2).foldl f32add 0
        let sum (n : Nat) := ((cs.take (n + 1)).map fun e => e.2).foldl f32add 0
        let x := f.lval.scalar
        let limit := f32mul (uniform (rngRaw f.rval.scalar.toNat (bits x 63 32) (bits x 15 8) 0)) total
        let picks (e : Nat × Nat) := answers [.sk dst (mkText e.1 3 (skDigest src))] e.1 0
        (cs = [] → answers [] 0xFFFFFFFF 3) ∧
        (∀ e : Nat × Nat, cs.find? (fun o => o.2 == 0x7F800000) = some e → picks e) ∧
        ((∀ e ∈ cs, e.2 ≠ 0x7F800000) → ∀ n : Nat, n < cs.length → (∀ m : Nat, m < n → floatRel .f32 4 (sum m) limit = false) →
          (floatRel .f32 4 (sum n) limit = true ∨ n + 1 = cs.length) → picks (cs.getD n (0, 0))))) ∧
  ((∀ (w : GWord) (s : State) (f : Firing), s.sel = some f → Fires w.pm f → DataOnly (both f) →
    let x := (rightOf w f).scalar
    exec (.rng w) s = .next (s.emits f w.t0 w.t1 .data (.vec (vecOf 32 ((List.range 16).map fun n =>
      uniform (rngRaw f.lval.scalar.toNat (bits x 31 0) (bits x 47 32) (16 * bits x 63 48 + n))))))) ∧
  (∀ x : Nat, x < 2 ^ 32 → (1 : ℚ) / 2 ^ 25 ≤ (FF.f32.decode (uniform x)).rat ∧
    (FF.f32.decode (uniform x)).rat ≤ 1 - 1 / 2 ^ 24) ∧
  (∀ (w : GWord) (s : State) (f : Firing), s.sel = some f → Fires w.pm f → DataOnly (leftOnly f) →
    ∃ v : Val, exec (.smaxinit w) s = .next (s.emits f w.t0 w.t1 .data v) ∧ ∀ r : Nat, r < 4 →
      v.lane 32 r = f.lval.lane 32 r ∧ v.lane 32 (4 + r) = 0x3F800000 ∧ v.lane 32 (8 + r) = 0x3F800000 ∧
      v.lane 32 (12 + r) = 0) ∧
  (∀ (w : GWord) (s : State) (f : Firing), s.sel = some f → Fires w.pm f → DataOnly (both f) →
    ∃ v : Val, exec (.smaxupd w) s = .next (s.emits f w.t0 w.t1 .data v) ∧ ∀ r : Nat, r < 4 →
      let m := f.lval.lane 32 r
      let mb := f.rval.lane 32 r
      let mn := fMax .f32 m mb
      let ex (y : Nat) : Nat := fpExp2 .f32 (FF.f32.decode (f32sub y mn))
      let a := if mn = 0xFF800000 then 0x3F800000 else ex m
      let b := if mn = 0xFF800000 then 0 else ex mb
      v.lane 32 r = mn % 2 ^ 32 ∧
      v.lane 32 (4 + r) = f32add (f32mul (f.lval.lane 32 (4 + r)) a) (f32mul (f.rval.lane 32 (4 + r)) b) % 2 ^ 32 ∧
      v.lane 32 (8 + r) = a % 2 ^ 32 ∧ v.lane 32 (12 + r) = b % 2 ^ 32) ∧
  (∀ (w : GWord) (s : State) (f : Firing) (t q : Tok), s.sel = some f → Fires w.pm f → f.l = some t → f.r = some q →
    t.kind = .data → q.kind = .null →
    ∃ v : Val, exec (.smaxupd w) s = .next (s.emits f w.t0 w.t1 .data v) ∧ ∀ r : Nat, r < 4 →
      v.lane 32 r = t.val.lane 32 r ∧ v.lane 32 (4 + r) = t.val.lane 32 (4 + r) ∧ v.lane 32 (8 + r) = 0x3F800000 ∧
      v.lane 32 (12 + r) = 0) ∧
  ∀ (w : GWord) (s : State) (f : Firing) (i : Inst), s.sel = some f → Fires w.pm f → DataOnly (both f) →
    s.instOf f = some i → ∃ v : Val, SpecOut f v ∧ PostsAndSends s (exec (.specres w) s) w f i
      (if (v.lane 32 3).testBit 1 && !(f.rval.wide / 2 ^ 96 % 2 ^ 32).testBit 1 && !i.post.contains .specfb
        then [.specfb] else []) v)

/-- LOGREC of a TEXT register buffers the 32 bytes of its record at the checked address; PFXCMP sends how many
records agree, at most its limit, and why it stopped, 0 exactly at the limit; REPLAY waits, and REPLAY_PERFORM
of the oldest instance sends 3 and writes nothing for an invalid record, and for a record of kind 0 sends 0
and sets the register to the TEXT of its id at commit; its read acts on CACHE as a load does, and without
CACHE memory is unchanged. KVMAP starts the read of its header; KVAPP waits, and KVAPP_PERFORM answers 3, 2, 4
or 1 in the order of the rule and writes nothing (the fill in the answer is the model's choice where the
status is 2, 3 or 4, log 107), or answers 0 with the fill and changes no byte but header bytes from 10 on and
the checked elements; SPECBEG and SPECCMT wait, and SPEC_APPLY opens a slot with its write set in PAD (whose
entry area is cleared, log 108), refuses an open slot with 1 and an operand out of range or misaligned with 2
and writes nothing, or commits the first entries of an open slot, closes it and answers the two counts. What
memory reads as is said for memory in its canonical form. Choices of the model in it: log 7 (PFXCMP reads both
logs when it fires), log 23 (when KVAPP and REPLAY are checked), log 17 (what comes before them), log 29
(SPECCMT of a closed slot), log 96 (writes under way). (R280, R281, R282, R320, R286, R287, R290, R291, R292) -/
def Obligations.LogsAndPages : Prop :=
  ((∀ (w : MWord) (s : State) (f : Firing) (i : Inst) (v : Vec) (pas : List Nat), ReadyAt s w f → s.instOf f = some i →
    let vas := vasIf (MWord.ea w f) 32 32
    let u := s.fillTlb f.core vas
    let bytes := List.zip pas (mkRecord (logPos f) v 0 false)
    s.walkStalls f.core vas = false → u.skRead f (logReg f) = some v → skKind v = 0 →
    u.check f.core .store (MWord.ea w f) 32 32 = .ok pas →
    ∃ t : State, exec (.logrec w) s = .next t ∧ SameStore u t ∧ Received s t f.core [] ∧
      t.instOf f = some { i with
        stores := i.stores ++ [{
          idx := f.idx, lsid := w.lsid.toNat, bytes, zero := zeroLines bytes, copySrc := [], copyDst := [], scope := w.scope, rel := MWord.rel w, fence := false, shown := false }],
        counted := i.counted ||| BitVec.ofNat 32 (2 ^ w.lsid.toNat) }) ∧
  (∀ (w : EWord) (s : State) (f : Firing), ReadyE s w f both → s.portTakes f = true →
    (∀ l ∈ s.links, l.failed = false) →
    let limit := bits w.mods 15 0
    let a := f.lval.scalar.toNat
    let b := f.rval.scalar.toNat
    let u := s.fillTlb f.core (s.pfxVas f.core a b limit 0)
    let sent (n : Nat) := sentBy (srcPort f.elem) (deliveries s f w.t0 w.t1 ⟨f.tag, .data, .sc (BitVec.ofNat 64 n)⟩)
    (limit = 0 → exec (.pfxcmp w) s = .next (s.withTokens f.core (sent 0))) ∧
    ∀ k why : Nat, pfxWalk u f.core a b limit 0 = .ok (k, why) → limit ≠ 0 →
      exec (.pfxcmp w) s = .next (u.withTokens f.core (sent (k + why * 2 ^ 32))) ∧
      k ≤ limit ∧ (why = 0 ↔ k = limit)) ∧
  (∀ (w : MWord) (s : State) (f : Firing), ReadyAt s w f →
    exec (.replay w) s = .next (s.addPend ⟨.replay w, f, .perform, 0⟩)) ∧
  ∀ (w : MWord) (s : State) (c x k : Nat) (q : Pend) (i : Inst) (pas : List Nat), PendAt s c x k q → q.i = .replay w →
    q.st = .perform → s.oldest q.f = true → s.portTakes q.f = true → s.instOf q.f = some i →
    let vas := vasIf (MWord.ea w q.f) 32 32
    let v := (s.fillTlb c vas).dropPend c x k
    s.walkStalls c vas = false → v.check c .load (MWord.ea w q.f) 32 32 = .ok pas →
    s.readAllowed q.f (w.lsid.toNat + 1) pas = true → s.acquireStalls q = false →
    let u := readState v c w pas
    let r := pas.map (u.loadByte q.f (w.lsid.toNat + 1))
    let sent (n : Nat) := sentBy (srcPort q.f.elem) (deliveries s q.f w.t0 w.t1 ⟨q.f.tag, .data, .sc (BitVec.ofNat 64 n)⟩)
    let Ends (t : State) : Prop := t.parts = s.parts ∧ ((s.core c).split.cache = 0 → t.mem = u.mem)
    (recInvalid r = true → ∃ t : State, exec (.replayPerform c x k) s = .next t ∧ Ends t ∧
      t.instOf q.f = some i ∧ Received s t c (sent 3)) ∧
    (recKind r = 0 → ∃ t : State, exec (.replayPerform c x k) s = .next t ∧ Ends t ∧
      t.instOf q.f = some { i with post := i.post ++ [.sk (logReg q.f) (mkText (recId r) 0 0)] } ∧
      Received s t c (sent 0))) ∧
  ((∀ (w : MWord) (s : State) (f : Firing) (pas : List Nat), ReadyAt s w f → MWord.ea w f % 64 = 0 →
    let h := effAddr (MWord.ea w f) ((64 * (f.rval.scalar.toNat % 2 ^ 32 / 64) : Nat))
    let u := s.fillTlb f.core (vasIf h 64 64)
    s.walkStalls f.core (vasIf h 64 64) = false → u.check f.core .load h 64 64 = .ok pas →
    exec (.kvmap w) s = .next (u.addPend ⟨.kvmap w, f, .load pas [], 0⟩)) ∧
  StartsAtomic .kvapp ∧
  (∀ (w : MWord) (s : State) (c x k : Nat) (q : Pend) (hp : List Nat), PendAt s c x k q → q.i = .kvapp w →
    q.st = .perform → s.portTakes q.f = true → s.kvBehind q (MWord.ea w q.f) = false →
    let v := (s.fillTlb c (vasIf (MWord.ea w q.f) 64 64)).dropPend c x k
    s.walkStalls c (vasIf (MWord.ea w q.f) 64 64) = false → v.check c .atomic (MWord.ea w q.f) 64 64 = .ok hp →
    s.atomicAllowed q w (kvRel w q.f) [] = true → s.atomicAllowed q w (kvRel w q.f) hp = true → NoLate s hp →
    (s.core c).cache = [] → (∀ i : Inst, s.instOf q.f = some i → i.stores = []) →
    (∀ n : Nat, ((s.cx c x).specs.getD n ⟨false, 0⟩).isOpen = false) →
    let h := hp.map (Memory.get s.mem)
    let fill := bytesNat h 10 1
    let sent (n : Nat) := if q.sseq = 1 then [] else
      sentBy (srcPort q.f.elem) (deliveries s q.f w.t0 w.t1 ⟨q.f.tag, .data, .sc (BitVec.ofNat 64 n)⟩)
    let stops (code : Nat) : Prop := ∃ t : State, exec (.kvappPerform c x k) s = .next t ∧ SameStore s t ∧
      Received s t c (sent (code + fill * 2 ^ 8))
    (bytesNat h 8 1 = 0 → stops 3) ∧
    (bytesNat h 8 1 = 1 ∨ bytesNat h 8 1 = 2 →
      (bytesNat h 9 1 ≠ w.fmt.code → stops 2) ∧
      (bytesNat h 9 1 = w.fmt.code → 128 / laneCount w.ty ≤ kvCtl q.f % 16 → stops 4) ∧
      (bytesNat h 9 1 = w.fmt.code → kvCtl q.f % 16 < 128 / laneCount w.ty → fill = 64 → stops 1) ∧
      (bytesNat h 9 1 = w.fmt.code → kvCtl q.f % 16 < 128 / laneCount w.ty → fill ≠ 64 → ∀ ep : List Nat,
        let es := fmtBytes w.fmt
        let row := effAddr (bytesNat h 0 8) ((64 * 128 * es * (if (kvCtl q.f).testBit 4 then 1 else 0) +
          128 * es * fill + es * laneCount w.ty * (kvCtl q.f % 16) : Nat))
        let vas := vasIf row es (es * laneCount w.ty)
        let u := v.fillTlb c vas
        v.walkStalls c vas = false → u.check c .store row (es * laneCount w.ty) es = .ok ep →
        u.readAllowed q.f (w.lsid.toNat + 1) ep = true → s.memOk → NoLate s ep →
        ∃ (t : State) (clip : Bool), exec (.kvappPerform c x k) s = .next t ∧ t.parts = s.parts ∧
          Received s t c (sent (fill * 2 ^ 8 + if clip then 2 ^ 16 else 0)) ∧
          MemOutside s t (hp.drop 10 ++ ep)))) ∧
  (∀ (w : EWord) (s : State) (f : Firing), s.sel = some f → Fires w.pm f → s.keptOf f = none →
    (DataOnly (both f) → s.adopt (.specbeg w) f = none →
      exec (.specbeg w) s = .next (s.addPend ⟨.specbeg w, f, .perform, 0⟩)) ∧
    (DataOnly (leftOnly f) → s.adopt (.speccmt w) f = none → exec (.speccmt w) s = .next (s.addPend ⟨.speccmt w, f, .perform, 0⟩))) ∧
  ∀ (w : EWord) (s : State) (c x k : Nat) (q : Pend), PendAt s c x k q → q.st = .perform → s.due q = true →
    (s.cx c x).specs.length = 4 → (s.core c).split.pad ≤ 64 → (∀ l ∈ s.links, l.failed = false) →
    let sent (n : Nat) := if q.sseq = 1 then [] else deliveries s q.f w.t0 w.t1 ⟨q.f.tag, .data, .sc (BitVec.ofNat 64 n)⟩
    let slot := (s.cx c x).specs.getD (bits w.mods 1 0) ⟨false, 0⟩
    let W := bits q.f.rval.scalar 31 0
    (q.i = .specbeg w → s.memOk →
      let range := (s.core c).split.pad * 0x40000 < W + 1088 ∨ bits q.f.rval.scalar 47 32 = 0 ∨
        q.f.lval.scalar.toNat % 64 ≠ 0 ∨ W % 64 ≠ 0
      ∃ (t : State) (st : Nat), exec (.specApply c x k) s = .next t ∧ Received s t c (sent st) ∧
      (slot.isOpen = true → st = 1) ∧ (slot.isOpen = false → range → st = 2) ∧
      (slot.isOpen = false → ¬ range → st = 0) ∧ (st ≠ 0 → SameStore s t) ∧
      (st = 0 → (t.cx c x).specs.getD (bits w.mods 1 0) ⟨false, 0⟩ = ⟨true, W⟩ ∧
        bytesToNat (Memory.read t.mem (padAddr c W) 8) = q.f.lval.scalar.toNat ∧
        bytesToNat (Memory.read t.mem (padAddr c (W + 8)) 2) = bits q.f.rval.scalar 47 32 ∧
        Memory.get t.mem (padAddr c (W + 10)) = 0 ∧ Memory.get t.mem (padAddr c (W + 11)) = 1 ∧
        MemOutside s t ((List.range 1088).map fun j => padAddr c (W + j)))) ∧
    (q.i = .speccmt w → s.portTakes q.f = true → slot.isOpen = false → ∃ t : State,
      exec (.specApply c x k) s = .next t ∧ SameStore s t ∧
      Received s t c (sent (2 * 2 ^ 16))) ∧
    (q.i = .speccmt w → s.portTakes q.f = true → slot.isOpen = true → (s.core c).cache = [] →
      let n := min (Memory.get s.mem (padAddr c (slot.w + 10))).toNat 64
      let j := min q.f.lval.scalar.toNat n
      let vas := ((List.range j).map fun i => effAddr (s.specEntry c slot.w i).1 10).filter fun a => !isPaToken a
      let u := (s.dropPend c x k).fillTlb c vas
      ∀ l : List (Nat × Nat), u.specFills c slot.w (List.range j) = .ok l → s.memOk → NoLate s (l.map fun e => e.1) →
        ∃ t : State, exec (.specApply c x k) s = .next t ∧ t.parts = s.parts ∧ Received s t c (sent (j + (n - j) * 2 ^ 8)) ∧
        (t.cx c x).specs.getD (bits w.mods 1 0) ⟨false, 0⟩ = ⟨false, slot.w⟩ ∧
        MemOutside s t (padAddr c (slot.w + 10) :: padAddr c (slot.w + 11) :: l.map (·.1))))

namespace Sys2Proof.Machine

/-- A G instruction has passed its predicate with only DATA operands among those that it reads, and its instance `i` is
in flight. -/
def ReadyG (s : State) (w : GWord) (f : Firing) (i : Inst) : Prop :=
  s.sel = some f ∧ Fires w.pm f ∧ DataOnly (leftOnly f) ∧ s.instOf f = some i

/-- The firing's instance holds no entry of the record table (R340). -/
def NoTableRecord (s : State) (f : Firing) : Prop :=
  ∀ e ∈ (s.cx f.core f.ctx).recTab, ¬ (e.2.hdl = f.hdl ∧ e.2.seq = f.seq)

/-- The instance `i` of a firing is now marked with a record of this kind and detail (R30, R338); memory is unchanged. -/
def Marks (s : State) (o : Out) (f : Firing) (kind : Nat) (detail : Word) : Prop :=
  ∃ (t : State) (j : Inst) (num : Nat) (r : FRec), o = .next t ∧ t.instOf f = some j ∧ j.marked = some num ∧
    t.record f.core f.ctx num = some r ∧ r.kind = kind ∧ r.detail = detail ∧ r.seq = f.seq ∧ r.index = f.idx ∧
    t.mem = s.mem

/-- What an image meets that the check passes: the header, tag fields, channels and in-list of R83 to R86, the records of
R79 to R82 with every word an instruction, one first block, and the variants of R88. -/
def ImageMeets (img : List Word) : Prop :=
  let n := imgNblocks img
  (imgNat img 0 4 = 0x0D721A6E ∧ imgNat img 4 2 = 1 ∧ 1 ≤ n ∧ n ≤ 4096 ∧ imgScope img ≤ 4 ∧ imgNfields img ≤ 7 ∧
    imgNchannels img ≤ 63 ∧ 1 ≤ imgNvariants img ∧ imgNvariants img ≤ 5 ∧ 1 ≤ imgNslots img ∧ imgNslots img ≤ 256 ∧
    64 ≤ imgLength img ∧ imgLength img ≤ 2 ^ 24) ∧
  (∀ f : Nat, f < imgNfields img → 1 ≤ fieldWidth img f ∧ ((List.range (f + 1)).map (fieldWidth img)).sum ≤ 58) ∧
  (∀ k : Nat, k < imgNchannels img →
    let e := chanEnt img k
    e.chan ≤ 62 ∧ 1 ≤ e.depth ∧ e.depth ≤ 4096 ∧ e.dscope ≤ 4 ∧ (e.flags.testBit 0 = false → e.dscope = imgScope img) ∧
      (if e.flags.testBit 1 then e.depth = e.qblock else e.qblock = 0) ∧
      ∀ j : Nat, j < k → (chanEnt img j).chan ≠ e.chan ∧
        ¬ ((chanEnt img j).dimage = e.dimage ∧ (chanEnt img j).dslot = e.dslot)) ∧
  (∀ k : Nat, k < imgNinch img → imgByte img (imgInoff img + k) < imgNslots img ∧
    (k ≠ 0 → imgByte img (imgInoff img + (k - 1)) < imgByte img (imgInoff img + k))) ∧
  (∀ k : Nat, k < n →
    let b := blkAt img k
    b.magic = 0xB7 ∧ b.blockno = k ∧ b.nreads ≤ 32 ∧ b.nwrites ≤ 32 ∧ b.off + b.size ≤ imgLength img ∧
      b.smask = wantedMask img b ∧ b.nexits = wantedExits img b ∧ b.nchan = wantedChans img b ∧
      (∀ j : Nat, j < k → ¬ (b.first = true ∧ (blkAt img j).first = true)) ∧
      ∀ i : Nat, i < b.icount → ∃ x : Instr, decodeWord (insWord img b i) = .ok x ∧ imageCodeOk img x (wordTargets (insWord img b i)) = true ∧
        targetCodeOk img b (bits (insWord img b i) 52 44) = true ∧ targetCodeOk img b (bits (insWord img b i) 43 35) = true ∧
        directBad img b (insWord img b i) = false) ∧
  (∃ k : Nat, k < n ∧ (blkAt img k).first = true) ∧
  ∀ v : Nat, v < imgNvariants img → shapeOf (variantQuads img v) = some (variantRows img v, variantCols img v) ∧
    (∀ u : Nat, u < v → variantQuads img u ≠ variantQuads img v) ∧ ∀ k : Nat, k < n → variantQuadOf img v k < variantQuads img v

/-- A partition's image list is `l`. -/
def ImagesAre (t : State) (p : Nat) (l : List Image) : Prop := (t.part p).images = l

/-- The exit that an instance has completed, and the block it starts (R46). -/
def Inst.exitDone (i : Inst) : Bool := i.exit.any (·.done)
def Inst.nextBlock (i : Inst) : Option Nat := i.exit.bind fun e => if e.done then e.start else none

end Sys2Proof.Machine

/-- GETC sends the register of R349 that its word names, and nothing but the fabric changes; SETC and SETC of
ctl.fclr send their token on unchanged and leave the write of its bits 63:0, or the clearing of the fault
registers, to the commit of their instance. (R349, R350) -/
def Obligations.ControlRegisters : Prop :=
  (∀ (w : GWord) (s : State) (f : Firing), s.sel = some f → Fires w.pm f → DataOnly (leftOnly f) →
    let k := s.core f.core
    let v := s.cx f.core f.ctx
    let reads (n : Nat) (x : Val) : Prop :=
      w.value.toNat = n → exec (.getc w) s = .next (s.emits f w.t0 w.t1 .data x)
    let flag (b : Bool) : Nat := if b then 1 else 0
    reads 0 (.sc k.cycle) ∧
    reads 1 (.sc (BitVec.ofNat 64 (f.ctx + f.core * 2 ^ 8 + dieOf f.core * 2 ^ 16 + v.lau.part * 2 ^ 20))) ∧
    reads 2 (.sc v.ctl.ctagmask) ∧ reads 3 (.sc (BitVec.ofNat 64 (flag v.ctl.cancel))) ∧
    reads 4 (.sc (v.ctl.smode.zeroExtend 64)) ∧ reads 5 (.sc (k.xgen.zeroExtend 64)) ∧
    reads 6 (.sc v.ctl.hintdrop) ∧ reads 7 (.sc v.ctl.kvclip) ∧ reads 8 (.sc v.ctl.specfb) ∧
    reads 9 (.sc v.ctl.rpend) ∧ reads 10 (.sc v.ctl.rlim) ∧ reads 11 (.sc (BitVec.ofNat 64 (flag v.ctl.priv))) ∧
    reads 12 (.sc v.ctl.tcause) ∧ reads 13 (.sc v.ctl.tseq) ∧ reads 14 (.sc v.ctl.ttag) ∧ reads 15 (.sc v.ctl.tblk) ∧
    reads 18 (.sc (BitVec.ofNat 64 (flag v.ctl.inHandler + 2 * flag v.ctl.pending))) ∧
    (v.ctl.inHandler = false → reads 16 (.vec 0)) ∧
    ∀ (t : Trapped) (r : FRec), v.ctl.inHandler = true → v.trapped = some t → s.record f.core f.ctx t.num = some r →
      reads 16 (.vec (BitVec.ofNat 512 r.encode))) ∧
  ∀ (w : GWord) (s : State) (f : Firing) (i : Inst), ReadyG s w f i →
    PostsAndSends s (exec (.setc w) s) w f i [.setc w.value.toNat f.lval.scalar] f.lval ∧
    PostsAndSends s (exec (.setcFclr w) s) w f i [.fclr] f.lval

/-- TRAP of a DATA operand makes a SOFT record with the code and the operand in its detail and marks its instance;
ERET completes the exit of its instance and takes effect at commit: outside a handler the instance does not
commit and is marked with an ILLEGAL record of detail 0. Memory is unchanged. INSTANCE_TRAP of a marked oldest
instance squashes the instances of its strand, keeps the marking record, and writes cause, sequence number,
tag and block to ctl.tcause, ctl.tseq, ctl.ttag and ctl.tblk; with a handler the handler block is wanted as
instance 0 of the handler strand under the tag of depth 0, with an empty link stack, and without one the
context fails; memory is unchanged. The commit of an ERET leaves the handler and releases the marking record:
.replay wants the trapped instance again, .skip the block after it, or ends the context as HALT does. Choices
of the model in it: log 24 (the record of an ERET outside a handler has detail 0). (R30, R338, R340, R347,
R348, R49, R344, R345, R346) -/
def Obligations.TrapEntryAndReturn : Prop :=
  ((∀ (w : GWord) (s : State) (f : Firing) (i : Inst), ReadyG s w f i → i.marked = none → NoTableRecord s f →
    Marks s (exec (.trap w) s) f 12 (BitVec.ofNat 64 (w.value.toNat % 2 ^ 16 + f.lval.scalar.toNat % 2 ^ 48 * 2 ^ 16))) ∧
  (∀ (w : GWord) (s : State) (f : Firing) (i : Inst), s.sel = some f → Fires w.pm f → ExitOperand f →
    s.instOf f = some i → i.exit = none →
    ∃ t : State, exec (.eret w) s = .next t ∧ SameStore s t ∧ Received s t f.core [] ∧
      t.instOf f = some { i with exit := some ⟨f.idx, true, none, f.tag, [], none, false, some (decide (w.mode = 1))⟩ }) ∧
  ∀ (s : State) (c x : Nat) (i : Inst) (rest : List Inst) (e : Exit), (s.cx c x).phase = .running →
    (s.cx c x).ctl.inHandler = false → (s.cx c x).insts = i :: rest → i.hdl = false → s.commits c x i = true →
    i.exit = some e → e.eret.isSome = true → NoTableRecord s { instFiring c x i with idx := e.idx } →
    Marks s (exec (.instanceCommit c x) s) { instFiring c x i with idx := e.idx } 8 0) ∧
  ((∀ (s : State) (c x num : Nat) (i : Inst) (rest : List Inst) (r : FRec), (s.cx c x).insts = i :: rest →
    (s.cx c x).phase = .running → i.marked = some num → s.record c x num = some r →
    let u := s.cx c x
    ∃ t : State, exec (.instanceTrap c x) s = .next t ∧ t.mem = s.mem ∧ t.record c x num = some r ∧
      let v := t.cx c x
      v.insts = [] ∧ v.want = none ∧ v.nextSeq = i.seq ∧
      v.ctl.tcause = BitVec.ofNat 64 (r.kind + r.node * 2 ^ 8 + num * 2 ^ 16 + if i.exitDone then 2 ^ 32 else 0) ∧
      v.ctl.tseq = BitVec.ofNat 64 i.seq ∧ v.ctl.ttag = i.tag ∧
      v.ctl.tblk = BitVec.ofNat 64 (i.blk + r.index * 2 ^ 16 + i.nextBlock.getD 0xFFFF * 2 ^ 32) ∧
      (imgHandler u.lau.image ≠ 0xFFFF → u.ctl.inHandler = false → v.ctl.inHandler = true ∧ v.phase = .running ∧
        v.hWant = some ⟨imgHandler u.lau.image, BitVec.ofNat 64 (x * 2 ^ 61), 0, []⟩ ∧ v.trapped.isSome = true) ∧
      (imgHandler u.lau.image = 0xFFFF → v.phase = .failed ∧ v.hWant = none)) ∧
  ∀ (s : State) (c x : Nat) (i : Inst) (rest : List Inst) (e : Exit) (skip : Bool) (tr : Trapped),
    (s.cx c x).phase = .running → (s.cx c x).ctl.inHandler = true → (s.cx c x).hInsts = i :: rest →
    i.hdl = true → s.commits c x i = true → i.exit = some e → e.eret = some skip → (s.cx c x).trapped = some tr →
    ∃ t : State, exec (.instanceCommit c x) s = .next t ∧
      let v := t.cx c x
      v.ctl.inHandler = false ∧ v.trapped = none ∧ v.hInsts = [] ∧ v.hWant = none ∧ t.record c x tr.num = none ∧
      (skip = false → v.want = some ⟨tr.blk, tr.tag, tr.seq, tr.links⟩) ∧
      (skip = true → ∀ (d : Exit) (b : Nat), tr.exit = some d → d.done = true → d.start = some b →
        v.want = some ⟨b, d.tag, tr.seq + 1, d.links⟩ ∧ v.links = d.links) ∧
      (skip = true → (∀ d : Exit, tr.exit = some d → d.done = false ∨ d.start = none) →
        v.phase = .halting ∧ v.want = none))

/-- An image that the check passes meets the rules of header, tag fields, channels, in-list, block records, words
and variants; the check refuses a wrong magic at word 0 of the header with 1, and every refusal has a code
from 1 to 16. CFGLOAD with undefined options sends code 20; RELEASE sends 18 for a handle that is not
installed, 19 for one in use, and else 0 with the release left to the commit, each with the handle; an image
that a check refuses gives the code of the check, the block and the word, and installs nothing; CHECK of a
good image sends 0; a good image takes the lowest free handle, installed for the instance until it commits, or
gives 17; memory is unchanged. Choices of the model in it: log 46 (words that a verdict reads), log 93 (block
and word where none is refused, the alignment of an image). (R94, R95, R96, R97, R98) -/
def Obligations.ImageLoads : Prop :=
  (∀ (fail : Nat → Option Bar) (img : List Word), runStages fail (checkStages img) = .pass → ImageMeets img) ∧
  (∀ (fail : Nat → Option Bar) (img : List Word), fail 0 = none → imgNat img 0 4 ≠ 0x0D721A6E →
    runStages fail (checkStages img) = .refuse 1 0xFFFF 0) ∧
  (∀ (fail : Nat → Option Bar) (img : List Word) (code blk wrd : Nat),
    runStages fail (checkStages img) = .refuse code blk wrd → 1 ≤ code ∧ code ≤ 16) ∧
  ∀ (w : GWord) (s : State) (f : Firing) (p : Nat), s.sel = some f → Fires w.pm f →
    DataOnly (if w.imm then leftOnly f else both f) → s.partOfCore f.core = some p → p < s.parts.length →
    f.core < s.cores.length →
    let opts := (rightOf w f).scalar.toNat
    let out (code h blk wrd : Nat) : Val := .sc (BitVec.ofNat 64 (code + h * 2 ^ 8 + blk * 2 ^ 24 + wrd % 2 ^ 24 * 2 ^ 40))
    let sends (t : State) (code h blk wrd : Nat) : Prop :=
      exec (.cfgload w) s = .next t ∧ t.mem = s.mem ∧
        Received s t f.core (deliveries s f w.t0 w.t1 ⟨f.tag, .data, out code h blk wrd⟩)
    let h := bits f.lval.scalar 15 0
    let images := (s.part p).images
    let a := f.lval.scalar.toNat
    let u := s.cacheAcquire f.core
    let img := u.imageWords f a
    let verdict := runStages (u.imageErr f.core a) (checkStages img)
    let all := touched a (imgLength img)
    (4 ≤ opts → exec (.cfgload w) s = .next (s.emits f w.t0 w.t1 .data (out 20 0 0 0))) ∧
    (2 ≤ opts → opts < 4 →
      ((∀ m ∈ images, m.handle = h → m.alloc ≠ none) → exec (.cfgload w) s = .next (s.emits f w.t0 w.t1 .data (out 18 h 0 0))) ∧
      ((∃ m ∈ images, m.handle = h ∧ m.alloc = none) →
        (s.handleBusy p h = true → exec (.cfgload w) s = .next (s.emits f w.t0 w.t1 .data (out 19 h 0 0))) ∧
        (s.handleBusy p h = false → ∀ i : Inst, s.instOf f = some i → ∃ t : State, sends t 0 h 0 0 ∧ ImagesAre t p (images.map
          fun m => if m.handle = h ∧ m.alloc = none then { m with rel := ⟨f.core, f.ctx, f.hdl, f.seq⟩ :: m.rel } else m)))) ∧
    (opts < 2 → s.portTakes f = true → (s.core f.core).cache = [] →
      s.readAllowed f 0 [] = true →
      (∀ code blk wrd : Nat, verdict = .refuse code blk wrd → ∃ t : State, sends t code 0 blk wrd ∧ ImagesAre t p images) ∧
      (verdict = .pass → opts = 1 → ∃ t : State, sends t 0 0 0 0 ∧ ImagesAre t p images) ∧
      (verdict = .pass → opts = 0 → u.walkStalls f.core all = false → (s.part p).freeHandle = none →
        ∃ t : State, sends t 17 0 0 0 ∧ ImagesAre t p images) ∧
      ∀ (i : Inst) (n : Nat) (pas : List Nat), verdict = .pass → opts = 0 → u.walkStalls f.core all = false →
        s.instOf f = some i → (s.part p).freeHandle = some n →
        (u.fillTlb f.core all).check f.core .load a (imgLength img) 1 = .ok pas → u.linkDown f.core pas = false →
        ∃ t : State, sends t 0 n 0 0 ∧ ImagesAre t p (⟨n, img, some ⟨f.core, f.ctx, f.hdl, f.seq⟩, []⟩ :: images))

namespace Sys2Proof.Machine

/-- The firing's targets receive `v` as DATA; memory and partitions are as they were, and the next state is `t`. -/
def Answers (s : State) (o : Out) (w : EWord) (f : Firing) (t : State) (v : Val) : Prop :=
  o = .next t ∧ SameStore s t ∧ Received s t f.core (deliveries s f w.t0 w.t1 ⟨f.tag, .data, v⟩)

/-- Context `x` of core `c` has no take-in or save pending any more (R351). -/
def TakeInEnded (t : State) (c x : Nat) : Prop := (t.cx c x).takeIn = none ∧ (t.cx c x).ctl.pending = false

/-- A save or restore command leaves core `c` with a status, which its targets receive as DATA (R355). -/
def SaveEnds (s u : State) (o : Out) (c k : Nat) (m : Cmd) (status : Nat) : Prop :=
  ∃ t : State, o = .next t ∧ SameStore s t ∧ CmdsAre t c ((s.core c).cmds.eraseIdx k) ∧ TagDone t c m ∧
    CmdSent u t c m .data (.sc (BitVec.ofNat 64 status))

end Sys2Proof.Machine

/-- TAKEIN waits until its instance is the oldest and sends code and quad count: 3 with a take-in pending, 2 for a
limit that is not smaller, 1 without a smaller variant, else 0 with the count, and the request is due at
commit. TAKE_IN of a context with nothing in flight moves it to the smaller variant, with no token of it left
in the fabric, or, without one, saves it into the pool. TAKE_IN_TIMEOUT squashes what has not begun to commit,
and the oldest of it is wanted again. PANEL_GROWTH begins when the quads are free, and moves the panel when
nothing is in flight (log 27). Memory is unchanged. Choices of the model in it: log 49 (the order of the codes
of TAKEIN). (R351, R352, R353) -/
def Obligations.TakeIns : Prop :=
  (∀ (w : EWord) (s : State) (f : Firing) (i : Inst), ReadyE s w f leftOnly → s.keptOf f = none → s.instOf f = some i →
    let v := s.cx f.core f.ctx
    let n := f.lval.scalar.toNat
    let r (code count : Nat) : Val := .sc (BitVec.ofNat 64 (code + count * 2 ^ 8))
    (s.oldest f = false → exec (.takein w) s = .next (s.addPend ⟨.takein w, f, .held, 0⟩)) ∧
    (s.oldest f = true →
      (v.takePending = true → ∃ t : State, Answers s (exec (.takein w) s) w f t (r 3 v.quadsNow)) ∧
      (v.takePending = false → v.quadsNow ≤ n → ∃ t : State, Answers s (exec (.takein w) s) w f t (r 2 v.quadsNow)) ∧
      (v.takePending = false → n < v.quadsNow → v.smaller n = none →
        ∃ t : State, Answers s (exec (.takein w) s) w f t (r 1 v.quadsNow)) ∧
      ∀ k : Nat, v.takePending = false → n < v.quadsNow → v.smaller n = some k →
        ∃ t : State, Answers s (exec (.takein w) s) w f t (r 0 (variantQuads v.lau.image k)) ∧
          t.instOf f = some { i with post := i.post ++ [.takeIn n] })) ∧
  (∀ (s : State) (c x : Nat) (tk : TakeIn), let v := s.cx c x
    v.takeIn = some tk → v.movable = true → v.insts = [] → v.hInsts = [] → tk.quads ≤ v.quadsNow →
    s.savedBy c x = false →
    (∀ (n : Nat) (p : Panel), v.smaller tk.quads = some n → v.panel = some p →
      ∃ t : State, exec (.takeIn c x) s = .next t ∧ t.mem = s.mem ∧ TakeInEnded t c x ∧
        (t.cx c x).panel = some ⟨p.row, p.col, variantRows v.lau.image n, variantCols v.lau.image n, n, p.launched,
          p.selfIn || tk.bySelf⟩ ∧ ∀ fl ∈ (t.core c).fabric, fl.ctx ≠ x) ∧
    ∀ p : Nat, v.smaller tk.quads = none → (s.discardTokens c x).quiescent c x = true → s.partOfCore c = some p →
      p < s.parts.length → ∃ t : State, exec (.takeIn c x) s = .next t ∧ t.mem = s.mem ∧ (t.cx c x).phase = .free ∧
        ∃ e ∈ (t.part p).pool, e.core = c ∧ e.ctx = x ∧ e.area = [] ∧ e.cx.want = v.want ∧ e.cx.sks = v.sks ∧
          e.cx.takeIn = none) ∧
  (∀ (s : State) (c x : Nat) (tk : TakeIn) (i : Inst) (rest : List Inst), (s.cx c x).takeIn = some tk →
    tk.began + 4096 ≤ (s.core c).cycle.toNat → (s.cx c x).insts = i :: rest →
    (∀ j ∈ (s.cx c x).insts ++ (s.cx c x).hInsts, j.begun = false) →
    ∃ t : State, exec (.takeInTimeout c x) s = .next t ∧ t.mem = s.mem ∧ (t.cx c x).insts = [] ∧ (t.cx c x).hInsts = [] ∧
      (t.cx c x).want = some ⟨i.blk, i.tag, i.seq, i.links⟩ ∧ (t.cx c x).takeIn = some tk) ∧
  ∀ (s : State) (c x : Nat) (n : Panel), (s.cx c x).movable = true → s.growTo c x = some n →
    ((s.cx c x).takeIn = none → (s.cx c x).takePending = false →
      ∃ t : State, exec (.panelGrowth c x) s = .next t ∧ SameStore s t ∧ (t.cx c x).ctl.pending = true ∧
        (t.cx c x).takeIn = some ⟨n.rows * n.cols, (s.core c).cycle.toNat, false⟩) ∧
    ∀ tk : TakeIn, (s.cx c x).takeIn = some tk → (s.cx c x).quadsNow < tk.quads → (s.cx c x).insts = [] →
      (s.cx c x).hInsts = [] → ∃ t : State, exec (.panelGrowth c x) s = .next t ∧ t.mem = s.mem ∧
        (t.cx c x).panel = some n ∧ TakeInEnded t c x

/-- CTXSAVE and CTXREST join the commands of the core; a CTXSAVE that R355 refuses carries its status, and else
the target stops fetching. A completed CTXSAVE sends its status; 0 writes the save image into the checked
bytes and no other, as the scope of the command asks (R315), frees the context and holds it among the saved
ones; an area that is too small gives 4. The save image begins with its magic, version, context, core, handle,
incarnation and counts, and holds the control registers and soft tokens at their places (the layouts of log 14
are the model's). A completed CTXREST sends 2, 1, 3, 5 for an image without magic, version or installed
handle, or 4, or the context lives again with the sequence number and the soft tokens of the image, which is
read whole, as far as its counts go. A network command of a saved context that fails leaves its tag DONE with
the mark FAULT in the saved context. What memory reads as is said for memory in its canonical form. Choices of
the model in it: log 14 (layouts that R354 does not give, and an image without a saved context), log 51 (the
order of the statuses), log 71 (an RDMA READ of a saved context). (R315, R353, R354, R355, R356, R394) -/
def Obligations.SavesAndRestores : Prop :=
  (∀ (w : EWord) (s : State) (f : Firing), f.core < s.cores.length → s.portTakes f = true →
    s.takeTag f w.ctag.toNat = .noTag →
    (ReadyE s w f both → s.stallsTile (.ctxsave w) f = false →
      let x := w.mods.toNat % 8
      let v := s.cx f.core x
      let status := if v.phase = .free ∨ v.phase = .killed then 1 else if x = f.ctx then 2
        else if (s.cx f.core f.ctx).ctl.priv = false then 3 else if v.takePending = true then 5 else 0
      ∃ (t : State) (m : Cmd), exec (.ctxsave w) s = .next t ∧ SameStore s t ∧
        CmdsAre t f.core ((s.core f.core).cmds ++ [m]) ∧ m.i = .ctxsave w ∧ m.f = f ∧ m.status = status ∧
        (status = 0 → (t.cx f.core x).takeIn = some ⟨0, (s.core f.core).cycle.toNat, false⟩ ∧
          (t.cx f.core x).ctl.pending = true)) ∧
    (ReadyE s w f leftOnly → s.stallsTile (.ctxrest w) f = false → ∃ (t : State) (m : Cmd), exec (.ctxrest w) s = .next t ∧ SameStore s t ∧
      CmdsAre t f.core ((s.core f.core).cmds ++ [m]) ∧ m.i = .ctxrest w ∧ m.f = f ∧ m.status = 0)) ∧
  (∀ (w : EWord) (s : State) (c k p : Nat) (m : Cmd), s.cmd? c k = some m → PlainCmd s c m →
    s.portFull c (portOf m.f.elem) = false → s.partOfCore c = some p → p < s.parts.length →
    let x := w.mods.toNat % 8
    let v := s.cx c x
    (m.i = .ctxsave w →
      (m.status ≠ 0 → SaveEnds s s (exec (.ctxsaveCompletion c k) s) c k m m.status) ∧
      (m.status = 0 → v.movable = true → v.takeIn.isSome = true → v.insts = [] → v.hInsts = [] → m.f.ctx ≠ x →
        let u := s.discardTokens c x
        let bs := u.saveImage c x s.draw
        u.quiescent c x = true →
        (m.f.rval.scalar.toNat < bs.length →
          SaveEnds s u (exec (.ctxsaveCompletion c k) s) c k m 4) ∧
        let vas := vasIf m.f.lval.scalar.toNat 64 bs.length
        let u1 := u.fillTlb c vas
        ∀ pas : List Nat, bs.length ≤ m.f.rval.scalar.toNat → u.walkStalls c vas = false →
          u1.check c .store m.f.lval.scalar.toNat bs.length 64 = .ok pas → u1.linkDown c pas = false → s.memOk →
          NoLate u1 pas →
          ∃ t : State, exec (.ctxsaveCompletion c k) s = .next t ∧ (t.cx c x).phase = .free ∧
            CmdSent u1 t c m .data (.sc 0) ∧ Lands u1 t m.scope (List.zip pas bs) ∧
            ∃ e ∈ (t.part p).pool, e.core = c ∧ e.ctx = x ∧ e.cx.want = v.want ∧ e.cx.sks = v.sks)) ∧
    (m.i = .ctxrest w →
      let ends (status : Nat) : Prop := SaveEnds s s (exec (.ctxrestCompletion c k) s) c k m status
      (x = m.f.ctx → ends 2) ∧ (x ≠ m.f.ctx → v.phase ≠ .free → ends 1) ∧
      (x ≠ m.f.ctx → v.phase = .free → (s.cx c m.f.ctx).ctl.priv = false → ends 3) ∧
      (x ≠ m.f.ctx → v.phase = .free → (s.cx c m.f.ctx).ctl.priv = true →
        let a := m.f.lval.scalar.toNat
        let s1 := s.fillTlb c (vasIf a 64 2048)
        ∀ pas : List Nat, s.walkStalls c (vasIf a 64 2048) = false → s1.check c .island a 2048 64 = .ok pas →
          s1.linkDown c pas = false →
          let bs := s1.readPas c pas
          (bytesNat bs 0 4 ≠ 0x5A7E0D72 ∨ bytesNat bs 4 2 ≠ 1 ∨ (s.part p).installed (bytesNat bs 8 2) = none →
            SaveEnds s1 s1 (exec (.ctxrestCompletion c k) s) c k m 5) ∧
          ∀ (im : Image) (all : List Byte) (s2 : State), bytesNat bs 0 4 = 0x5A7E0D72 → bytesNat bs 4 2 = 1 →
            (s.part p).installed (bytesNat bs 8 2) = some im →
            State.readImage im.words c a (imageReads im.words) 2048 s1 = some (s2, .ok all) →
            let e := ((s2.savedOf p all).getD (s2.savedFrom p im.words all)).fromImage s2.draw all
            s2.roomFor c (e.recs.map (·.2)) = true →
            let u := { s2 with draw := s2.draw + 1 }.finishSave c k m 0
            (u.restoreCtx p e c x = none → SaveEnds s2 s2 (exec (.ctxrestCompletion c k) s) c k m 4) ∧
            ∀ t : State, u.restoreCtx p e c x = some t → x < (s.core c).cxs.length →
              exec (.ctxrestCompletion c k) s = .next t ∧ (t.cx c x).phase = e.cx.phase ∧
              (t.cx c x).nextSeq = bytesNat all 16 8 ∧
              (t.cx c x).sks = (List.range 16).map (fun n => BitVec.ofNat 512 (bytesNat all (256 + 64 * n) 64)) ∧
              ∀ o ∈ (t.part p).pool, o.id ≠ e.id))) ∧
  (∀ (s : State) (c x k : Nat), c < 72 → x < 8 →
    let bs := s.saveImage c x k
    let v := s.cx c x
    bytesNat bs 0 4 = 0x5A7E0D72 ∧ bytesNat bs 4 2 = 1 ∧ bytesNat bs 6 1 = x ∧ bytesNat bs 7 1 = c ∧
      bytesNat bs 8 2 = v.lau.handle % 2 ^ 16 ∧ bytesNat bs 10 1 = v.cgen.toNat ∧
      bytesNat bs 34 2 = v.slots.length % 2 ^ 16 ∧ bytesNat bs 36 4 = (s.ctxRecords c x).length % 2 ^ 32 ∧
      bytesNat bs 40 4 = v.kept.length % 2 ^ 32 ∧ bytesNat bs 44 4 = (s.pendingCmds c x).length % 2 ^ 32 ∧
      (∀ n : Nat, n < 19 → n ≠ 16 → bytesNat bs (64 + 8 * n) 8 = (s.ctlReg c x n).scalar.toNat) ∧
      ∀ r : Nat, r < 16 → bytesNat bs (256 + 64 * r) 64 = (v.sks.getD r 0).toNat) ∧
  ∀ (w : EWord) (s : State) (part n k j a status : Nat) (e : Saved) (m : Cmd) (g : Ctag), (s.part part).pool[n]? = some e →
    (((s.core e.core).cmds.mapIdx fun j m => (j, m)).filter fun t => t.2.f.ctx == 8 + e.id)[k]? = some (j, m) →
    m.i = .netsend w → m.st = .accepted → m.status = 0 → m.ctag = some a → (a, g) ∈ e.tags →
    s.portFull e.core (portOf m.f.elem) = false → s.linkDown e.core (m.pas ++ m.wordPas) = false → (status = 2 ∨ status = 3) →
    ∃ t : State, exec (.savedCommandCompletion part n k status) s = .next t ∧
      CmdsAre t e.core ((s.core e.core).cmds.eraseIdx j) ∧
      ∃ o ∈ (t.part part).pool, o.id = e.id ∧ ∃ (h : Ctag) (num : Nat), (a, h) ∈ o.tags ∧ h.st = .done ∧
        h.mark = .fault num

namespace Sys2Proof.Machine

/-- The first instance of a context: block `b`, depth 0, sequence number 0, an empty link stack (R55, R364). -/
def firstWant (x b : Nat) : Want := ⟨b, BitVec.ofNat 64 (x * 2 ^ 61), 0, []⟩

/-- A withdrawal under a key other than 0 has been made in a partition (R369, R370): no record with the key is left in a
queue or an assembly buffer, and every resident context of the partition whose record carried it is cancelled; `r` counts
the records removed and the contexts marked. Stated for a partition without saved contexts. -/
def Withdrawn (s t : State) (p : Nat) (key : Word) (r : Nat) : Prop :=
  (∀ q ∈ (t.part p).queues, ∀ o ∈ q.units.flatMap (·.recs) ++ q.asm, o.key ≠ key) ∧
  (∀ c x : Nat, (s.cx c x).phase ≠ .free → (s.cx c x).lau.key = key → (s.cx c x).lau.part = p →
    (t.cx c x).ctl.cancel = true) ∧
  t.mem = s.mem ∧
  r = ((s.part p).queues.map fun q => ((q.units.flatMap (·.recs) ++ q.asm).filter (·.key == key)).length).sum % 2 ^ 32 +
    (s.cores.map fun k => (k.cxs.filter fun v => v.phase != .free && v.lau.key == key && v.lau.part == p).length).sum
      % 2 ^ 16 * 2 ^ 32

/-- The reply of a network command (R395). -/
def reply (qp op value : Nat) : NetMsg := ⟨qp, 0, 0, 0, natBytes 8 op ++ natBytes 8 value⟩

/-- A lone record that was accepted stands at the end of its queue (R361). -/
def Queued (s t : State) (p q : Nat) (r : LRec) : Prop :=
  ((t.part p).queue q).units = ((s.part p).queue q).units ++ [⟨[r], s.dcyc⟩]

end Sys2Proof.Machine

/-- A record that is accepted names an installed handle, fits an enabled queue and is privileged only where its
writer may be. LAUNCH reads its record, and LAUNCH_RESERVE sends the status and the queue and reserves an
accepted record for its instance, or, when that has committed and nothing of it is left to release, queues it;
Q_DOOR and NET_LAUNCH give the status to their writer and queue an accepted lone record; a network command of
another form or op is answered with 2. WITHDRAW, PART_WDRAW and NET_WITHDRAW remove every record with the key,
cancel the contexts that carry it, and give the counts; a key of 0 gives 0. Choices of the model in it: log 64
(peers have no privilege, and the answer to a malformed command). (R358, R360, R361, R365, R367, R368, R369,
R370, R384, R390, R395) -/
def Obligations.Launches : Prop :=
  (∀ (s : State) (p q : Nat) (mayPriv : Bool) (b : List Byte), s.recStatus p q mayPriv b = 0 →
    ((s.part p).installed (recOf b).handle).isSome = true ∧ ((s.part p).queue q).enabled = true ∧
    ((recOf b).priv = true → mayPriv = true) ∧ ((s.part p).queue q).records.length < 256 ∧ (recOf b).prio ≤ 7) ∧
  (∀ (w : EWord) (s : State) (f : Firing) (pas : List Nat), ReadyE s w f leftOnly → s.portTakes f = true →
    let vas := vasIf f.lval.scalar.toNat 64 128
    s.walkStalls f.core vas = false → (s.fillTlb f.core vas).check f.core .island f.lval.scalar.toNat 128 64 = .ok pas →
    exec (.launch w) s = .next ((s.fillTlb f.core vas).addPend ⟨.launch w, f, .load pas [], 0⟩)) ∧
  (∀ (w : EWord) (s : State) (c x k p : Nat) (q : Pend) (pas : List Nat), PendAt s c x k q → q.i = .launch w →
    q.st = .load pas [] → s.heldBack q.f 0 = false → s.linkDown c pas = false → s.partOfCore c = some p →
    let n := w.mods.toNat % 16
    let b := s.readPas c pas
    let st := s.recStatus p n (s.cx c x).ctl.priv b
    (s.part p).releasing (recOf b).handle = false → s.entryWaits q.f = false → (∀ pa ∈ pas, s.badIsland c pa = false) →
    ∃ t : State, exec (.launchReserve c x k) s = .next t ∧
      ((s.instOf q.f).isSome = true ∨ NoDirty s c → t.mem = s.mem) ∧ (t.cx c x).pend = (s.cx c x).pend.eraseIdx k ∧
      Received s t c (deliveries s q.f w.t0 w.t1 ⟨q.f.tag, .data, .sc (BitVec.ofNat 64 (st + n * 2 ^ 8))⟩) ∧
      (st ≠ 0 → t.parts = s.parts) ∧
      (st = 0 → ∀ i : Inst, s.instOf q.f = some i → ((t.part p).queue n).resv =
        ((s.part p).queue n).resv ++ [(recOf b, ⟨c, x, q.f.hdl, q.f.seq⟩)]) ∧
      (st = 0 → s.instOf q.f = none → (recOf b).gcount < 2 → Queued s t p n (recOf b))) ∧
  (∀ (s : State) (cc p q : Nat) (addr : Word), s.ccOwns cc p = true → p < s.parts.length →
    q < (s.part p).queues.length → cc < ((s.part p).queue q).door.length → cc < 8 → addr.toNat % 64 = 0 →
    addr.toNat < 2 ^ 52 → (∀ j : Nat, j < 128 → s.owned p (addr.toNat + j) = true) →
    let b := Memory.read s.mem addr.toNat 128
    let st := s.recStatus p q ((s.part p).mayPriv cc) b
    (s.part p).releasing (recOf b).handle = false → ∃ t : State, exec (.qDoor cc p q addr) s = .next t ∧
      t.mem = s.mem ∧ ((t.part p).queue q).door[cc]? = some st ∧
      (st ≠ 0 → ((t.part p).queue q).units = ((s.part p).queue q).units) ∧
      (st = 0 → (recOf b).gcount < 2 → Queued s t p q (recOf b))) ∧
  (∀ (s : State) (qp : Nat) (data : List Byte), (s.qp qp).commands = true →
    let b := data.drop 8
    let p := (s.qp qp).part
    let q := bytesNat data 1 1
    (bytesNat data 0 1 = 1 → netForm data 136 = true → (s.part p).releasing (recOf b).handle = false →
      let st := s.recStatus p q false b
      ∃ t : State, exec (.netLaunch qp data) s = .next t ∧ t.mem = s.mem ∧ t.netTx = s.netTx ++ [reply qp 1 st] ∧
        (st = 0 → (recOf b).gcount < 2 → Queued s t p q (recOf b))) ∧
    (bytesNat data 0 1 = 1 → netForm data 136 = false →
      exec (.netLaunch qp data) s = .next { s with netTx := s.netTx ++ [reply qp 1 2] }) ∧
    (bytesNat data 0 1 = 2 → netForm data 16 = false →
      exec (.netWithdraw qp data) s = .next { s with netTx := s.netTx ++ [reply qp 2 2] }) ∧
    (bytesNat data 0 1 ≠ 1 → bytesNat data 0 1 ≠ 2 →
      exec (.netBadOp qp data) s = .next { s with netTx := s.netTx ++ [reply qp (bytesNat data 0 1) 2] })) ∧
  (∀ (s : State) (p : Nat) (key : Word), key ≠ 0 → (s.part p).pool = [] → p < s.parts.length →
    (∀ (w : EWord) (f : Firing), ReadyE s w f leftOnly → s.keptOf f = none → s.oldest f = true →
      s.partOfCore f.core = some p → f.core < s.cores.length → f.lval.scalar = key → ∃ (t : State) (r : Nat), exec (.withdraw w) s = .next t ∧
        Withdrawn s t p key r ∧ Received s t f.core (deliveries s f w.t0 w.t1 ⟨f.tag, .data, .sc (BitVec.ofNat 64 r)⟩)) ∧
    (∀ cc : Nat, s.ccOwns cc p = true → cc < (s.part p).wdraw.length → ∃ (t : State) (r : Nat),
      exec (.partWdraw cc p key) s = .next t ∧ Withdrawn s t p key r ∧
        (t.part p).wdraw[cc]? = some (BitVec.ofNat 64 r)) ∧
    ∀ (qp : Nat) (data : List Byte), (s.qp qp).commands = true → (s.qp qp).part = p → bytesNat data 0 1 = 2 →
      netForm data 16 = true → key = BitVec.ofNat 64 (bytesNat data 8 8) → ∃ (t : State) (r : Nat),
        exec (.netWithdraw qp data) s = .next t ∧ Withdrawn s t p key r ∧ t.netTx = s.netTx ++ [reply qp 2 r]) ∧
  ∀ (w : EWord) (s : State) (f : Firing), ReadyE s w f leftOnly → s.keptOf f = none → s.oldest f = true →
    f.lval.scalar = 0 → f.core < s.cores.length → ∃ t : State, Answers s (exec (.withdraw w) s) w f t (.sc 0)

/-- When the best candidate is a lone record that can be bound, DISPATCH takes it from its queue and gives it a
free context on a core of the partition and the queue: running, of the record's image, key, tags and
privilege, with the next incarnation, a frame of the image's slots, and the first block wanted as instance 0
under the tag of depth 0. When the only candidate lacks contexts, a victim begins to be saved. RESUME_RESTORE
gives the best saved context a free context on its own core, with its sequence number, slots and soft tokens.
(R55, R361, R362, R364, R366) -/
def Obligations.Dispatching : Prop :=
  (∀ (s : State) (p q : Nat) (a : CandAt) (rest : List CandAt) (r : LRec) (entered : Nat) (im : Image),
    (s.part p).resetBusy = false → s.cores.length = 72 → s.candidates p = a :: rest →
    a.what = .unit q ⟨[r], entered⟩ → (∀ o ∈ (s.part p).queues, o.waiting = []) → (s.part p).installed r.handle = some im → q < (s.part p).queues.length →
    (s.tryCand p [] a.what).isSome = true →
    ∃ (t : State) (c x : Nat), exec (.dispatch p) s = .next t ∧ (s.cx c x).phase = .free ∧
      (s.part p).cores.toNat.testBit c = true ∧ ((s.part p).queue q).cores.toNat.testBit c = true ∧
      let v := t.cx c x
      v.phase = .running ∧ v.lau.part = p ∧ v.lau.handle = r.handle ∧ v.lau.image = im.words ∧ v.lau.key = r.key ∧
      v.ctl.ctagmask = r.tags ∧ v.ctl.priv = r.priv ∧ v.ctl.inHandler = false ∧ v.insts = [] ∧
      v.want = some (firstWant x (blkFirst im.words)) ∧ v.cgen = (s.cx c x).cgen + 1 ∧
      v.slots.length = imgNslots im.words ∧
      ((t.part p).queue q).units = ((s.part p).queue q).units.drop 1) ∧
  (∀ (s : State) (p c x : Nat) (a : CandAt) (v : Ctx), (s.part p).resetBusy = false → s.candidates p = [a] →
    s.tryCand p [] a.what = none → s.lacksCtx p a.what = true →
    (∀ e ∈ s.ctxsOn (s.candCores p a.what), ∀ k : TakeIn, e.2.2.takeIn = some k → k.quads ≠ 0) →
    pickVictim ((s.ctxsOn (s.candCores p a.what)).filter fun e => e.2.2.victim a.e) = some (c, x, v) →
    exec (.dispatch p) s = .next (s.beginTakeIn c x 0 false)) ∧
  ∀ (s u : State) (p x : Nat) (a : CandAt) (rest : List CandAt) (e : Saved), (s.part p).resetBusy = false →
    s.candidates p = a :: rest → a.what = .saved e → e.core ∈ (s.part p).coreList → e.core < s.cores.length →
    (s.core e.core).freeCtx? = some x → s.roomFor e.core (e.recs.map (·.2)) = true →
    s.restoreCtx p e e.core x = some u → ∃ t : State, exec (.resumeRestore p) s = .next t ∧
      (t.cx e.core x).phase = e.cx.phase ∧ (t.cx e.core x).nextSeq = e.cx.nextSeq ∧
      (t.cx e.core x).slots = e.cx.slots ∧ (t.cx e.core x).sks = e.cx.sks ∧ ∀ o ∈ (t.part p).pool, o.id ≠ e.id

namespace Sys2Proof.Machine

/-- A token of the fabric may arrive (R40, R42, R244): it has left its output slot, none goes first, and the panel's limiter
lets it pass. -/
def MayArrive (s : State) (c k : Nat) (fl : Flight) : Prop :=
  (s.core c).fabric[k]? = some fl ∧ fl.out = none ∧ ((s.core c).fabric.take k).any (s.goesFirst c · fl) = false ∧
  (64 ≤ fl.src → (s.cx c fl.ctx).rateOk = true)

/-- The entry that a token takes (R60). -/
def EntryOf (fl : Flight) (slot : Nat) (p : Pos) (e : Ent) : Prop :=
  e.ctx = fl.ctx ∧ e.slot = slot ∧ e.pos = p ∧ e.tok = fl.tok ∧ e.hdl = fl.hdl ∧ e.own = fl.seq

/-- The token has left the fabric. -/
def Left (s t : State) (c k : Nat) : Prop := (t.core c).fabric = (s.core c).fabric.eraseIdx k

/-- The target that a failing word's field names, where R69 and R70 let it stand (R108); a word of format X has none. -/
def illegalTarget (img : List Word) (b : Blk) (word : Word) (code : Nat) : Target :=
  if code ≠ 0x1FF ∧ (xBuild (wordOp word)).isNone = true ∧ targetR70 img b code = true then (Target.ofCode? code).getD .none else .none

end Sys2Proof.Machine

/-- A token in an output slot, one that another of its way and context precedes, and one whose context is being
reconfigured on the element stay in the fabric. One for an operand position takes an entry of the store of 64,
arrived later than all others, else one of the overflow area, of 256 entries, whose bytes go to the first of
two free lines of FRAME, and waits while both are full. One for a frame write or a channel is held by its
instance, and a FAULT there marks it. ILLEGAL makes an ILLEGAL record that holds the word and sends a FAULT to
the targets that are valid, or marks the instance without one. What memory reads as is said for memory in its
canonical form. Choices of the model in it: log 9 (the lowest free FRAME place), log 20 (a reconfiguration
holds a token at the input), log 94 (a token in an output slot stays), log 25 (the bytes of an overflow
entry), log 33 (whose channel and frame-write tokens are), log 109 (a target is tested against the block of
the image). (R30, R40, R42, R47, R57, R60, R61, R62, R64, R108, R244) -/
def Obligations.TokenArrivals : Prop :=
  (∀ (s : State) (c k : Nat) (fl : Flight), (s.core c).fabric[k]? = some fl →
    fl.out ≠ none ∨ ((s.core c).fabric.take k).any (s.goesFirst c · fl) = true ∨
      (∃ (e slot : Nat) (p : Pos), fl.dest = .pos e slot p ∧ ∃ r ∈ (s.elem c e).reconf, r.ctx = fl.ctx) →
    exec (.tokenArrival c k) s = .next s) ∧
  (∀ (s : State) (c k n : Nat) (fl g : Flight), (s.core c).fabric[k]? = some fl → n < k → (s.core c).fabric[n]? = some g →
    g.src = fl.src → g.ctx = fl.ctx → (∃ (e m o : Nat) (p q : Pos), g.dest = .pos e m p ∧ fl.dest = .pos e o q) →
    ((s.core c).fabric.take k).any (s.goesFirst c · fl) = true) ∧
  (∀ (s : State) (c k e slot : Nat) (p : Pos) (fl : Flight), MayArrive s c k fl → fl.dest = .pos e slot p →
    (∀ r ∈ (s.elem c e).reconf, r.ctx ≠ fl.ctx) → e < (s.core c).elems.length →
    ((s.elem c e).store.length < 64 → ∃ (t : State) (n : Ent), exec (.tokenArrival c k) s = .next t ∧ Left s t c k ∧
      SameStore s t ∧ (t.elem c e).store = (s.elem c e).store ++ [n] ∧ EntryOf fl slot p n ∧
      (∀ o ∈ (s.elem c e).all, o.arr < n.arr)) ∧
    (64 ≤ (s.elem c e).store.length → (s.elem c e).ovf.length < 256 → ∀ b : Nat × Nat, (s.core c).ovfLines = some b → s.memOk →
      ∃ (t : State) (n : Ent), exec (.tokenArrival c k) s = .next t ∧ Left s t c k ∧
        (t.elem c e).ovf = (s.elem c e).ovf ++ [n] ∧ EntryOf fl slot p n ∧ n.base = some b ∧
        (∀ a : Nat, a < frameAddr c b.1 ∨ frameAddr c b.1 + 64 ≤ a → Memory.get t.mem a = Memory.get s.mem a)) ∧
    (64 ≤ (s.elem c e).store.length → 256 ≤ (s.elem c e).ovf.length ∨ (s.core c).ovfLines = none → exec (.tokenArrival c k) s = .next s)) ∧
  (∀ (s : State) (c k : Nat) (fl : Flight) (i : Inst), MayArrive s c k fl → (s.cx c fl.ctx).inst fl.hdl fl.seq = some i →
    (∀ e slot p, fl.dest ≠ .pos e slot p) → ∃ t : State, exec (.tokenArrival c k) s = .next t ∧ Left s t c k ∧
      t.mem = s.mem ∧ ∃ j : Inst, (t.cx c fl.ctx).inst fl.hdl fl.seq = some j ∧
        (∀ d : Nat, fl.dest = .write d → (∀ w ∈ i.writes, w.1 ≠ d) → j.writes = i.writes ++ [(d, fl.tok)]) ∧
        (∀ ch o : Nat, fl.dest = .chan ch o → (∀ w ∈ i.chans, w.1 = ch → w.2.1 ≠ o) →
          j.chans = i.chans ++ [(ch, o, fl.tok)]) ∧
        (fl.tok.kind ≠ .fault → j.marked = i.marked) ∧
        (fl.tok.kind = .fault → i.marked = none → j.marked = some (fl.tok.val.scalar.toNat % 65536))) ∧
  ∀ (s : State) (f : Firing) (i : Inst) (word : Word), s.sel = some f → s.instOf f = some i → i.marked = none →
    NoTableRecord s f →
    let b := blkAt (imgOf s f) i.blk
    let t0 := illegalTarget (imgOf s f) b word (bits word 52 44)
    let t1 := illegalTarget (imgOf s f) b word (bits word 43 35)
    ∃ (t : State) (num : Nat) (r : FRec), exec (.illegal word) s = .next t ∧ t.mem = s.mem ∧
      t.record f.core f.ctx num = some r ∧ r.kind = 8 ∧ r.detail = word ∧ r.index = f.idx ∧
      (t0 ≠ .none ∨ t1 ≠ .none → Received s t f.core (deliveries s f t0 t1 ⟨f.tag, .fault, faultVal num⟩)) ∧
      (t0 = .none → t1 = .none → t.instOf f = some { i with marked := some num })

/-- MANAGEMENT_PAGE_WRITE of an owner leaves a reconfiguration token of one word on the element. RECONFIGURATION
waits for the entries of its context to drain and then writes that word of that context's page and no other.
ELEMENT_CONTEXT_SWITCH makes the next ready context present. MATCH_STALL marks the oldest instance of the
running strand with a MATCH_STALL record of the stalled token. CHANNEL_ENTRY_ARRIVAL moves the oldest entry in
transit into the FIFO and its bytes into FRAME; SEAM_CREDIT returns up to 32 credits. What memory reads as is
said for memory in its canonical form. Choices of the model in it: log 25 (where the bytes of a channel entry
stand), log 67 (the fields of a MATCH_STALL record), log 103 (a management page write is queued at once).
(R53, R59, R63, R64, R108, R334, R335) -/
def Obligations.Elements : Prop :=
  (∀ (s : State) (cc c e x slot : Nat) (word : Word), e < (s.core c).elems.length →
    (s.ccOwnsCore cc c = true → exec (.managementPageWrite cc c e x slot word) s =
      .next (s.setElem c e { s.elem c e with reconf := (s.elem c e).reconf ++ [⟨x, [(slot, word)], none⟩] })) ∧
    (s.ccOwnsCore cc c = false → ∃ t : State, exec (.managementPageWrite cc c e x slot word) s = .next t ∧
      t.mem = s.mem ∧ t.cores = s.cores)) ∧
  (∀ (s : State) (c e k slot : Nat) (r : Reconf) (word : Word), (s.elem c e).reconf[k]? = some r →
    ((∃ n ∈ (s.elem c e).all, n.ctx = r.ctx) → exec (.reconfiguration c e k) s = .next s) ∧
    (((s.elem c e).reconf.take k).any (·.ctx == r.ctx) = false → (∀ n ∈ (s.elem c e).all, n.ctx ≠ r.ctx) →
      r.words = [(slot, word)] → r.ctx < (s.elem c e).pages.length → slot < ((s.elem c e).pages.getD r.ctx []).length →
      ∃ t : State, exec (.reconfiguration c e k) s = .next t ∧ SameStore s t ∧
        (t.elem c e).reconf = (s.elem c e).reconf.eraseIdx k ∧
        ((t.elem c e).pages.getD r.ctx [])[slot]? = some word ∧
        (∀ n : Nat, n ≠ slot → ((t.elem c e).pages.getD r.ctx [])[n]? = ((s.elem c e).pages.getD r.ctx [])[n]?) ∧
        (∀ x : Nat, x ≠ r.ctx → (t.elem c e).pages[x]? = (s.elem c e).pages[x]?))) ∧
  (∀ (s : State) (c e x : Nat) (rest : List Nat), s.othersReady c e = x :: rest →
    s.readyOn c (s.elem c e).present e = [] ∨ 256 ≤ (s.elem c e).run → exec (.elementContextSwitch c e) s =
      .next (s.setElem c e { s.elem c e with present := x, run := 0 })) ∧
  (∀ (s : State) (c e : Nat) (n : Ent) (i : Inst) (rest : List Inst), e ≠ 64 → 65536 ≤ (s.elem c e).stall →
    e < (s.core c).elems.length → firstEnt (s.elem c e).all = some n →
    let v := s.cx c n.ctx
    v.strand v.ctl.inHandler = i :: rest → i.marked = none →
    (∀ r ∈ v.recTab, ¬ (r.2.hdl = v.ctl.inHandler ∧ r.2.seq = i.seq)) →
    ∃ (t : State) (num : Nat) (r : FRec), exec (.matchStall c e) s = .next t ∧ t.mem = s.mem ∧ (t.elem c e).stall = 0 ∧
      t.record c n.ctx num = some r ∧ r.kind = 11 ∧ r.tag = n.tok.tag ∧ r.index = 32 * posOf e + n.slot ∧
      (t.cx c n.ctx).inst v.ctl.inHandler i.seq = some { i with marked := some num }) ∧
  (∀ (s : State) (c x slot : Nat) (q : Fifo) (k : Kind) (v : Val) (rest : List (Kind × Val)),
    (s.cx c x).fifo slot = some q → s.chanStalls c x slot = false → q.transit = (k, v) :: rest → s.memOk →
    let a := q.addr c q.ents.length
    let n := if v.isVec then 64 else 8
    ∃ t : State, exec (.channelEntryArrival c x slot) s = .next t ∧
      (t.cx c x).fifo slot = some { q with transit := rest, ents := q.ents ++ [(k, v.isVec)] } ∧
      Memory.read t.mem a n = natBytes n v.wide ∧
      ∀ b : Nat, b < a ∨ a + n ≤ b → Memory.get t.mem b = Memory.get s.mem b) ∧
  ∀ (s : State) (c x slot : Nat) (q : Fifo), (s.cx c x).fifo slot = some q → s.chanStalls c x slot = false →
    ∃ t : State, exec (.seamCredit c x slot) s = .next t ∧ SameStore s t ∧ (t.cx c x).fifo slot =
      some { q with window := q.window + min 32 q.credits, credits := q.credits - min 32 q.credits }

namespace Sys2Proof.Machine

/-- The firing that stands for the whole of an instance: index `n` of it. -/
def wholeOf (c x : Nat) (i : Inst) (n : Nat) : Firing := ⟨c, 0, x, i.hdl, i.seq, n, i.tag, i.blk, none, none, none⟩

/-- What a read descriptor of an instance sends to one of its targets (R52, R81); `order` places a channel token. -/
def readTo (s : State) (c x : Nat) (i : Inst) (t : Target) (order : Nat) (k : Kind) (v : Val) : List Flight :=
  match destOf (elemAt ((s.cx c x).quadOfBlock i.blk) 0) 0 t 0 with
  | none => []
  | some (.chan ch _) => [⟨srcFrame, x, i.hdl, i.seq, .chan ch order, ⟨i.tag, k, v⟩, none⟩]
  | some d => [⟨srcFrame, x, i.hdl, i.seq, d, ⟨i.tag, k, v⟩, none⟩]

/-- Descriptor `d` of instance number `n` in flight has been read as kind and value: both targets are sent it, and the
descriptor is read (R52, R53). -/
def ReadDone (s : State) (o : Out) (c x : Nat) (i : Inst) (d : Nat) (k : Kind) (v : Val) : Prop :=
  let r := rdDesc (s.cx c x).lau.image (blkAt (s.cx c x).lau.image i.blk) d
  ∃ (t : State) (j : Inst), o = .next t ∧ SameStore s t ∧
    Received s t c (readTo s c x i r.t0 (2 * d) k v ++ readTo s c x i r.t1 (2 * d + 1) k v) ∧
    (t.cx c x).inst i.hdl i.seq = some j ∧ d ∈ j.reads

/-- An instance has its frame reads done and its block has no FENCE. -/
def ReadsDone (s : State) (c x : Nat) (i : Inst) : Prop :=
  (∀ d : Nat, d < (blkAt (s.cx c x).lau.image i.blk).nreads → d ∈ i.reads) ∧
  ∀ w ∈ s.words c x i, ∀ m : MWord, w.i ≠ .fence m

/-- An instance has its reads done, its block has no FENCE, and it has reserved no launch record. -/
def NoReservation (s : State) (c x : Nat) (i : Inst) : Prop :=
  ReadsDone s c x i ∧ s.reserves ⟨c, x, i.hdl, i.seq⟩ = false

/-- Nothing holds up what an instance makes visible (R148, R149, R396): the loads, atomics and acquires of it and of what came
before it have been performed, and no link has failed. -/
def Settled (s : State) (c x : Nat) (i : Inst) : Prop :=
  ReadsDone s c x i ∧ (∀ l ∈ s.links, l.failed = false) ∧ s.acquiresToCome (wholeOf c x i 1000) 1000 = false ∧
  s.returnsWait (wholeOf c x i 1000) 1000 = false

/-- An instance that commits with nothing but its buffered stores and its exit (R48): it writes no frame slot and no
channel. -/
def OnlyStores (s : State) (c x : Nat) (i : Inst) : Prop :=
  NoReservation s c x i ∧ i.writes = [] ∧ i.chans = [] ∧
  ∀ b ∈ i.stores, b.copyDst = [] ∧ b.shown = false ∧ b.lsid < 32 ∧ ∀ e ∈ b.bytes, s.inSize e.1 = true

/-- The oldest instance `i` of the strand that a context runs may commit (R47), and has not begun to. -/
def MayCommit (s : State) (c x : Nat) (i : Inst) : Prop :=
  (s.cx c x).phase = .running ∧ ((s.cx c x).strand (s.cx c x).ctl.inHandler).head? = some i ∧
  i.hdl = (s.cx c x).ctl.inHandler ∧ s.commits c x i = true ∧ i.begun = false

/-- The bytes of an instance's stores, in LSID order (R48 step 3). -/
def storedBytes (i : Inst) : List (Nat × Byte) :=
  ((List.range 32).flatMap fun k => i.stores.filter (·.lsid == k)).flatMap (·.bytes)

end Sys2Proof.Machine

/-- BLOCK_FETCH puts the wanted instance of the next context in turn into the window, with its block, tag,
sequence number and link stack, and sends the block's words to the elements of a quad that holds none; it does
nothing when nothing can be fetched. BOBBIN_ALLOCATION gives a waiting exit the next value of its field and
completes it, and waits while the field throttles; after 65,536 cycles TAG_EXHAUST marks the instance with a
TAG_EXHAUST record that holds the field. FRAME_READ and CHANNEL_SLOT_READ of a descriptor that is still to be
read send the token of its slot to both targets and change neither memory nor partitions, and they wait while
there is none. An ordinary slot reads as FRAME holds it for the oldest instance, and as the youngest older
instance writes it when that has written a token other than NULL; an instance whose commit has begun has made
its writes. (R36, R38, R39, R44, R50, R64, R373, R51, R52, R53, R81) -/
def Obligations.FetchAndSlotReads : Prop :=
  ((∀ (s : State) (c x : Nat) (w : Want), x = ((s.core c).fetchLast + 1) % 8 → s.fetchable c x = some w →
    let v := s.cx c x
    let h := v.ctl.inHandler
    ∃ t : State, exec (.blockFetch c) s = .next t ∧ SameStore s t ∧ (t.core c).fetchLast = x ∧
      (t.cx c x).strand h = v.strand h ++ [⟨w.seq, h, w.blk, w.tag, w.links, none, [], [], [], 0, [], [], [], [], none, false⟩] ∧
      (if h then (t.cx c x).hWant else (t.cx c x).want) = none ∧
      ((∀ g ∈ v.held, g.1 ≠ v.quadOfBlock w.blk) → ∀ p : Nat, 32 * p < (blkAt v.lau.image w.blk).icount →
        elemAt (v.quadOfBlock w.blk) p < (s.core c).elems.length →
        ∃ r ∈ (t.elem c (elemAt (v.quadOfBlock w.blk) p)).reconf, r.ctx = x ∧ r.blk = some w.blk ∧
          r.words = (blockPage v.lau.image w.blk p).mapIdx fun n y => (n, y))) ∧
  (∀ (s : State) (c : Nat), (∀ x : Nat, x < 8 → s.fetchable c x = none) → exec (.blockFetch c) s = .next s) ∧
  ∀ (s : State) (c x fld : Nat) (i : Inst) (e : Exit), (s.cx c x).waiter = some (i, e, fld) →
    (s.throttles c x fld = true → exec (.bobbinAllocation c x) s = .next s) ∧
    (s.throttles c x fld = false → fld < (s.cx c x).bobNext.length → ∀ b : Nat, e.start = some b →
      let img := (s.cx c x).lau.image
      let n := (s.cx c x).bobNext.getD fld 0
      ∃ t : State, exec (.bobbinAllocation c x) s = .next t ∧ SameStore s t ∧
        (t.cx c x).bobNext = (s.cx c x).bobNext.set fld ((n + 1) % 2 ^ fieldWidth img fld) ∧
        t.wanted (wholeOf c x i 0) = some ⟨b, setTagField img e.tag fld n, i.seq + 1, e.links⟩) ∧
    ((s.cx c x).bobWait < 65536 → exec (.tagExhaust c x) s = .next s) ∧
    (65536 ≤ (s.cx c x).bobWait → i.marked = none → s.instOf (wholeOf c x i e.idx) = some i →
      NoTableRecord s (wholeOf c x i e.idx) →
      Marks s (exec (.tagExhaust c x) s) (wholeOf c x i e.idx) 10 (BitVec.ofNat 64 fld))) ∧
  ((∀ (s : State) (c x n d : Nat) (i : Inst) (k : Kind) (v : Val),
    ((s.cx c x).insts ++ (s.cx c x).hInsts)[n]? = some i → (s.cx c x).inst i.hdl i.seq = some i →
    d < (blkAt (s.cx c x).lau.image i.blk).nreads → d ∉ i.reads →
    let slot := (rdDesc (s.cx c x).lau.image (blkAt (s.cx c x).lau.image i.blk) d).slot
    (slot ∉ inList (s.cx c x).lau.image → s.frameRead c x i slot = some (k, v) →
      ReadDone s (exec (.frameRead c x n d) s) c x i d k v) ∧
    (slot ∉ inList (s.cx c x).lau.image → s.frameRead c x i slot = none → exec (.frameRead c x n d) s = .next s) ∧
    (slot ∈ inList (s.cx c x).lau.image → s.slotAcquires c x (rdDesc (s.cx c x).lau.image
        (blkAt (s.cx c x).lau.image i.blk) d) = false → s.chanRead c x i slot = some (k, v) →
      ReadDone s (exec (.channelSlotRead c x n d) s) c x i d k v) ∧
    (slot ∈ inList (s.cx c x).lau.image → s.chanRead c x i slot = none →
      exec (.channelSlotRead c x n d) s = .next s)) ∧
  ∀ (s : State) (c x n : Nat) (i : Inst),
    let v := s.cx c x
    let older := (v.strand i.hdl).filter fun o => o.seq < i.seq && !o.begun
    (older = [] → s.frameRead c x i n = s.slotTok c x n) ∧
    ∀ (o : Inst) (rest : List Inst) (j : Nat) (t : Tok), older.reverse = o :: rest →
      n ∈ wrSlots v.lau.image (blkAt v.lau.image o.blk) →
      (o.writes.find? fun w => wrRaw v.lau.image (blkAt v.lau.image o.blk) w.1 % 256 == n) = some (j, t) →
      t.kind ≠ .null → t.kind ≠ .fault → s.frameRead c x i n = some (t.kind, t.val))

/-- An instance without a completed exit, a marked one and one of a failed context do not commit. When the oldest
instance commits and nothing holds up what it makes visible, it leaves the window; when it writes no frame
slot and no channel, its buffered stores become visible in LSID order: with CACHE empty its strand reads the
last of them, and memory holds them, and no other byte changes, when their scope is DIE or wider or CACHE has
no banks; control registers, soft-token registers, completion tags and a take-in take the effects that were
due at the commit; HALT ends the context. A store that must wait for an acquire before it, or a release for a
load or atomic before it, leaves the instance oldest with its commit begun and memory unchanged; that the
other effects of such a commit wait too is the model's (log 7). A frame write other than NULL sets its slot
and the bytes of its value, and no other byte. What memory reads as is said for memory in its canonical form.
Choices of the model in it: log 7 (a commit is one step but for stores that must wait), log 34 (a failed
context commits nothing). (R47, R48, R132, R148, R149, R169, R273, R320, R350, R352, R396) -/
def Obligations.Commits : Prop :=
  (∀ (s : State) (c x : Nat) (i : Inst), ((s.cx c x).strand (s.cx c x).ctl.inHandler).head? = some i →
    i.begun = false → (i.exit = none ∨ i.marked.isSome = true ∨ (s.cx c x).phase = .failed) →
    exec (.instanceCommit c x) s = .next s) ∧
  (∀ (s : State) (c x : Nat) (i : Inst) (e : Exit), MayCommit s c x i → i.exit = some e → e.eret = none →
    Settled s c x i → ∃ t : State, exec (.instanceCommit c x) s = .next t ∧ (∀ o ∈ (t.cx c x).strand i.hdl, o.seq ≠ i.seq) ∧
      (e.halt = true → (t.cx c x).phase = .halting ∧ (t.cx c x).want = none) ∧
      (e.halt = false → (t.cx c x).phase = .running ∧ (t.cx c x).want = (s.cx c x).want) ∧
      (OnlyStores s c x i →
        ((s.core c).cache = [] → (∀ o ∈ s.cores, o.late = []) → s.memOk → ∀ (pa : Nat) (y : Byte),
          lastWrite (storedBytes i) pa = some y → t.readStrand c pa = y) ∧
        ((s.core c).cache = [] → (s.core c).split.cache = 0 ∨ (∀ b ∈ i.stores, 2 ≤ b.scope.code) →
          t.mem = Memory.putAll s.mem (storedBytes i)) ∧
        (i.post = [] → (t.cx c x).ctl = (s.cx c x).ctl ∧ (t.cx c x).sks = (s.cx c x).sks ∧
          (t.core c).ctags = (s.core c).ctags) ∧
        (∀ (n : Nat) (v : Word), i.post = [.setc n v] →
          let l := (t.cx c x).ctl
          (n = 4 → l.smode = if v.toNat % 4 = 3 then 0 else BitVec.ofNat 2 v.toNat) ∧
          (n = 6 → l.hintdrop = v) ∧ (n = 7 → l.kvclip = v) ∧ (n = 8 → l.specfb = v)) ∧
        (i.post = [.fclr] → ∀ g ∈ (t.core c).fregs, g.ctx ≠ x) ∧
        (∀ (r : Nat) (v : Vec), i.post = [.sk r v] → (t.cx c x).sks = (s.cx c x).sks.set r v) ∧
        (∀ (n : Nat) (o : Option Owner), i.post = [.clearTag n o] → n < (s.core c).ctags.length →
          ((s.core c).ctag n).owner = o → ((t.core c).ctag n).st = .free) ∧
        (i.post = [.specfb] → (t.cx c x).ctl.specfb = (s.cx c x).ctl.specfb + 1) ∧
        (∀ n : Nat, i.post = [.takeIn n] → (t.cx c x).takeIn.isSome = true))) ∧
  (∀ (s : State) (c x : Nat) (i : Inst) (e : Exit) (b : BStore), MayCommit s c x i → i.exit = some e → e.eret = none →
    ReadsDone s c x i → i.writes = [] → i.stores = [b] → b.shown = false → b.copyDst = [] → b.lsid < 32 →
    s.acquiresToCome (wholeOf c x i 1000) (b.lsid + 1) = true ∨
      (b.rel = true ∧ s.returnsWait (wholeOf c x i 1000) (b.lsid + 1) = true) →
    ∃ (t : State) (j : Inst), exec (.instanceCommit c x) s = .next t ∧ t.mem = s.mem ∧
      (t.cx c x).inst i.hdl i.seq = some j ∧ j.begun = true ∧ j.stores = [b]) ∧
  ∀ (s : State) (c x j : Nat) (i : Inst) (e : Exit) (w : Tok), MayCommit s c x i → i.exit = some e → e.eret = none →
    NoReservation s c x i → i.chans = [] → i.stores = [] → i.post = [] → i.writes = [(j, w)] → s.memOk →
    let v := s.cx c x
    let n := wrRaw v.lau.image (blkAt v.lau.image i.blk) j % 256
    let k := if w.val.isVec then 64 else 8
    ∃ t : State, exec (.instanceCommit c x) s = .next t ∧
      (w.kind = .null → t.mem = s.mem) ∧
      (w.kind ≠ .null → n < v.slots.length → (t.cx c x).slots[n]? = some ⟨true, w.kind, w.val.isVec⟩ ∧
        Memory.read t.mem (frameAddr c (v.fp + 64 * n)) k = natBytes k w.val.wide ∧
        ∀ a : Nat, a < frameAddr c (v.fp + 64 * n) ∨ frameAddr c (v.fp + 64 * n) + k ≤ a →
          Memory.get t.mem a = Memory.get s.mem a)

namespace Sys2Proof.Machine

/-- A write that a control core may not make, or of a value that the register does not define, changes neither memory nor a
core nor a setting of the partition: it is entered in a violation log (R357, R389). -/
def Refused (s : State) (o : Out) : Prop :=
  ∃ t : State, o = .next t ∧ t.mem = s.mem ∧ t.cores = s.cores ∧ t.dev = s.dev ∧ ∀ p : Nat,
    (t.part p).cores = (s.part p).cores ∧ (t.part p).owner = (s.part p).owner ∧ (t.part p).images = (s.part p).images

/-- The key of a page-in request (R390). -/
def requestKey (core ctx cgen port slot src : Nat) : Nat :=
  core % 2 ^ 8 + ctx % 2 ^ 3 * 2 ^ 8 + cgen % 2 ^ 8 * 2 ^ 16 + port % 2 ^ 5 * 2 ^ 24 + slot % 2 ^ 5 * 2 ^ 29 + src * 2 ^ 44

end Sys2Proof.Machine

/-- A halting context with no command, operation or scale token left ends: it is free, its incarnation stays, its
tokens are discarded, and the completion tags that it alone held are FREE. PART_KILL of an owner squashes a
resident context and discards its tokens and its collective and network commands; of another it is refused.
PART_RESET empties the queues and kills every context of the partition's cores; when none is left it removes
the handles and the fault log, and each core has the reset split, no CACHE line and FREE completion tags.
Choices of the model in it: log 41 (tags of an ended context), log 58 (what a halted context waits for), log
59 (pool.last). (R132, R213, R372, R376, R389, R390) -/
def Obligations.Endings : Prop :=
  (∀ (s : State) (c x : Nat), (s.cx c x).phase = .running → exec (.contextEnd c x) s = .next s) ∧
  (∀ (s : State) (c x : Nat), (s.cx c x).phase = .halting →
    (∀ m ∈ (s.core c).cmds, m.f.ctx = x → m.st = .finished ∨ m.orphan = true) →
    (∀ q ∈ (s.cx c x).pend, q.st = .wait) → (∀ e ∈ (s.core c).scaleFlights, e.2.f.ctx ≠ x) →
    ∃ t : State, exec (.contextEnd c x) s = .next t ∧ (t.cx c x).phase = .free ∧ (t.cx c x).cgen = (s.cx c x).cgen ∧
      (t.cx c x).panel = none ∧ (t.cx c x).slots = [] ∧ (∀ fl ∈ (t.core c).fabric, fl.ctx ≠ x) ∧
      ((s.part (s.cx c x).lau.part).resetBusy = false → t.mem = s.mem ∧
        ∀ n : Nat, n < (s.core c).ctags.length → bit (s.cx c x).ctl.ctagmask n = true →
          (∀ y : Nat, y ≠ x → (s.cx c y).phase ≠ .free → bit (s.cx c y).ctl.ctagmask n = false) →
          ((t.core c).ctag n).st = .free)) ∧
  (∀ (s : State) (cc p : Nat) (value : Word), let c := bits value 15 8
    let x := bits value 2 0
    (s.ccOwns cc p = false → Refused s (exec (.partKill cc p value) s)) ∧
    (s.ccOwns cc p = true → c < 72 → (s.cx c x).phase ≠ .free → (s.cx c x).phase ≠ .killed → s.partOfCore c = some p →
      ∃ t : State, exec (.partKill cc p value) s = .next t ∧ (t.cx c x).phase = .killed ∧ (t.cx c x).insts = [] ∧
        (t.cx c x).hInsts = [] ∧ (t.cx c x).want = none ∧ (t.cx c x).pend = [] ∧
        (∀ fl ∈ (t.core c).fabric, fl.ctx ≠ x) ∧
        (∀ m ∈ (t.core c).cmds, m.f.ctx = x → isColl m.i = false ∧ isNet m.i = false) ∧
        ((∀ m ∈ (s.core c).cmds, isNet m.i = false ∧ isColl m.i = false) → (∀ e ∈ (s.core c).scaleFlights, e.2.f.ctx ≠ x) →
          (∀ i ∈ (s.cx c x).insts ++ (s.cx c x).hInsts, i.begun = false) → t.mem = s.mem))) ∧
  ∀ (s : State) (cc p : Nat), s.ccOwns cc p = true → (s.part p).resetBusy = false → (s.part p).pool = [] →
    p < s.parts.length → ∃ t : State, exec (.partReset cc p 1) s = .next t ∧
      (∀ q ∈ (t.part p).queues, q.units = [] ∧ q.asm = [] ∧ q.resv = []) ∧
      (∀ c x : Nat, c < 72 → x < 8 → (s.part p).cores.toNat.testBit c = true →
        (t.cx c x).phase = .free ∨ (t.cx c x).phase = .killed) ∧
      ((∀ c : Nat, (s.part p).cores.toNat.testBit c = true → ∀ v ∈ (s.core c).cxs, v.phase = .free) →
        (t.part p).resetBusy = false ∧ (t.part p).images = [] ∧ (t.part p).flog = [] ∧ (t.part p).lock = false ∧
        ∀ c : Nat, c < 72 → c < s.cores.length → (s.part p).cores.toNat.testBit c = true →
          (t.core c).split = ⟨8, 40, 32, 16⟩ ∧ (t.core c).cache = [] ∧
          ∀ n : Nat, n < 64 → ((t.core c).ctag n).st = .free)

/-- PAGE_IN_REQUEST writes the key and the address of a record into the ring and advances its head, and waits
while the ring is full; PART_PREQ sets an empty ring. PART_REPLY repairs the record of its key, or releases a
REPAIR record and takes one from ctl.rpend, and is discarded without a record. RESUME_RETRY checks the access
that froze the node again: while it fails nothing changes, and once it passes its record is released and the
held accesses are made again (what passes is the model's reading of R252: log 97); RESUME_TRAP gives the
targets of the frozen access FAULT, marks its instance, and marks the completion of a COLL, which sends 0. A
control core that does not own the partition is refused. Memory outside the ring is unchanged. What memory
reads as is said for memory in its canonical form. Choices of the model in it: log 2 (held accesses are
moves), log 57 (a preq of 0 stands for address 0), log 55 (which check a retry makes). (R252, R340, R342,
R343, R389, R390, R393) -/
def Obligations.PageInsAndResumes : Prop :=
  (∀ (s : State) (c port slot p : Nat) (r : RSlot), (s.core c).rbuf.find? (fun o => o.port == port && o.slot == slot) = some r →
    s.partOfCore c = some p → r.fr.kind = 4 → r.key = none →
    let h := (s.part p).phead
    let a := (s.part p).preq + 32 * h
    ((h + 1) % 256 = (s.part p).ptail → exec (.pageInRequest c port slot) s = .next s) ∧
    ((h + 1) % 256 ≠ (s.part p).ptail → (∀ j : Nat, j < 32 → s.inSize (a + j) = true) → s.memOk →
      ∃ t : State, exec (.pageInRequest c port slot) s = .next t ∧ (t.part p).phead = (h + 1) % 256 ∧
        Memory.read t.mem a 8 = natBytes 8 (requestKey c r.ctx r.fr.cgen port slot r.src) ∧
        Memory.read t.mem (a + 8) 8 = natBytes 8 r.fr.addr.toNat ∧
        ∀ b : Nat, b < a ∨ a + 32 ≤ b → Memory.get t.mem b = Memory.get s.mem b)) ∧
  (∀ (s : State) (cc p : Nat) (value : Word),
    let found := s.replyTo p (bits value 7 0) (bits value 10 8) (bits value 23 16) (bits value 28 24) (bits value 33 29)
    (s.ccOwns cc p = false → Refused s (exec (.partReply cc p value) s) ∧ Refused s (exec (.partPreq cc p value) s)) ∧
    (s.ccOwns cc p = true → found = none → exec (.partReply cc p value) s = .next s) ∧
    (s.ccOwns cc p = true → value.toNat % 64 = 0 → exec (.partPreq cc p value) s =
      .next (s.setPart p { s.part p with preq := value.toNat, phead := 0, ptail := 0 })) ∧
    ∀ (c : Nat) (r : RSlot), s.ccOwns cc p = true → found = some (.inl (c, r)) → c < s.cores.length →
      r.ctx < (s.core c).cxs.length → ∃ t : State, exec (.partReply cc p value) s = .next t ∧ SameStore s t ∧
        (r.fr.repair = true → (∀ o ∈ (t.core c).rbuf, o ≠ r) ∧
          (t.cx c r.ctx).ctl.rpend = (s.cx c r.ctx).ctl.rpend - 1) ∧
        (r.fr.repair = false → ∃ o ∈ (t.core c).rbuf, o.port = r.port ∧ o.slot = r.slot ∧ o.fr.repaired = true ∧
          (r.fr.frozen = false → o.fr.refused = bit value 40))) ∧
  (∀ (s : State) (cc c x node : Nat),
    (s.ccOwnsCore cc c = false → Refused s (exec (.resumeRetry cc c x node) s) ∧
      Refused s (exec (.resumeTrap cc c x node) s)) ∧
    (s.ccOwnsCore cc c = true → s.frozenReg c x node = none →
      exec (.resumeRetry cc c x node) s = .next s ∧ exec (.resumeTrap cc c x node) s = .next s) ∧
    ∀ g : FReg, s.ccOwnsCore cc c = true → s.frozenReg c x node = some g →
      (∀ r : FRec, s.record c x g.num = some r →
        (s.recheck c x g.num r = false → exec (.resumeRetry cc c x node) s = .next s) ∧
        (s.recheck c x g.num r = true → ∃ (t : State) (ks : List Nat), exec (.resumeRetry cc c x node) s = .next t ∧
          t.mem = s.mem ∧ t.isFrozen c node x = false ∧ t.record c x g.num = none ∧
          t.agenda = ks.map (.retry c x) ++ s.agenda) ∧
        (r.kind = 4 ∨ r.kind = 5 →
          ((∀ k : AKind, ∃ pas : List Nat, s.check c k r.addr.toNat 1 1 = .ok pas) → s.recheck c x g.num r = true) ∧
          ((∀ k : AKind, ∃ e : AccErr, s.check c k r.addr.toNat 1 1 = .error e ∧ e.code = r.kind) →
            s.recheck c x g.num r = false))) ∧
      ∀ q : Pend, (s.cx c x).pend.filter (·.frozenAt node) = [q] → q.f.core = c → q.f.ctx = x →
        ((instrTargets q.i).1 ≠ .none ∨ (instrTargets q.i).2 ≠ .none) →
        (∀ m ∈ (s.core c).cmds, m.f.ctx = x → m.port = node → m.frozen = false) →
        ∃ t : State, exec (.resumeTrap cc c x node) s = .next t ∧ t.mem = s.mem ∧ t.isFrozen c node x = false ∧
          (∀ o ∈ (t.cx c x).pend, o.frozenAt node = false) ∧
          (∀ i : Inst, (s.cx c x).inst g.fr.hdl g.fr.seq = some i → i.marked = none →
            ∃ j : Inst, (t.cx c x).inst g.fr.hdl g.fr.seq = some j ∧ j.marked.isSome = true) ∧
          let fl := deliveries s q.f (instrTargets q.i).1 (instrTargets q.i).2 ⟨q.f.tag, .fault, faultVal g.num⟩
          (∀ w : EWord, q.i = .spacc w → Received s t c (sentBy (srcIsland w.port.toNat) fl)) ∧
          ((∀ w : EWord, q.i ≠ .spacc w) →
            Received s t c (sentBy (if q.node < 32 then srcPort q.f.elem else srcIsland q.node) fl))) ∧
  ∀ (s : State) (cc c x node : Nat) (g : FReg) (w : EWord) (m : Cmd), s.ccOwnsCore cc c = true →
    s.frozenReg c x node = some g → (s.core c).cmds = [m] → m.i = .coll w → m.f.ctx = x → m.port = node → m.frozen = true →
    (∀ q ∈ (s.cx c x).pend, q.frozenAt node = false) → PlainCmd s c m →
    ∃ t : State, exec (.resumeTrap cc c x node) s = .next t ∧ t.isFrozen c node x = false ∧ CmdsAre t c [] ∧
      CmdSent s t c m .data (.sc 0) ∧ ∀ n : Nat, n < 64 → m.ctag = some n →
        ((t.core c).ctag n).st = .done ∧ ((t.core c).ctag n).mark = .fault g.num

/-- PART_SHOOT of an owner enters a shootdown of one page, for the cores that the partition has when it begins;
page code 3 is refused. SHOOTDOWN of a core waits for the streamer commands that hold a translation of the
page, and then removes the translations that overlap the page, advances the generation, takes the core off the
list, and notes the loads that were checked under a removed translation. SHOOTDOWN_COMPLETE ends the shootdown
once no core and no such access is left; what the cores had written under a removed translation is in memory
then: no dirty byte of CACHE and no write of a completed command to the page is left. Choices of the model in
it: log 56 (which accesses a shootdown waits for), log 57 (the base is masked). (R159, R160, R385, R390, R391) -/
def Obligations.Shootdowns : Prop :=
  (∀ (s : State) (cc p : Nat) (value : Word),
    ((s.ccOwns cc p = false ∨ bits value 1 0 = 3) → Refused s (exec (.partShoot cc p value) s)) ∧
    (s.ccOwns cc p = true → bits value 1 0 ≠ 3 →
      let size := if bits value 1 0 = 0 then 2 ^ 16 else if bits value 1 0 = 1 then 2 ^ 21 else 2 ^ 30
      exec (.partShoot cc p value) s = .next (s.setPart p { s.part p with shoots := (s.part p).shoots ++
        [⟨value.toNat / size * size, size, if (s.part p).shoots.isEmpty then (s.part p).coreList else [], [], []⟩] }))) ∧
  (∀ (s : State) (c p : Nat) (h : Shoot) (rest : List Shoot), p < 8 → p < s.parts.length → c < s.cores.length →
    (s.part p).shoots = h :: rest → c ∈ h.left →
    (∀ q : Nat, q < p → ∀ (g : Shoot) (l : List Shoot), (s.part q).shoots = g :: l → c ∉ g.left) →
    (s.streamHolds c h.base h.size = true → exec (.shootdown c) s = .next s) ∧
    (s.streamHolds c h.base h.size = false →
    ∃ (t : State) (g : Shoot), exec (.shootdown c) s = .next t ∧ t.mem = s.mem ∧
      (t.core c).xgen = (s.core c).xgen + 1 ∧
      (t.core c).tlb = (s.core c).tlb.filter (fun e => decide (h.base + h.size ≤ e.vbase) ||
        decide (e.vbase + e.size ≤ h.base)) ∧
      (t.part p).shoots = g :: rest ∧ g.base = h.base ∧ g.size = h.size ∧ g.left = h.left.filter (· != c) ∧
      (∀ d ∈ h.drain, d ∈ g.drain) ∧
      (∀ e ∈ (s.core c).tlb, e.vbase < h.base + h.size → h.base < e.vbase + e.size → (c, e) ∈ g.gone) ∧
      ∀ (x k : Nat) (q : Pend) (pas : List Nat) (gs : List (Nat × Byte)) (e : TlbE) (pa : Nat), (s.cx c x).pend[k]? = some q → q.st = .load pas gs →
        e ∈ (s.core c).tlb → e.vbase < h.base + h.size → h.base < e.vbase + e.size → pa ∈ pas → e.pbase ≤ pa →
        pa < e.pbase + e.size → x < (s.core c).cxs.length → (⟨c, q.f.ctx, q.f.hdl, q.f.seq⟩, q.f.idx) ∈ g.drain)) ∧
  ∀ (s : State) (p : Nat) (h : Shoot) (rest : List Shoot), (s.part p).shoots = h :: rest →
    (h.left ≠ [] → exec (.shootdownComplete p) s = .next s) ∧
    (h.left = [] → h.drain = [] → (∀ l ∈ s.links, l.failed = false) →
      ∃ t : State, exec (.shootdownComplete p) s = .next t ∧ (h.gone = [] → t.mem = s.mem) ∧
        (rest = [] → (t.part p).shoots = []) ∧
        (∀ (g : Shoot) (l : List Shoot), rest = g :: l →
          (t.part p).shoots = { g with left := (s.part p).coreList } :: l) ∧
        ∀ (c : Nat) (e : TlbE), (c, e) ∈ h.gone → ∀ pa : Nat, e.pbase ≤ pa → pa < e.pbase + e.size →
          (∀ l ∈ (t.core c).cache, ∀ b ∈ l.dirtyBytes, b.1 ≠ pa) ∧
          ∀ l ∈ (t.core c).late, l.runs = false → ∀ b ∈ l.bytes, b.1 ≠ pa)

namespace Sys2Proof.Machine

/-- A control core's access of kind `op` is performed (R322, R357): the control core reads the old bytes but for a store,
and memory takes the new ones but for a load. -/
def CcDone (s : State) (o : Out) (cc : Nat) (op : CcOp) (pas : List Nat) (new : List Byte) : Prop :=
  ∃ t : State, o = .next t ∧
    (CcOp.isStore op = false → t.ccOut[cc]? = some (pas.map (Memory.get s.mem))) ∧
    (CcOp.isLoad op = true → t.mem = s.mem) ∧
    (CcOp.isLoad op = false → t.mem = Memory.putAll s.mem (List.zip pas new))

end Sys2Proof.Machine

/-- PART_CORES_WRITE gives a partition its core set, but not a core of another one, nor takes away a core with a
resident context; CX_RLIM sets the rate limiter, and RATE_WINDOW starts the next window when one is over;
REGISTER_WRITE of an owner sets owner, lock, privilege, table base, ring tail and queue enable, and is refused
to others and where there is no register; CONTROL_CORE_ACCESS inside the partition loads, stores, swaps, adds,
ands, ors, xors its bytes or takes the least or greatest, signed or not, and no others; LR leaves a
reservation that a store to its bytes ends, and SC stores and answers 0 under a reservation of its bytes and
else answers 1 (how LR and SC answer: log 102); a store or exchange that is a release leaves its bytes as a
release at PKG wrote them; outside the partition an access is refused. Choices of the model in it: log 30
(bits outside every field), log 69 (refused values), log 77 (addresses without a register), log 82 (for which
partition a control core acts). (R244, R322, R327, R357, R388, R389, R390, R393) -/
def Obligations.ManagementRegisters : Prop :=
  (∀ (s : State) (cc p half : Nat) (value : Word),
    let old := (s.part p).cores
    let new : BitVec 72 := if half = 0 then BitVec.ofNat 72 (old.toNat / 2 ^ 64 * 2 ^ 64 + value.toNat)
      else BitVec.ofNat 72 (old.toNat % 2 ^ 64 + value.toNat * 2 ^ 64)
    let taken := ∃ c : Nat, c < 72 ∧ bit new c = true ∧ ∃ q : Nat, s.partOfCore c = some q ∧ q ≠ p
    let leaves := ∃ c : Nat, c < 72 ∧ bit old c = true ∧ bit new c = false ∧ ∃ v ∈ (s.core c).cxs, v.phase ≠ .free
    ((s.ccOwns cc p = false ∨ taken ∨ leaves) → Refused s (exec (.partCoresWrite cc p half value) s)) ∧
    (s.ccOwns cc p = true → value.toNat < 2 ^ 8 ∨ half = 0 → ¬ taken → ¬ leaves →
      exec (.partCoresWrite cc p half value) s = .next (s.setPart p { s.part p with cores := new }))) ∧
  (∀ (s : State) (cc c x : Nat) (value : Word), s.ccOwnsCore cc c = true → value.toNat < 2 ^ 32 →
    ((s.cx c x).phase = .free → exec (.cxRlim cc c x value) s = .next s) ∧
    ((s.cx c x).phase ≠ .free → exec (.cxRlim cc c x value) s = .next (s.setCx c x { s.cx c x with
      ctl := { (s.cx c x).ctl with rlim := value }, rlimUsed := 0, rlimStart := (s.core c).cycle.toNat }))) ∧
  (∀ (s : State) (c x : Nat), let v := s.cx c x
    let w := if bits v.ctl.rlim 31 16 = 0 then 65536 else bits v.ctl.rlim 31 16
    ((s.core c).cycle - BitVec.ofNat 64 v.rlimStart).toNat < w → exec (.rateWindow c x) s = .next s) ∧
  (∀ (s : State) (c x : Nat), let v := s.cx c x
    let w := if bits v.ctl.rlim 31 16 = 0 then 65536 else bits v.ctl.rlim 31 16
    bits v.ctl.rlim 15 0 ≠ 0 → w ≤ ((s.core c).cycle - BitVec.ofNat 64 v.rlimStart).toNat →
      exec (.rateWindow c x) s =
        .next (s.setCx c x { v with rlimUsed := 0, rlimStart := (v.rlimStart + w) % 2 ^ 64 })) ∧
  (∀ (s : State) (cc p q : Nat) (value : Word), p < 8 → q < 16 →
    let blk := 0x300001000000 + p * 0x100000
    let writes (off : Nat) (t : Part) : Prop := s.ccOwns cc p = true →
      exec (.registerWrite cc (BitVec.ofNat 64 (blk + off)) value) s = .next (s.setPart p t)
    let v := s.part p
    let qu := v.queues.getD q Queue.reset
    writes 0x10 { v with owner := value.setWidth 8 } ∧ writes 0x18 { v with lock := value.getLsbD 0 } ∧
    writes 0x28 { v with privw := value.setWidth 8 } ∧
    writes 0x30 { v with ttb := value.toNat / 2 ^ 8 % 2 ^ 44 * 2 ^ 8 } ∧
    (value.toNat < 256 → writes 0x70 { v with ptail := value.toNat }) ∧
    writes (0x110 + 0x20 * q) { v with queues := v.queues.set q { qu with enabled := value.getLsbD 0 } } ∧
    (∀ off : Nat, off ∈ [0x00, 0x10, 0x18, 0x28, 0x30, 0x70, 0x50, 0x58, 0x68] → s.ccOwns cc p = false →
      Refused s (exec (.registerWrite cc (BitVec.ofNat 64 (blk + off)) value) s))) ∧
  (∀ (s : State) (cc : Nat) (addr value : Word), regAt addr.toNat = none →
    Refused s (exec (.registerWrite cc addr value) s)) ∧
  ∀ (s : State) (cc p : Nat) (addr : Word) (op : CcOp), region addr.toNat ≠ .regs →
    let pas := (List.range (CcOp.size op)).map (addr.toNat + ·)
    let was := pas.map (Memory.get s.mem)
    let old := bytesToNat was
    ((∃ pa ∈ pas, s.ccOwns cc p = false ∨ s.owned p pa = false) →
      Refused s (exec (.controlCoreAccess cc p addr op) s)) ∧
    ((∀ pa ∈ pas, s.ccOwns cc p = true ∧ s.owned p pa = true ∧ s.isBad pa = false) → cc < s.ccOut.length →
      cc < s.ccResv.length →
      let done := CcDone s (exec (.controlCoreAccess cc p addr op) s) cc op pas
      (∀ n : Nat, op = .load n → done []) ∧ (∀ d : List Byte, op = .store d ∨ op = .swap d → done d) ∧
      ∀ d : List Byte, let n := d.length
        (op = .add d → done (natBytes n (old + bytesToNat d))) ∧
        (op = .and d → done (natBytes n (old &&& bytesToNat d))) ∧
        (op = .or d → done (natBytes n (old ||| bytesToNat d))) ∧
        (op = .xor d → done (natBytes n (old ^^^ bytesToNat d))) ∧
        (let sgn (x : Nat) : Int := (BitVec.ofNat (8 * n) x).toInt;
          (op = .min d → done (if sgn (bytesToNat d) < sgn old then d else was)) ∧
          (op = .max d → done (if sgn old < sgn (bytesToNat d) then d else was)) ∧
          (op = .minu d → done (if bytesToNat d < old then d else was)) ∧
          (op = .maxu d → done (if old < bytesToNat d then d else was))) ∧
        (op = .store d → ∃ t : State, exec (.controlCoreAccess cc p addr op) s = .next t ∧
          ∀ (k : Nat) (r : Nat × Nat), t.ccResv[k]? = some (some r) → ∀ pa ∈ pas, pa < r.1 ∨ r.1 + r.2 ≤ pa) ∧
        (op = .lr n → ∃ t : State, exec (.controlCoreAccess cc p addr op) s = .next t ∧ t.mem = s.mem ∧
          t.ccOut[cc]? = some was ∧ t.ccResv[cc]? = some (some (addr.toNat, n))) ∧
        (op = .sc d → ∃ t : State, exec (.controlCoreAccess cc p addr op) s = .next t ∧ t.ccResv[cc]? = some none ∧
          (∀ r : Nat × Nat, s.ccResv[cc]? = some (some r) → r.1 ≤ addr.toNat → addr.toNat + n ≤ r.1 + r.2 →
            t.ccOut[cc]? = some [0] ∧ t.mem = Memory.putAll s.mem (List.zip pas d)) ∧
          (s.ccResv[cc]? = some none → t.ccOut[cc]? = some [1] ∧ t.mem = s.mem)) ∧
        (op = .rel (.store d) ∨ op = .rel (.swap d) → ∃ t : State, exec (.controlCoreAccess cc p addr op) s = .next t ∧
          t.mem = Memory.putAll s.mem (List.zip pas d) ∧ ∀ pa ∈ pas, (pa, 3, s.cores.length) ∈ t.rels))

/-- REFRESH_RETRY and ROW_REFRESH change nothing. CORRECTABLE_ERROR counts; up to the threshold a repeated one
refreshes its row faster where the controller refreshes by rows, and above it makes the frames of the row due
while fewer than 64 are. PATROL_SCRUB, while on, moves a row with an error into a faster filter.
UNCORRECTABLE_ERROR makes its line fail and its frame due, and the controller raises its interrupt.
ERROR_WINDOW_END clears the counts, MC_DUE retires the oldest due frame, and MC_CFG sets threshold, scrub and,
before boot, the mode. No byte of memory changes. Choices of the model in it: log 15 (rows, frames and hash
functions), log 72 (MC_DUE retires), log 73 (a count of 1), log 74 (what scrub counts), log 75 (a failed
line), log 76 (mc.cfg bit 0). (R382, R383, R384, R385, R386) -/
def Obligations.MemoryControllers : Prop :=
  (∀ (s : State) (st row : Nat), exec (.refreshRetry st row) s = .next s ∧ exec (.rowRefresh st row) s = .next s) ∧
  (∀ (s : State) (st row : Nat), st < s.mcs.length → let v := s.mc st
    let n := v.count row + 1
    ∃ t : State, exec (.correctableError st row) s = .next t ∧ t.mem = s.mem ∧ (t.mc st).cecnt = v.cecnt + 1 ∧
      (t.mc st).count row = n ∧ (∀ r : Nat, r ≠ row → (t.mc st).count r = v.count r) ∧
      (n ≤ 1 → (t.mc st).due = v.due ∧ (t.mc st).interval row = v.interval row) ∧
      (1 < n → n ≤ v.threshold → (t.mc st).due = v.due ∧ (v.multiRate = true →
        (t.mc st).interval row ≤ 64 ∧ (v.interval row = 64 → (t.mc st).interval row = 32))) ∧
      (1 < n → v.threshold < n → (t.mc st).interval row = v.interval row ∧
        ((t.mc st).due.length < 64 → ∀ fr ∈ Config.rowFrames st row, ∃ d ∈ (t.mc st).due, d.frame = fr))) ∧
  (∀ (s : State) (st row : Nat) (found : Bool), st < s.mcs.length → let v := s.mc st
    (found = false ∨ bit v.cfg 16 = false → exec (.patrolScrub st row found) s = .next s) ∧
    (found = true → bit v.cfg 16 = true → ∃ t : State, exec (.patrolScrub st row found) s = .next t ∧ t.mem = s.mem ∧
      (t.mc st).cecnt = v.cecnt + 1 ∧ (t.mc st).count row = v.count row + 1 ∧
      (v.multiRate = true → (t.mc st).interval row ≤ 64))) ∧
  (∀ (s : State) (addr : Nat), ∃ t : State, exec (.uncorrectableError addr) s = .next t ∧ t.mem = s.mem ∧
    t.isBad addr = true ∧ (∀ pa : Nat, s.isBad pa = true → t.isBad pa = true) ∧
    (addr < 0x9000000000 → stackOf addr < s.mcs.length → (t.mc (stackOf addr)).due.length < 64 →
      (∃ d ∈ (t.mc (stackOf addr)).due, d.frame = frameOf addr) ∧ t.mcInterrupt (stackOf addr) = true)) ∧
  (∀ (s : State) (st : Nat), exec (.errorWindowEnd st) s = .next (s.setMc st { s.mc st with counts := [] })) ∧
  (∀ (s : State) (cc st : Nat) (value : Word) (d : DueF) (rest : List DueF), (s.mc st).due = d :: rest →
    exec (.mcDue cc st value) s = .next (s.setMc st { s.mc st with due := rest, rlog := d :: (s.mc st).rlog })) ∧
  ∀ (s : State) (cc st : Nat) (value : Word), st < s.mcs.length → value.toNat < 2 ^ 17 →
    ∃ t : State, exec (.mcCfg cc st value) s = .next t ∧ t.mem = s.mem ∧
      (t.mc st).threshold = value.toNat / 2 ^ 8 % 2 ^ 8 ∧ bit (t.mc st).cfg 16 = bit value 16 ∧
      (t.mc st).multiRate = if s.dev.stage = 4 then (s.mc st).multiRate else bit value 0

/-- LINK_FLIT_RETRY counts on a link that has not failed, and LINK_FAILURE fails it; QP_CFG of an administrator
sets a queue pair, and one that leaves the connected states flushes its commands. BOOT and
NETWORK_RECOVERY_FRAME run the firmware when the manifest is readable, well-formed, signed under both keys of
which the fuses hold the hash and not older than the fuses, with the images measured by SHA-384 and the rows
found weak in the 32 ms filter, and else keep stage and cause (the functions of outside standards: log 6).
MG_ARB blows fuses, MG_ATTEST takes a buffer that its control core reaches, ATTEST_COMPLETE writes a report
that keeps the nonce, and MG_RESET of 0x0D72 resets all but the fuses. POWER_CAP_STEP, POWER_CAP_LIFT,
THERMAL_STOP and THERMAL_RESTART act at the limits of R401; the step up of the clock is a choice of the model
(log 28). What memory reads as is said for memory in its canonical form. Choices of the model in it: log 30
(bits outside every field), log 78 (causes 5 and 6), log 79 (the report buffer), log 80 (what a reset keeps),
log 84 (a queue pair that leaves the connected states). (R335, R389, R394, R396, R397, R398, R399, R400, R401) -/
def Obligations.LinksAndDevice : Prop :=
  (∀ (s : State) (n : Nat), let l := s.links.getD n ⟨0, false⟩
    (l.failed = false → exec (.linkFlitRetry n) s =
      .next { s with links := s.links.set n { l with retries := l.retries + 1 } }) ∧
    (l.failed = true → exec (.linkFlitRetry n) s = .next s) ∧
    exec (.linkFailure n) s = .next { s with links := s.links.set n { l with failed := true } }) ∧
  (∀ (s : State) (cc qp : Nat) (value : Word),
    ((s.ccAdmin cc = false ∨ 4 < bits value 2 0 ∨ bits value 17 16 = 0) → Refused s (exec (.qpCfg cc qp value) s)) ∧
    (s.ccAdmin cc = true → bits value 2 0 ≤ 4 → bits value 17 16 ≠ 0 → ∃ t : State,
      exec (.qpCfg cc qp value) s = .next t ∧ SameStore s t ∧ (t.qp qp).cfg = value &&& 0x33F07 ∧
      (bits value 2 0 ≠ 2 → bits value 2 0 ≠ 3 → ∀ c k : Nat, ∀ m : Cmd, t.cmd? c k = some m → isNet m.i = true →
        m.st = .accepted → ntQp m.f = qp → m.status ≠ 0))) ∧
  (∀ (s : State) (m : Manifest), s.dev.stage ≠ 4 →
    (s.dev.recovery = false → ∃ t : State, exec (.boot m) s = .next t ∧ t.mem = s.mem ∧ t.cores = s.cores ∧
      (∀ e : Nat × Nat, s.dev.bootFault m = some e →
        t.dev = { s.dev with stage := e.1, cause := e.2, recovery := true } ∧ t.parts = s.parts) ∧
      (s.dev.bootFault m = none → t.dev.stage = 4 ∧ t.dev.cause = 0 ∧ t.dev.recovery = false ∧ t.dev.admin = 1 ∧
        (∀ p ∈ t.parts, p.owner = 1) ∧ (∀ (k : Nat) (im : List Byte), k < 4 → m.images[k]? = some im →
          t.dev.meas[k]? = some (sha384 im)) ∧
        ∀ st row : Nat, st < s.mcs.length → row ∈ (m.weak.getD st ([], [])).1 → (t.mc st).interval row = 32)) ∧
    (s.dev.recovery = true → exec (.boot m) s = .next s ∧ ∃ t : State, exec (.networkRecoveryFrame m) s = .next t ∧
      t.mem = s.mem ∧ (s.dev.bootFault m = none → t.dev.stage = 4 ∧ t.dev.recovery = false))) ∧
  (∀ (d : Dev) (m : Manifest), d.bootFault m = none ↔ m.readable = true ∧ m.wellFormed = true ∧
    sha384 m.keyEd = Config.fusedKeyHash 0 ∧ ed25519Verifies m.keyEd m.body m.sigEd = true ∧
    sha384 m.keyMl = Config.fusedKeyHash 1 ∧ mlDsa65Verifies m.keyMl m.body m.sigMl = true ∧
    ∀ k : Nat, k < 4 → d.counter k ≤ m.version) ∧
  (∀ (s : State) (cc k : Nat) (mask : Word),
    (s.ccAdmin cc = false → Refused s (exec (.mgArb cc k mask) s) ∧ Refused s (exec (.mgAttest cc mask) s) ∧
      Refused s (exec (.mgReset cc mask) s)) ∧
    (s.ccAdmin cc = true → ∃ t : State, exec (.mgArb cc k mask) s = .next t ∧ SameStore s t ∧
      (k < s.dev.arb.length → t.dev.arb[k]? = some (s.dev.arb.getD k 0 ||| mask)) ∧
      ∀ j : Nat, j ≠ k → t.dev.arb[j]? = s.dev.arb[j]?)) ∧
  (∀ (s : State) (cc : Nat) (addr : Word), s.ccAdmin cc = true → s.dev.attBusy = false →
    let a := addr.toNat / 64 % 2 ^ 46 * 64
    ((∀ j : Nat, j < 3661 → s.ccReach cc (a + j) = true) → exec (.mgAttest cc addr) s =
      .next { s with dev := { s.dev with attBusy := true, attErr := false, attAddr := a } }) ∧
    ((∃ j : Nat, j < 3661 ∧ s.ccReach cc (a + j) = false) → ∃ t : State, exec (.mgAttest cc addr) s = .next t ∧
      t.mem = s.mem ∧ t.dev = { s.dev with attErr := true })) ∧
  (∀ (s : State), s.dev.attBusy = true → let a := s.dev.attAddr
    (∀ j : Nat, j < 3661 → s.inSize (a + j) = true) → s.dev.meas.length = 4 → s.memOk →
    ∃ t : State, exec .attestComplete s = .next t ∧ t.dev.attBusy = false ∧ Memory.read t.mem a 4 = natBytes 4 0x0A770D72 ∧
      Memory.read t.mem (a + 8) 32 = Memory.read s.mem (a + 8) 32 ∧
      ∀ b : Nat, b < a ∨ a + 3661 ≤ b → Memory.get t.mem b = Memory.get s.mem b) ∧
  (∀ (s : State) (cc : Nat), s.ccAdmin cc = true → ∃ t : State, exec (.mgReset cc 0x0D72) s = .next t ∧
    t.cores = State.reset.cores ∧ t.parts = State.reset.parts ∧ t.mem = [] ∧ t.dev.stage = 0 ∧ t.dev.arb = s.dev.arb) ∧
  ∀ (s : State) (n : Nat), let d := s.dev
    let cap := if d.pwCap = 0 then 4000 else d.pwCap
    (cap < n → exec (.powerCapStep n) s =
      .next { s with dev := { d with pwNow := n, capped := true, mhz := max 700 (d.mhz - 100) } }) ∧
    (n ≤ cap → exec (.powerCapLift n) s =
      .next { s with dev := { d with pwNow := n, capped := false, mhz := min 2100 (d.mhz + 100) } }) ∧
    (n ≤ cap → exec (.powerCapStep n) s = .next { s with dev := { d with pwNow := n } }) ∧
    exec (.thermalStop n) s = .next { s with dev := { d with pwTj := n, thermal := if 105 ≤ n then true else d.thermal } } ∧
    exec (.thermalRestart n) s = .next { s with dev := { d with pwTj := n, thermal := if n < 95 then false else d.thermal } }

namespace Sys2Proof.Machine

/-- A next state after which no operand set is selected; a stop stays what it is. -/
def Unselect (o o' : Out) : Prop :=
  (∀ t : State, o = .next t → o' = .next { t with sel := none }) ∧ (∀ r : Fault, o = .fault r → o' = .fault r) ∧
  (∀ r : Refusal, o = .refused r → o' = .refused r)

/-- Only words of units that exist are on the agenda of a step that a unit makes (R7, R17, R40). -/
def HasElem (s : State) (c e : Nat) : Prop := c < s.cores.length ∧ e < (s.core c).elems.length

end Sys2Proof.Machine

/-- DIV and REM with DATA operands complete; in each lane division by zero gives all ones and the dividend, the
most negative number divided by -1 gives itself and 0, and any other division the quotient truncated towards
zero and the remainder with the sign of the dividend. (R111) -/
def Obligations.DivisionTable : Prop :=
  ∀ (w : GWord) (s : State) (f : Firing), w.ty.isIntV = true → s.sel = some f → Fires w.pm f → DataOnly (both f) →
    let n := laneBits w.ty
    let rd := toInt n (isSigned w.ty)
    let as := readLanes w.ty f.lval
    let bs := readLanes w.ty (rightOf w f)
    ∃ qs rs : List Nat, qs.length = laneCount w.ty ∧ rs.length = laneCount w.ty ∧
      exec (.div w) s = .next (s.emits f w.t0 w.t1 .data (writeLanes w.ty qs)) ∧
      exec (.rem w) s = .next (s.emits f w.t0 w.t1 .data (writeLanes w.ty rs)) ∧
      ∀ k a b q r : Nat, as[k]? = some a → bs[k]? = some b → qs[k]? = some q → rs[k]? = some r →
        (b = 0 → q = 2 ^ n - 1 ∧ r = a) ∧
        (isSigned w.ty = true → a = 2 ^ (n - 1) → b = 2 ^ n - 1 → q = 2 ^ (n - 1) ∧ r = 0) ∧
        (b ≠ 0 → ¬ (isSigned w.ty = true ∧ a = 2 ^ (n - 1) ∧ b = 2 ^ n - 1) →
          q < 2 ^ n ∧ r < 2 ^ n ∧ rd q = (rd a).tdiv (rd b) ∧ rd r = (rd a).tmod (rd b))

/-- Whatever an element fires, each token of its operand set carries, in all 64 bits, the tag under which the
instruction fires, so tokens at different depths never stand in one set. (R35) -/
def Obligations.TagsMatch : Prop :=
  ∀ (s : State) (c e : Nat) (r : Ready) (t : Tok),
    ((s.takeSet c e r).2.l = some t ∨ (s.takeSet c e r).2.r = some t ∨ (s.takeSet c e r).2.p = some t) →
    t.tag = (s.takeSet c e r).2.tag ∧ (s.takeSet c e r).2.tag = r.tag ∧
    tagDepth t.tag = tagDepth (s.takeSet c e r).2.tag

/-- Of three operands a FAULT in the lowest slot decides, then CHAFF, then the STOP of the highest level with the
left one first, then NULL, and only DATA alone leaves the result to be computed; a predicate that matches the
mode lets the instruction fire, one that does not match makes it absorb its operands, and CHAFF and FAULT
predicates make it emit CHAFF or the FAULT of the lowest slot. (R28, R29, R116) -/
def Obligations.KindRules : Prop :=
  (∀ (v : Val) (ts : List (Option Tok)), lowestFault ts = some v → combine ts = some (.fault, v)) ∧
  (∀ l r p : Option Tok, let ts := [l, r, p]
    let none_ (k : Kind) : Prop := ∀ t : Tok, some t ∈ ts → t.kind ≠ k
    (∀ t : Tok, l = some t → t.kind = .fault → combine ts = some (.fault, t.val)) ∧
    (∀ t : Tok, (∀ u : Tok, l = some u → u.kind ≠ .fault) → r = some t → t.kind = .fault →
      combine ts = some (.fault, t.val)) ∧
    (none_ .fault → (∃ t : Tok, some t ∈ ts ∧ t.kind = .chaff) → combine ts = some (.chaff, .sc 0)) ∧
    (none_ .fault → none_ .chaff → ∀ (t : Tok) (j : Fin 4), some t ∈ ts → t.kind = .stop j →
      (∀ (u : Tok) (k : Fin 4), some u ∈ ts → u.kind = .stop k → k ≤ j) →
      ∃ (u : Tok), some u ∈ ts ∧ u.kind = .stop j ∧ combine ts = some (.stop j, u.val) ∧
        ((∃ v : Tok, l = some v ∧ v.kind = .stop j) → l = some u)) ∧
    (none_ .fault → none_ .chaff → (∀ j : Fin 4, none_ (.stop j)) → (∃ t : Tok, some t ∈ ts ∧ t.kind = .null) →
      combine ts = some (.null, .sc 0)) ∧
    ((∀ t : Tok, some t ∈ ts → t.kind = .data) ↔ combine ts = none)) ∧
  ∀ (pm : PMode) (f : Firing) (p : Tok), pm ≠ .always → f.p = some p →
    (p.kind = .data ∨ p.kind = .null ∨ (∃ j, p.kind = .stop j) →
      (truth p = true ↔ pm = .onTrue) → gate pm f = .fire) ∧
    (p.kind = .data ∨ p.kind = .null ∨ (∃ j, p.kind = .stop j) →
      ¬ (truth p = true ↔ pm = .onTrue) → gate pm f = .absorb) ∧
    (p.kind = .chaff → lowestFault [f.l, f.r] = none → gate pm f = .emit .chaff (.sc 0)) ∧
    (p.kind = .chaff → ∀ v : Val, lowestFault [f.l, f.r] = some v → gate pm f = .emit .fault v) ∧
    (p.kind = .fault → gate pm f = .emit .fault ((lowestFault [f.l, f.r]).getD p.val))

/-- When an element is to fire, the step is that of the instruction decoded from the word on the page of the
instance that R58 picks, with the operand set taken from the stores, after which no set is selected; a failing
word runs ILLEGAL, and an element with nothing ready does nothing. An event runs as itself, one of a unit that
the package does not have stops, and a held operation runs again. While the core clocks stand a step of a core
does nothing. A cycle of a core advances its counter and no other, and with no move left the moves are
proposed afresh with a cycle of each core. Choices of the model in it: log 2 (the agenda and its moves), log
68 (the cycle moves of each core), log 81 (stopped core clocks), log 89 (an operation that waits is held
whole). (R20, R41, R57, R58, R60, R107, R108, R401) -/
def Obligations.StepRunsDecoded : Prop :=
  (∀ (s : State) (rest : List Act) (c e : Nat), s.agenda = .fire c e :: rest → HasElem s c e → s.dev.thermal = false →
    let u := { s with agenda := rest }
    (∀ r : Ready, u.pick c e = some r →
      (∀ i : Instr, r.what = .ok i →
        let v := (u.takeSet c e r).1
        let f := (u.takeSet c e r).2
        Unselect (exec i { v with sel := some f }) (step s) ∧
        ∃ o : Inst, o ∈ (s.cx c (s.elem c e).present).firing ∧ o.hdl = r.hdl ∧ o.seq = r.seq ∧
          decodeWord (s.pageWord c (s.elem c e).present o r.idx) = .ok i) ∧
      ∀ w : Word, r.what = .error w →
        Unselect (exec (.illegal w) { (u.takeSet c e r).1 with sel := some (u.takeSet c e r).2 }) (step s)) ∧
    (u.pick c e = none → step s = .next u)) ∧
  (∀ (s : State) (rest : List Act) (i : Instr), s.agenda = .event i :: rest →
    (i.unitsOk = true → (coreStep i = true → s.dev.thermal = false) →
      Unselect (exec i { s with agenda := rest, sel := none }) (step s)) ∧
    (coreStep i = true → i.unitsOk = true → s.dev.thermal = true → step s = .next { s with agenda := rest }) ∧
    (i.unitsOk = false → step s = .fault .noSuchUnit)) ∧
  (∀ (s : State) (rest : List Act) (c x k : Nat) (q : Pend), s.agenda = .retry c x k :: rest → c < s.cores.length →
    x < (s.core c).cxs.length → s.dev.thermal = false → (s.cx c x).pend[k]? = some q → q.st = .held →
    Unselect (exec q.i { State.dropPend { s with agenda := rest } c x k with sel := some q.f }) (step s)) ∧
  (∀ (s : State) (rest : List Act) (c : Nat), s.agenda = .cycle c :: rest → c < s.cores.length → ∃ t : State,
    step s = .next t ∧ t.mem = s.mem ∧ t.parts = s.parts ∧ t.agenda = rest ∧
    (s.dev.thermal = false → (t.core c).cycle = (s.core c).cycle + 1 ∧ (t.core c).fabric = (s.core c).fabric ∧
      (t.core c).cmds = (s.core c).cmds) ∧ (s.dev.thermal = true → t.cores = s.cores) ∧
    ∀ d : Nat, d ≠ c → t.cores[d]? = s.cores[d]?) ∧
  ∀ s : State, s.agenda = [] → ∃ t : State, step s = .next t ∧ t.mem = s.mem ∧ t.parts = s.parts ∧ t.cores = s.cores ∧
    t.dcyc = s.dcyc + 1 ∧ ∀ c : Nat, c < s.cores.length → Act.cycle c ∈ t.agenda

/-- ADD, BARADD, BR, TAGWIN, ERET, GETC and TRAP: each word that the spec prints for an assembler line decodes to
that instruction with those operands. (R67, R71, R74, R75, R136, R347, R348, R350) -/
def Obligations.DecodeWords : Prop :=
  decodeWord 0x0081412908000008 = .ok (.add ⟨.always, .left 5, .right 9, .s64, 0, true, 8⟩) ∧
  decodeWord 0xC0829FFFE0000000 = .ok (.baradd ⟨.always, .right 10, .none, 63, 0, 0⟩) ∧
  decodeWord 0x401FFFFA40000002 = .ok (.br ⟨.always, .loop, .push, 0, 2⟩) ∧
  decodeWord 0x4581_4FF9_8800_0001 = .ok (.tagwin ⟨.always, .left 5, .none, .z64, 0, true, 1⟩) ∧
  decodeWord 0xE21F_FFFA_1000_0000 = .ok (.eret ⟨.always, .none, .none, .b64, 1, false, 0⟩) ∧
  decodeWord 0xE280_8FFA_0800_000C = .ok (.getc ⟨.always, .left 2, .none, .b64, 0, true, 12⟩) ∧
  decodeWord 0xEC1F_FFF9_8800_0007 = .ok (.trap ⟨.always, .none, .none, .z64, 0, true, 7⟩)

/-- The word of every well-formed instruction decodes to it, with every operand at every value that its encoding
admits, from the word and from its bytes; and a word that decodes is the word of the well-formed instruction
it decodes to, so no two words mean the same and no bit is dropped. (R67, R68, R69, R71, R72, R74, R75, R107) -/
def Obligations.DecodeEncode : Prop :=
  (∀ i : Instr, i.wf = true → decodeWord (encode i) = .ok i ∧ decode (wordBytes (encode i)) = some (i, [])) ∧
  ∀ (w : Word) (i : Instr), decodeWord w = .ok i → i.wf = true ∧ encode i = w

/-- From every state whose memory lists rising addresses and no byte equal to what an unlisted address reads as,
every step leads to such a state, so equal memories are equal lists (the form is the model's own: log 1).
(R15, R320) -/
def Obligations.MemoryStaysCanonical : Prop :=
  ∀ s t : State, s.memOk → step s = .next t → t.memOk

/-- After reset memory lists nothing, the package has its units, every cycle counter, barrier and fired bit is 0,
every completion tag FREE, the pool split 8, 40, 32 and 16 banks, context 0 present on every element, no
context in use, partition owners 0x01, the error threshold 3 and the clock 2.1 GHz. Choices of the model in
it: log 1 (memory), log 5 (values without a reset value). (R10, R20, R59, R163, R167, R213, R384, R390) -/
def Obligations.ResetState : Prop :=
  State.reset.memOk ∧ State.reset.shaped ∧ State.reset.coresOnce ∧ State.reset.agenda = [] ∧
  (∀ c : Nat, c < 72 → let k := State.reset.core c
    k.cycle = 0 ∧ (∀ b ∈ k.barriers, b.count = 0 ∧ b.fired = false) ∧ (∀ g ∈ k.ctags, g.st = .free) ∧
    k.split = ⟨8, 40, 32, 16⟩ ∧ k.cache = [] ∧ (∀ e ∈ k.elems, e.present = 0 ∧ e.store = [] ∧ e.ovf = []) ∧
    ∀ v ∈ k.cxs, v.phase = .free) ∧
  (∀ p : Nat, p < 8 → (State.reset.part p).owner = 1) ∧ (∀ st : Nat, st < 12 → (State.reset.mc st).threshold = 3) ∧
  (∀ p ∈ State.reset.parts, p.images = [] ∧ p.pool = [] ∧ ∀ q ∈ p.queues, q.units = []) ∧ State.reset.dev.admin = 1 ∧ State.reset.dev.mhz = 2100 ∧
  ∀ (nbits w : Nat), (State.reset.withFetchWord nbits w).mem = State.reset.mem
end

