-- ==== Sys2Proof/Laws/Dispatch.lean ====
section
/-! SUPPORT. The dispatch, one equation per constructor of `Instr`: no proof need unfold `exec`. -/

namespace Sys2Proof.Machine

@[simp] theorem exec_abs (w : GWord) (s : State) : exec (.abs w) s = execAbs w s := rfl
@[simp] theorem exec_add (w : GWord) (s : State) : exec (.add w) s = execAdd w s := rfl
@[simp] theorem exec_and (w : GWord) (s : State) : exec (.and w) s = execAnd w s := rfl
@[simp] theorem exec_andn (w : GWord) (s : State) : exec (.andn w) s = execAndn w s := rfl
@[simp] theorem exec_bfext (w : GWord) (s : State) : exec (.bfext w) s = execBfext w s := rfl
@[simp] theorem exec_bfins (w : GWord) (s : State) : exec (.bfins w) s = execBfins w s := rfl
@[simp] theorem exec_bswap (w : GWord) (s : State) : exec (.bswap w) s = execBswap w s := rfl
@[simp] theorem exec_clz (w : GWord) (s : State) : exec (.clz w) s = execClz w s := rfl
@[simp] theorem exec_ctz (w : GWord) (s : State) : exec (.ctz w) s = execCtz w s := rfl
@[simp] theorem exec_div (w : GWord) (s : State) : exec (.div w) s = execDiv w s := rfl
@[simp] theorem exec_lea (w : GWord) (s : State) : exec (.lea w) s = execLea w s := rfl
@[simp] theorem exec_max (w : GWord) (s : State) : exec (.max w) s = execMax w s := rfl
@[simp] theorem exec_min (w : GWord) (s : State) : exec (.min w) s = execMin w s := rfl
@[simp] theorem exec_mov (w : GWord) (s : State) : exec (.mov w) s = execMov w s := rfl
@[simp] theorem exec_movhi (w : GWord) (s : State) : exec (.movhi w) s = execMovhi w s := rfl
@[simp] theorem exec_movi (w : GWord) (s : State) : exec (.movi w) s = execMovi w s := rfl
@[simp] theorem exec_mul (w : GWord) (s : State) : exec (.mul w) s = execMul w s := rfl
@[simp] theorem exec_mulh (w : GWord) (s : State) : exec (.mulh w) s = execMulh w s := rfl
@[simp] theorem exec_neg (w : GWord) (s : State) : exec (.neg w) s = execNeg w s := rfl
@[simp] theorem exec_or (w : GWord) (s : State) : exec (.or w) s = execOr w s := rfl
@[simp] theorem exec_popc (w : GWord) (s : State) : exec (.popc w) s = execPopc w s := rfl
@[simp] theorem exec_rem (w : GWord) (s : State) : exec (.rem w) s = execRem w s := rfl
@[simp] theorem exec_rol (w : GWord) (s : State) : exec (.rol w) s = execRol w s := rfl
@[simp] theorem exec_ror (w : GWord) (s : State) : exec (.ror w) s = execRor w s := rfl
@[simp] theorem exec_sar (w : GWord) (s : State) : exec (.sar w) s = execSar w s := rfl
@[simp] theorem exec_sel (w : GWord) (s : State) : exec (.sel w) s = execSel w s := rfl
@[simp] theorem exec_sext (w : GWord) (s : State) : exec (.sext w) s = execSext w s := rfl
@[simp] theorem exec_shl (w : GWord) (s : State) : exec (.shl w) s = execShl w s := rfl
@[simp] theorem exec_shr (w : GWord) (s : State) : exec (.shr w) s = execShr w s := rfl
@[simp] theorem exec_sub (w : GWord) (s : State) : exec (.sub w) s = execSub w s := rfl
@[simp] theorem exec_xor (w : GWord) (s : State) : exec (.xor w) s = execXor w s := rfl
@[simp] theorem exec_zext (w : GWord) (s : State) : exec (.zext w) s = execZext w s := rfl
@[simp] theorem exec_cmp (w : GWord) (s : State) : exec (.cmp w) s = execCmp w s := rfl
@[simp] theorem exec_fcmp (w : GWord) (s : State) : exec (.fcmp w) s = execFcmp w s := rfl
@[simp] theorem exec_isbub (w : GWord) (s : State) : exec (.isbub w) s = execIsbub w s := rfl
@[simp] theorem exec_isstop (w : GWord) (s : State) : exec (.isstop w) s = execIsstop w s := rfl
@[simp] theorem exec_merge (w : GWord) (s : State) : exec (.merge w) s = execMerge w s := rfl
@[simp] theorem exec_null (w : GWord) (s : State) : exec (.null w) s = execNull w s := rfl
@[simp] theorem exec_ordjoin (w : GWord) (s : State) : exec (.ordjoin w) s = execOrdjoin w s := rfl
@[simp] theorem exec_pand (w : GWord) (s : State) : exec (.pand w) s = execPand w s := rfl
@[simp] theorem exec_pnot (w : GWord) (s : State) : exec (.pnot w) s = execPnot w s := rfl
@[simp] theorem exec_por (w : GWord) (s : State) : exec (.por w) s = execPor w s := rfl
@[simp] theorem exec_pxor (w : GWord) (s : State) : exec (.pxor w) s = execPxor w s := rfl
@[simp] theorem exec_reorder (w : GWord) (s : State) : exec (.reorder w) s = execReorder w s := rfl
@[simp] theorem exec_route (w : GWord) (s : State) : exec (.route w) s = execRoute w s := rfl
@[simp] theorem exec_sink (w : GWord) (s : State) : exec (.sink w) s = execSink w s := rfl
@[simp] theorem exec_steer (w : GWord) (s : State) : exec (.steer w) s = execSteer w s := rfl
@[simp] theorem exec_stop (w : GWord) (s : State) : exec (.stop w) s = execStop w s := rfl
@[simp] theorem exec_strip (w : GWord) (s : State) : exec (.strip w) s = execStrip w s := rfl
@[simp] theorem exec_br (w : XWord) (s : State) : exec (.br w) s = execBr w s := rfl
@[simp] theorem exec_bri (w : XWord) (s : State) : exec (.bri w) s = execBri w s := rfl
@[simp] theorem exec_call (w : XWord) (s : State) : exec (.call w) s = execCall w s := rfl
@[simp] theorem exec_calli (w : XWord) (s : State) : exec (.calli w) s = execCalli w s := rfl
@[simp] theorem exec_halt (w : XWord) (s : State) : exec (.halt w) s = execHalt w s := rfl
@[simp] theorem exec_ret (w : XWord) (s : State) : exec (.ret w) s = execRet w s := rfl
@[simp] theorem exec_tagget (w : GWord) (s : State) : exec (.tagget w) s = execTagget w s := rfl
@[simp] theorem exec_tagin (w : GWord) (s : State) : exec (.tagin w) s = execTagin w s := rfl
@[simp] theorem exec_taginc (w : GWord) (s : State) : exec (.taginc w) s = execTaginc w s := rfl
@[simp] theorem exec_tagout (w : GWord) (s : State) : exec (.tagout w) s = execTagout w s := rfl
@[simp] theorem exec_tagset (w : GWord) (s : State) : exec (.tagset w) s = execTagset w s := rfl
@[simp] theorem exec_tagwin (w : GWord) (s : State) : exec (.tagwin w) s = execTagwin w s := rfl
@[simp] theorem exec_yield (w : XWord) (s : State) : exec (.yield w) s = execYield w s := rfl
@[simp] theorem exec_fabs (w : GWord) (s : State) : exec (.fabs w) s = execFabs w s := rfl
@[simp] theorem exec_fadd (w : GWord) (s : State) : exec (.fadd w) s = execFadd w s := rfl
@[simp] theorem exec_fclamp (w : GWord) (s : State) : exec (.fclamp w) s = execFclamp w s := rfl
@[simp] theorem exec_fcpsgn (w : GWord) (s : State) : exec (.fcpsgn w) s = execFcpsgn w s := rfl
@[simp] theorem exec_fexp2 (w : GWord) (s : State) : exec (.fexp2 w) s = execFexp2 w s := rfl
@[simp] theorem exec_flog2 (w : GWord) (s : State) : exec (.flog2 w) s = execFlog2 w s := rfl
@[simp] theorem exec_fma (w : GWord) (s : State) : exec (.fma w) s = execFma w s := rfl
@[simp] theorem exec_fmax (w : GWord) (s : State) : exec (.fmax w) s = execFmax w s := rfl
@[simp] theorem exec_fmin (w : GWord) (s : State) : exec (.fmin w) s = execFmin w s := rfl
@[simp] theorem exec_fmul (w : GWord) (s : State) : exec (.fmul w) s = execFmul w s := rfl
@[simp] theorem exec_fneg (w : GWord) (s : State) : exec (.fneg w) s = execFneg w s := rfl
@[simp] theorem exec_frcp (w : GWord) (s : State) : exec (.frcp w) s = execFrcp w s := rfl
@[simp] theorem exec_fround (w : GWord) (s : State) : exec (.fround w) s = execFround w s := rfl
@[simp] theorem exec_frsq (w : GWord) (s : State) : exec (.frsq w) s = execFrsq w s := rfl
@[simp] theorem exec_fscale (w : GWord) (s : State) : exec (.fscale w) s = execFscale w s := rfl
@[simp] theorem exec_fsqrt (w : GWord) (s : State) : exec (.fsqrt w) s = execFsqrt w s := rfl
@[simp] theorem exec_fsub (w : GWord) (s : State) : exec (.fsub w) s = execFsub w s := rfl
@[simp] theorem exec_cvt (w : GWord) (s : State) : exec (.cvt w) s = execCvt w s := rfl
@[simp] theorem exec_qscale (w : GWord) (s : State) : exec (.qscale w) s = execQscale w s := rfl
@[simp] theorem exec_vargmax (w : GWord) (s : State) : exec (.vargmax w) s = execVargmax w s := rfl
@[simp] theorem exec_vargmin (w : GWord) (s : State) : exec (.vargmin w) s = execVargmin w s := rfl
@[simp] theorem exec_vbcast (w : GWord) (s : State) : exec (.vbcast w) s = execVbcast w s := rfl
@[simp] theorem exec_vextr (w : GWord) (s : State) : exec (.vextr w) s = execVextr w s := rfl
@[simp] theorem exec_vins (w : GWord) (s : State) : exec (.vins w) s = execVins w s := rfl
@[simp] theorem exec_viota (w : GWord) (s : State) : exec (.viota w) s = execViota w s := rfl
@[simp] theorem exec_vrmax (w : GWord) (s : State) : exec (.vrmax w) s = execVrmax w s := rfl
@[simp] theorem exec_vrmin (w : GWord) (s : State) : exec (.vrmin w) s = execVrmin w s := rfl
@[simp] theorem exec_vrsum (w : GWord) (s : State) : exec (.vrsum w) s = execVrsum w s := rfl
@[simp] theorem exec_vscan (w : GWord) (s : State) : exec (.vscan w) s = execVscan w s := rfl
@[simp] theorem exec_vselm (w : GWord) (s : State) : exec (.vselm w) s = execVselm w s := rfl
@[simp] theorem exec_vshuf (w : GWord) (s : State) : exec (.vshuf w) s = execVshuf w s := rfl
@[simp] theorem exec_vslide (w : GWord) (s : State) : exec (.vslide w) s = execVslide w s := rfl
@[simp] theorem exec_vunzip (w : GWord) (s : State) : exec (.vunzip w) s = execVunzip w s := rfl
@[simp] theorem exec_vzip (w : GWord) (s : State) : exec (.vzip w) s = execVzip w s := rfl
@[simp] theorem exec_aadd (w : MWord) (s : State) : exec (.aadd w) s = execAadd w s := rfl
@[simp] theorem exec_aand (w : MWord) (s : State) : exec (.aand w) s = execAand w s := rfl
@[simp] theorem exec_acas (w : MWord) (s : State) : exec (.acas w) s = execAcas w s := rfl
@[simp] theorem exec_afadd (w : MWord) (s : State) : exec (.afadd w) s = execAfadd w s := rfl
@[simp] theorem exec_amax (w : MWord) (s : State) : exec (.amax w) s = execAmax w s := rfl
@[simp] theorem exec_amin (w : MWord) (s : State) : exec (.amin w) s = execAmin w s := rfl
@[simp] theorem exec_aor (w : MWord) (s : State) : exec (.aor w) s = execAor w s := rfl
@[simp] theorem exec_atset (w : MWord) (s : State) : exec (.atset w) s = execAtset w s := rfl
@[simp] theorem exec_axchg (w : MWord) (s : State) : exec (.axchg w) s = execAxchg w s := rfl
@[simp] theorem exec_axor (w : MWord) (s : State) : exec (.axor w) s = execAxor w s := rfl
@[simp] theorem exec_fence (w : MWord) (s : State) : exec (.fence w) s = execFence w s := rfl
@[simp] theorem exec_ld (w : MWord) (s : State) : exec (.ld w) s = execLd w s := rfl
@[simp] theorem exec_lds (w : MWord) (s : State) : exec (.lds w) s = execLds w s := rfl
@[simp] theorem exec_ldx (w : MWord) (s : State) : exec (.ldx w) s = execLdx w s := rfl
@[simp] theorem exec_pfetch (w : MWord) (s : State) : exec (.pfetch w) s = execPfetch w s := rfl
@[simp] theorem exec_reside (w : MWord) (s : State) : exec (.reside w) s = execReside w s := rfl
@[simp] theorem exec_st (w : MWord) (s : State) : exec (.st w) s = execSt w s := rfl
@[simp] theorem exec_sts (w : MWord) (s : State) : exec (.sts w) s = execSts w s := rfl
@[simp] theorem exec_stx (w : MWord) (s : State) : exec (.stx w) s = execStx w s := rfl
@[simp] theorem exec_widen (w : MWord) (s : State) : exec (.widen w) s = execWiden w s := rfl
@[simp] theorem exec_xlat (w : GWord) (s : State) : exec (.xlat w) s = execXlat w s := rfl
@[simp] theorem exec_attsc (w : EWord) (s : State) : exec (.attsc w) s = execAttsc w s := rfl
@[simp] theorem exec_baradd (w : EWord) (s : State) : exec (.baradd w) s = execBaradd w s := rfl
@[simp] theorem exec_bararr (w : EWord) (s : State) : exec (.bararr w) s = execBararr w s := rfl
@[simp] theorem exec_barinit (w : EWord) (s : State) : exec (.barinit w) s = execBarinit w s := rfl
@[simp] theorem exec_barwait (w : EWord) (s : State) : exec (.barwait w) s = execBarwait w s := rfl
@[simp] theorem exec_cclr (w : EWord) (s : State) : exec (.cclr w) s = execCclr w s := rfl
@[simp] theorem exec_coll (w : EWord) (s : State) : exec (.coll w) s = execColl w s := rfl
@[simp] theorem exec_cpy (w : EWord) (s : State) : exec (.cpy w) s = execCpy w s := rfl
@[simp] theorem exec_cpyfill (w : EWord) (s : State) : exec (.cpyfill w) s = execCpyfill w s := rfl
@[simp] theorem exec_cpyrot (w : EWord) (s : State) : exec (.cpyrot w) s = execCpyrot w s := rfl
@[simp] theorem exec_ffr (w : EWord) (s : State) : exec (.ffr w) s = execFfr w s := rfl
@[simp] theorem exec_gath (w : EWord) (s : State) : exec (.gath w) s = execGath w s := rfl
@[simp] theorem exec_intsect (w : EWord) (s : State) : exec (.intsect w) s = execIntsect w s := rfl
@[simp] theorem exec_mma (w : EWord) (s : State) : exec (.mma w) s = execMma w s := rfl
@[simp] theorem exec_mmas (w : EWord) (s : State) : exec (.mmas w) s = execMmas w s := rfl
@[simp] theorem exec_netrecv (w : EWord) (s : State) : exec (.netrecv w) s = execNetrecv w s := rfl
@[simp] theorem exec_netsend (w : EWord) (s : State) : exec (.netsend w) s = execNetsend w s := rfl
@[simp] theorem exec_poolcut (w : EWord) (s : State) : exec (.poolcut w) s = execPoolcut w s := rfl
@[simp] theorem exec_poolmove (w : EWord) (s : State) : exec (.poolmove w) s = execPoolmove w s := rfl
@[simp] theorem exec_poolqry (w : EWord) (s : State) : exec (.poolqry w) s = execPoolqry w s := rfl
@[simp] theorem exec_scld (w : EWord) (s : State) : exec (.scld w) s = execScld w s := rfl
@[simp] theorem exec_spacc (w : EWord) (s : State) : exec (.spacc w) s = execSpacc w s := rfl
@[simp] theorem exec_spflush (w : EWord) (s : State) : exec (.spflush w) s = execSpflush w s := rfl
@[simp] theorem exec_waitall (w : EWord) (s : State) : exec (.waitall w) s = execWaitall w s := rfl
@[simp] theorem exec_waitany (w : EWord) (s : State) : exec (.waitany w) s = execWaitany w s := rfl
@[simp] theorem exec_cfgload (w : GWord) (s : State) : exec (.cfgload w) s = execCfgload w s := rfl
@[simp] theorem exec_collapse (w : GWord) (s : State) : exec (.collapse w) s = execCollapse w s := rfl
@[simp] theorem exec_ctxrest (w : EWord) (s : State) : exec (.ctxrest w) s = execCtxrest w s := rfl
@[simp] theorem exec_ctxsave (w : EWord) (s : State) : exec (.ctxsave w) s = execCtxsave w s := rfl
@[simp] theorem exec_eret (w : GWord) (s : State) : exec (.eret w) s = execEret w s := rfl
@[simp] theorem exec_getc (w : GWord) (s : State) : exec (.getc w) s = execGetc w s := rfl
@[simp] theorem exec_kvapp (w : MWord) (s : State) : exec (.kvapp w) s = execKvapp w s := rfl
@[simp] theorem exec_kvmap (w : MWord) (s : State) : exec (.kvmap w) s = execKvmap w s := rfl
@[simp] theorem exec_launch (w : EWord) (s : State) : exec (.launch w) s = execLaunch w s := rfl
@[simp] theorem exec_logrec (w : MWord) (s : State) : exec (.logrec w) s = execLogrec w s := rfl
@[simp] theorem exec_nop (w : GWord) (s : State) : exec (.nop w) s = execNop w s := rfl
@[simp] theorem exec_pfxcmp (w : EWord) (s : State) : exec (.pfxcmp w) s = execPfxcmp w s := rfl
@[simp] theorem exec_replay (w : MWord) (s : State) : exec (.replay w) s = execReplay w s := rfl
@[simp] theorem exec_rng (w : GWord) (s : State) : exec (.rng w) s = execRng w s := rfl
@[simp] theorem exec_setc (w : GWord) (s : State) : exec (.setc w) s = execSetc w s := rfl
@[simp] theorem exec_setcFclr (w : GWord) (s : State) : exec (.setcFclr w) s = execSetcFclr w s := rfl
@[simp] theorem exec_skget (w : GWord) (s : State) : exec (.skget w) s = execSkget w s := rfl
@[simp] theorem exec_skmix (w : GWord) (s : State) : exec (.skmix w) s = execSkmix w s := rfl
@[simp] theorem exec_skset (w : GWord) (s : State) : exec (.skset w) s = execSkset w s := rfl
@[simp] theorem exec_smaxinit (w : GWord) (s : State) : exec (.smaxinit w) s = execSmaxinit w s := rfl
@[simp] theorem exec_smaxupd (w : GWord) (s : State) : exec (.smaxupd w) s = execSmaxupd w s := rfl
@[simp] theorem exec_specbeg (w : EWord) (s : State) : exec (.specbeg w) s = execSpecbeg w s := rfl
@[simp] theorem exec_speccmt (w : EWord) (s : State) : exec (.speccmt w) s = execSpeccmt w s := rfl
@[simp] theorem exec_specres (w : GWord) (s : State) : exec (.specres w) s = execSpecres w s := rfl
@[simp] theorem exec_takein (w : EWord) (s : State) : exec (.takein w) s = execTakein w s := rfl
@[simp] theorem exec_trap (w : GWord) (s : State) : exec (.trap w) s = execTrap w s := rfl
@[simp] theorem exec_withdraw (w : EWord) (s : State) : exec (.withdraw w) s = execWithdraw w s := rfl
@[simp] theorem exec_tokenArrival (core k : Nat) (s : State) : exec (.tokenArrival core k) s = execTokenArrival core k s := rfl
@[simp] theorem exec_illegal (word : Word) (s : State) : exec (.illegal word) s = execIllegal word s := rfl
@[simp] theorem exec_managementPageWrite (cc core elem ctx slot : Nat) (word : Word) (s : State) : exec (.managementPageWrite cc core elem ctx slot word) s = execManagementPageWrite cc core elem ctx slot word s := rfl
@[simp] theorem exec_reconfiguration (core elem k : Nat) (s : State) : exec (.reconfiguration core elem k) s = execReconfiguration core elem k s := rfl
@[simp] theorem exec_elementContextSwitch (core elem : Nat) (s : State) : exec (.elementContextSwitch core elem) s = execElementContextSwitch core elem s := rfl
@[simp] theorem exec_blockFetch (core : Nat) (s : State) : exec (.blockFetch core) s = execBlockFetch core s := rfl
@[simp] theorem exec_bobbinAllocation (core ctx : Nat) (s : State) : exec (.bobbinAllocation core ctx) s = execBobbinAllocation core ctx s := rfl
@[simp] theorem exec_tagExhaust (core ctx : Nat) (s : State) : exec (.tagExhaust core ctx) s = execTagExhaust core ctx s := rfl
@[simp] theorem exec_matchStall (core elem : Nat) (s : State) : exec (.matchStall core elem) s = execMatchStall core elem s := rfl
@[simp] theorem exec_frameRead (core ctx n d : Nat) (s : State) : exec (.frameRead core ctx n d) s = execFrameRead core ctx n d s := rfl
@[simp] theorem exec_channelSlotRead (core ctx n d : Nat) (s : State) : exec (.channelSlotRead core ctx n d) s = execChannelSlotRead core ctx n d s := rfl
@[simp] theorem exec_instanceCommit (core ctx : Nat) (s : State) : exec (.instanceCommit core ctx) s = execInstanceCommit core ctx s := rfl
@[simp] theorem exec_instanceTrap (core ctx : Nat) (s : State) : exec (.instanceTrap core ctx) s = execInstanceTrap core ctx s := rfl
@[simp] theorem exec_contextEnd (core ctx : Nat) (s : State) : exec (.contextEnd core ctx) s = execContextEnd core ctx s := rfl
@[simp] theorem exec_loadReturn (core ctx k : Nat) (s : State) : exec (.loadReturn core ctx k) s = execLoadReturn core ctx k s := rfl
@[simp] theorem exec_pageInRequest (core port slot : Nat) (s : State) : exec (.pageInRequest core port slot) s = execPageInRequest core port slot s := rfl
@[simp] theorem exec_atomicPerform (core ctx k : Nat) (s : State) : exec (.atomicPerform core ctx k) s = execAtomicPerform core ctx k s := rfl
@[simp] theorem exec_shootdown (core : Nat) (s : State) : exec (.shootdown core) s = execShootdown core s := rfl
@[simp] theorem exec_barrierApply (core ctx k : Nat) (s : State) : exec (.barrierApply core ctx k) s = execBarrierApply core ctx k s := rfl
@[simp] theorem exec_barwaitRelease (core ctx k : Nat) (s : State) : exec (.barwaitRelease core ctx k) s = execBarwaitRelease core ctx k s := rfl
@[simp] theorem exec_completionTagTake (core ctx k : Nat) (s : State) : exec (.completionTagTake core ctx k) s = execCompletionTagTake core ctx k s := rfl
@[simp] theorem exec_waitSatisfied (core ctx k : Nat) (s : State) : exec (.waitSatisfied core ctx k) s = execWaitSatisfied core ctx k s := rfl
@[simp] theorem exec_poolcutApply (core ctx k : Nat) (s : State) : exec (.poolcutApply core ctx k) s = execPoolcutApply core ctx k s := rfl
@[simp] theorem exec_poolTransition (core : Nat) (s : State) : exec (.poolTransition core) s = execPoolTransition core s := rfl
@[simp] theorem exec_poolmoveCompletion (core k : Nat) (s : State) : exec (.poolmoveCompletion core k) s = execPoolmoveCompletion core k s := rfl
@[simp] theorem exec_matrixCommandStart (core k : Nat) (s : State) : exec (.matrixCommandStart core k) s = execMatrixCommandStart core k s := rfl
@[simp] theorem exec_matrixCompletion (core k : Nat) (s : State) : exec (.matrixCompletion core k) s = execMatrixCompletion core k s := rfl
@[simp] theorem exec_consumedEvent (core k : Nat) (s : State) : exec (.consumedEvent core k) s = execConsumedEvent core k s := rfl
@[simp] theorem exec_scaleTokenArrival (core k : Nat) (s : State) : exec (.scaleTokenArrival core k) s = execScaleTokenArrival core k s := rfl
@[simp] theorem exec_streamerAccept (core : Nat) (s : State) : exec (.streamerAccept core) s = execStreamerAccept core s := rfl
@[simp] theorem exec_streamerCompletion (core k : Nat) (s : State) : exec (.streamerCompletion core k) s = execStreamerCompletion core k s := rfl
@[simp] theorem exec_rateWindow (core ctx : Nat) (s : State) : exec (.rateWindow core ctx) s = execRateWindow core ctx s := rfl
@[simp] theorem exec_gatherEntryIssue (core k : Nat) (s : State) : exec (.gatherEntryIssue core k) s = execGatherEntryIssue core k s := rfl
@[simp] theorem exec_gatherReturn (core k : Nat) (s : State) : exec (.gatherReturn core k) s = execGatherReturn core k s := rfl
@[simp] theorem exec_intsectStreamSend (core k : Nat) (s : State) : exec (.intsectStreamSend core k) s = execIntsectStreamSend core k s := rfl
@[simp] theorem exec_spaccApply (core ctx k : Nat) (s : State) : exec (.spaccApply core ctx k) s = execSpaccApply core ctx k s := rfl
@[simp] theorem exec_spflushCompletion (core k : Nat) (s : State) : exec (.spflushCompletion core k) s = execSpflushCompletion core k s := rfl
@[simp] theorem exec_collInstance (part group epoch : Nat) (s : State) : exec (.collInstance part group epoch) s = execCollInstance part group epoch s := rfl
@[simp] theorem exec_collCompletion (core k : Nat) (s : State) : exec (.collCompletion core k) s = execCollCompletion core k s := rfl
@[simp] theorem exec_netCompletion (core k status : Nat) (data : List Byte) (s : State) : exec (.netCompletion core k status data) s = execNetCompletion core k status data s := rfl
@[simp] theorem exec_sendArrival (qp : Nat) (data : List Byte) (s : State) : exec (.sendArrival qp data) s = execSendArrival qp data s := rfl
@[simp] theorem exec_rdmaWriteArrival (qp : Nat) (addr : Word) (data : List Byte) (s : State) : exec (.rdmaWriteArrival qp addr data) s = execRdmaWriteArrival qp addr data s := rfl
@[simp] theorem exec_kvappPerform (core ctx k : Nat) (s : State) : exec (.kvappPerform core ctx k) s = execKvappPerform core ctx k s := rfl
@[simp] theorem exec_replayPerform (core ctx k : Nat) (s : State) : exec (.replayPerform core ctx k) s = execReplayPerform core ctx k s := rfl
@[simp] theorem exec_specApply (core ctx k : Nat) (s : State) : exec (.specApply core ctx k) s = execSpecApply core ctx k s := rfl
@[simp] theorem exec_channelEntryArrival (core ctx slot : Nat) (s : State) : exec (.channelEntryArrival core ctx slot) s = execChannelEntryArrival core ctx slot s := rfl
@[simp] theorem exec_seamCredit (core ctx slot : Nat) (s : State) : exec (.seamCredit core ctx slot) s = execSeamCredit core ctx slot s := rfl
@[simp] theorem exec_linkFlitRetry (link : Nat) (s : State) : exec (.linkFlitRetry link) s = execLinkFlitRetry link s := rfl
@[simp] theorem exec_linkFailure (link : Nat) (s : State) : exec (.linkFailure link) s = execLinkFailure link s := rfl
@[simp] theorem exec_partReply (cc part : Nat) (value : Word) (s : State) : exec (.partReply cc part value) s = execPartReply cc part value s := rfl
@[simp] theorem exec_resumeRetry (cc core ctx node : Nat) (s : State) : exec (.resumeRetry cc core ctx node) s = execResumeRetry cc core ctx node s := rfl
@[simp] theorem exec_resumeTrap (cc core ctx node : Nat) (s : State) : exec (.resumeTrap cc core ctx node) s = execResumeTrap cc core ctx node s := rfl
@[simp] theorem exec_takeIn (core ctx : Nat) (s : State) : exec (.takeIn core ctx) s = execTakeIn core ctx s := rfl
@[simp] theorem exec_takeInTimeout (core ctx : Nat) (s : State) : exec (.takeInTimeout core ctx) s = execTakeInTimeout core ctx s := rfl
@[simp] theorem exec_panelGrowth (core ctx : Nat) (s : State) : exec (.panelGrowth core ctx) s = execPanelGrowth core ctx s := rfl
@[simp] theorem exec_ctxsaveCompletion (core k : Nat) (s : State) : exec (.ctxsaveCompletion core k) s = execCtxsaveCompletion core k s := rfl
@[simp] theorem exec_ctxrestCompletion (core k : Nat) (s : State) : exec (.ctxrestCompletion core k) s = execCtxrestCompletion core k s := rfl
@[simp] theorem exec_savedCommandCompletion (part n k status : Nat) (s : State) : exec (.savedCommandCompletion part n k status) s = execSavedCommandCompletion part n k status s := rfl
@[simp] theorem exec_dispatch (part : Nat) (s : State) : exec (.dispatch part) s = execDispatch part s := rfl
@[simp] theorem exec_resumeRestore (part : Nat) (s : State) : exec (.resumeRestore part) s = execResumeRestore part s := rfl
@[simp] theorem exec_launchReserve (core ctx k : Nat) (s : State) : exec (.launchReserve core ctx k) s = execLaunchReserve core ctx k s := rfl
@[simp] theorem exec_qDoor (cc part q : Nat) (addr : Word) (s : State) : exec (.qDoor cc part q addr) s = execQDoor cc part q addr s := rfl
@[simp] theorem exec_partWdraw (cc part : Nat) (key : Word) (s : State) : exec (.partWdraw cc part key) s = execPartWdraw cc part key s := rfl
@[simp] theorem exec_partKill (cc part : Nat) (value : Word) (s : State) : exec (.partKill cc part value) s = execPartKill cc part value s := rfl
@[simp] theorem exec_partReset (cc part : Nat) (value : Word) (s : State) : exec (.partReset cc part value) s = execPartReset cc part value s := rfl
@[simp] theorem exec_partCoresWrite (cc part half : Nat) (value : Word) (s : State) : exec (.partCoresWrite cc part half value) s = execPartCoresWrite cc part half value s := rfl
@[simp] theorem exec_partShoot (cc part : Nat) (value : Word) (s : State) : exec (.partShoot cc part value) s = execPartShoot cc part value s := rfl
@[simp] theorem exec_shootdownComplete (part : Nat) (s : State) : exec (.shootdownComplete part) s = execShootdownComplete part s := rfl
@[simp] theorem exec_partPreq (cc part : Nat) (value : Word) (s : State) : exec (.partPreq cc part value) s = execPartPreq cc part value s := rfl
@[simp] theorem exec_cxRlim (cc core ctx : Nat) (value : Word) (s : State) : exec (.cxRlim cc core ctx value) s = execCxRlim cc core ctx value s := rfl
@[simp] theorem exec_qpCfg (cc qp : Nat) (value : Word) (s : State) : exec (.qpCfg cc qp value) s = execQpCfg cc qp value s := rfl
@[simp] theorem exec_netLaunch (qp : Nat) (data : List Byte) (s : State) : exec (.netLaunch qp data) s = execNetLaunch qp data s := rfl
@[simp] theorem exec_netWithdraw (qp : Nat) (data : List Byte) (s : State) : exec (.netWithdraw qp data) s = execNetWithdraw qp data s := rfl
@[simp] theorem exec_netBadOp (qp : Nat) (data : List Byte) (s : State) : exec (.netBadOp qp data) s = execNetBadOp qp data s := rfl
@[simp] theorem exec_refreshRetry (stack hint : Nat) (s : State) : exec (.refreshRetry stack hint) s = execRefreshRetry stack hint s := rfl
@[simp] theorem exec_rowRefresh (stack row : Nat) (s : State) : exec (.rowRefresh stack row) s = execRowRefresh stack row s := rfl
@[simp] theorem exec_patrolScrub (stack row : Nat) (found : Bool) (s : State) : exec (.patrolScrub stack row found) s = execPatrolScrub stack row found s := rfl
@[simp] theorem exec_correctableError (stack row : Nat) (s : State) : exec (.correctableError stack row) s = execCorrectableError stack row s := rfl
@[simp] theorem exec_uncorrectableError (addr : Nat) (s : State) : exec (.uncorrectableError addr) s = execUncorrectableError addr s := rfl
@[simp] theorem exec_errorWindowEnd (stack : Nat) (s : State) : exec (.errorWindowEnd stack) s = execErrorWindowEnd stack s := rfl
@[simp] theorem exec_mcDue (cc stack : Nat) (value : Word) (s : State) : exec (.mcDue cc stack value) s = execMcDue cc stack value s := rfl
@[simp] theorem exec_mcCfg (cc stack : Nat) (value : Word) (s : State) : exec (.mcCfg cc stack value) s = execMcCfg cc stack value s := rfl
@[simp] theorem exec_boot (m : Manifest) (s : State) : exec (.boot m) s = execBoot m s := rfl
@[simp] theorem exec_networkRecoveryFrame (m : Manifest) (s : State) : exec (.networkRecoveryFrame m) s = execNetworkRecoveryFrame m s := rfl
@[simp] theorem exec_mgArb (cc k : Nat) (mask : Word) (s : State) : exec (.mgArb cc k mask) s = execMgArb cc k mask s := rfl
@[simp] theorem exec_mgAttest (cc : Nat) (addr : Word) (s : State) : exec (.mgAttest cc addr) s = execMgAttest cc addr s := rfl
@[simp] theorem exec_attestComplete (s : State) : exec .attestComplete s = execAttestComplete s := rfl
@[simp] theorem exec_mgReset (cc : Nat) (value : Word) (s : State) : exec (.mgReset cc value) s = execMgReset cc value s := rfl
@[simp] theorem exec_powerCapStep (now : Nat) (s : State) : exec (.powerCapStep now) s = execPowerCapStep now s := rfl
@[simp] theorem exec_thermalStop (tj : Nat) (s : State) : exec (.thermalStop tj) s = execThermalStop tj s := rfl
@[simp] theorem exec_thermalRestart (tj : Nat) (s : State) : exec (.thermalRestart tj) s = execThermalRestart tj s := rfl
@[simp] theorem exec_registerWrite (cc : Nat) (addr value : Word) (s : State) : exec (.registerWrite cc addr value) s = execRegisterWrite cc addr value s := rfl
@[simp] theorem exec_controlCoreAccess (cc part : Nat) (addr : Word) (op : CcOp) (s : State) : exec (.controlCoreAccess cc part addr op) s = execControlCoreAccess cc part addr op s := rfl
@[simp] theorem exec_rdmaReadRequest (qp : Nat) (addr : Word) (len : Nat) (s : State) : exec (.rdmaReadRequest qp addr len) s = execRdmaReadRequest qp addr len s := rfl
@[simp] theorem exec_powerCapLift (now : Nat) (s : State) : exec (.powerCapLift now) s = execPowerCapLift now s := rfl

end Sys2Proof.Machine
end

