-- ==== Sys2Proof/Laws/State.lean ====
section
/-! SUPPORT. The small lemmas of the state's accessors: one per field and update, and what a read of a unit gives after a
write of one. -/

namespace Sys2Proof.Machine

/-! ## Fields that an update leaves alone -/

@[simp] theorem State.setCore_mem (s : State) (c : Nat) (k : Core) : (s.setCore c k).mem = s.mem := rfl
@[simp] theorem State.setCore_parts (s : State) (c : Nat) (k : Core) : (s.setCore c k).parts = s.parts := rfl
@[simp] theorem State.setCore_mcs (s : State) (c : Nat) (k : Core) : (s.setCore c k).mcs = s.mcs := rfl
@[simp] theorem State.setCore_qps (s : State) (c : Nat) (k : Core) : (s.setCore c k).qps = s.qps := rfl
@[simp] theorem State.setCore_links (s : State) (c : Nat) (k : Core) : (s.setCore c k).links = s.links := rfl
@[simp] theorem State.setCore_llc (s : State) (c : Nat) (k : Core) : (s.setCore c k).llc = s.llc := rfl
@[simp] theorem State.setCore_rels (s : State) (c : Nat) (k : Core) : (s.setCore c k).rels = s.rels := rfl
@[simp] theorem State.setCore_bad (s : State) (c : Nat) (k : Core) : (s.setCore c k).bad = s.bad := rfl
@[simp] theorem State.setCore_dev (s : State) (c : Nat) (k : Core) : (s.setCore c k).dev = s.dev := rfl
@[simp] theorem State.setCore_dcyc (s : State) (c : Nat) (k : Core) : (s.setCore c k).dcyc = s.dcyc := rfl
@[simp] theorem State.setCore_netTx (s : State) (c : Nat) (k : Core) : (s.setCore c k).netTx = s.netTx := rfl
@[simp] theorem State.setCore_ccOut (s : State) (c : Nat) (k : Core) : (s.setCore c k).ccOut = s.ccOut := rfl
@[simp] theorem State.setCore_ccResv (s : State) (c : Nat) (k : Core) : (s.setCore c k).ccResv = s.ccResv := rfl
@[simp] theorem State.setCore_agenda (s : State) (c : Nat) (k : Core) : (s.setCore c k).agenda = s.agenda := rfl
@[simp] theorem State.setCore_sel (s : State) (c : Nat) (k : Core) : (s.setCore c k).sel = s.sel := rfl
@[simp] theorem State.setCore_draw (s : State) (c : Nat) (k : Core) : (s.setCore c k).draw = s.draw := rfl

@[simp] theorem State.setCx_mem (s : State) (c x : Nat) (v : Ctx) : (s.setCx c x v).mem = s.mem := rfl
@[simp] theorem State.setCx_parts (s : State) (c x : Nat) (v : Ctx) : (s.setCx c x v).parts = s.parts := rfl
@[simp] theorem State.setCx_mcs (s : State) (c x : Nat) (v : Ctx) : (s.setCx c x v).mcs = s.mcs := rfl
@[simp] theorem State.setCx_qps (s : State) (c x : Nat) (v : Ctx) : (s.setCx c x v).qps = s.qps := rfl
@[simp] theorem State.setCx_links (s : State) (c x : Nat) (v : Ctx) : (s.setCx c x v).links = s.links := rfl
@[simp] theorem State.setCx_llc (s : State) (c x : Nat) (v : Ctx) : (s.setCx c x v).llc = s.llc := rfl
@[simp] theorem State.setCx_rels (s : State) (c x : Nat) (v : Ctx) : (s.setCx c x v).rels = s.rels := rfl
@[simp] theorem State.setCx_bad (s : State) (c x : Nat) (v : Ctx) : (s.setCx c x v).bad = s.bad := rfl
@[simp] theorem State.setCx_dev (s : State) (c x : Nat) (v : Ctx) : (s.setCx c x v).dev = s.dev := rfl
@[simp] theorem State.setCx_dcyc (s : State) (c x : Nat) (v : Ctx) : (s.setCx c x v).dcyc = s.dcyc := rfl
@[simp] theorem State.setCx_netTx (s : State) (c x : Nat) (v : Ctx) : (s.setCx c x v).netTx = s.netTx := rfl
@[simp] theorem State.setCx_ccOut (s : State) (c x : Nat) (v : Ctx) : (s.setCx c x v).ccOut = s.ccOut := rfl
@[simp] theorem State.setCx_ccResv (s : State) (c x : Nat) (v : Ctx) : (s.setCx c x v).ccResv = s.ccResv := rfl
@[simp] theorem State.setCx_agenda (s : State) (c x : Nat) (v : Ctx) : (s.setCx c x v).agenda = s.agenda := rfl
@[simp] theorem State.setCx_sel (s : State) (c x : Nat) (v : Ctx) : (s.setCx c x v).sel = s.sel := rfl
@[simp] theorem State.setCx_draw (s : State) (c x : Nat) (v : Ctx) : (s.setCx c x v).draw = s.draw := rfl

@[simp] theorem State.setElem_mem (s : State) (c e : Nat) (v : Elem) : (s.setElem c e v).mem = s.mem := rfl
@[simp] theorem State.setElem_parts (s : State) (c e : Nat) (v : Elem) : (s.setElem c e v).parts = s.parts := rfl
@[simp] theorem State.setElem_mcs (s : State) (c e : Nat) (v : Elem) : (s.setElem c e v).mcs = s.mcs := rfl
@[simp] theorem State.setElem_qps (s : State) (c e : Nat) (v : Elem) : (s.setElem c e v).qps = s.qps := rfl
@[simp] theorem State.setElem_links (s : State) (c e : Nat) (v : Elem) : (s.setElem c e v).links = s.links := rfl
@[simp] theorem State.setElem_llc (s : State) (c e : Nat) (v : Elem) : (s.setElem c e v).llc = s.llc := rfl
@[simp] theorem State.setElem_rels (s : State) (c e : Nat) (v : Elem) : (s.setElem c e v).rels = s.rels := rfl
@[simp] theorem State.setElem_bad (s : State) (c e : Nat) (v : Elem) : (s.setElem c e v).bad = s.bad := rfl
@[simp] theorem State.setElem_dev (s : State) (c e : Nat) (v : Elem) : (s.setElem c e v).dev = s.dev := rfl
@[simp] theorem State.setElem_dcyc (s : State) (c e : Nat) (v : Elem) : (s.setElem c e v).dcyc = s.dcyc := rfl
@[simp] theorem State.setElem_netTx (s : State) (c e : Nat) (v : Elem) : (s.setElem c e v).netTx = s.netTx := rfl
@[simp] theorem State.setElem_ccOut (s : State) (c e : Nat) (v : Elem) : (s.setElem c e v).ccOut = s.ccOut := rfl
@[simp] theorem State.setElem_ccResv (s : State) (c e : Nat) (v : Elem) : (s.setElem c e v).ccResv = s.ccResv := rfl
@[simp] theorem State.setElem_agenda (s : State) (c e : Nat) (v : Elem) : (s.setElem c e v).agenda = s.agenda := rfl
@[simp] theorem State.setElem_sel (s : State) (c e : Nat) (v : Elem) : (s.setElem c e v).sel = s.sel := rfl
@[simp] theorem State.setElem_draw (s : State) (c e : Nat) (v : Elem) : (s.setElem c e v).draw = s.draw := rfl

@[simp] theorem State.setPart_mem (s : State) (p : Nat) (v : Part) : (s.setPart p v).mem = s.mem := rfl
@[simp] theorem State.setPart_cores (s : State) (p : Nat) (v : Part) : (s.setPart p v).cores = s.cores := rfl
@[simp] theorem State.setPart_mcs (s : State) (p : Nat) (v : Part) : (s.setPart p v).mcs = s.mcs := rfl
@[simp] theorem State.setPart_qps (s : State) (p : Nat) (v : Part) : (s.setPart p v).qps = s.qps := rfl
@[simp] theorem State.setPart_links (s : State) (p : Nat) (v : Part) : (s.setPart p v).links = s.links := rfl
@[simp] theorem State.setPart_llc (s : State) (p : Nat) (v : Part) : (s.setPart p v).llc = s.llc := rfl
@[simp] theorem State.setPart_rels (s : State) (p : Nat) (v : Part) : (s.setPart p v).rels = s.rels := rfl
@[simp] theorem State.setPart_bad (s : State) (p : Nat) (v : Part) : (s.setPart p v).bad = s.bad := rfl
@[simp] theorem State.setPart_dev (s : State) (p : Nat) (v : Part) : (s.setPart p v).dev = s.dev := rfl
@[simp] theorem State.setPart_dcyc (s : State) (p : Nat) (v : Part) : (s.setPart p v).dcyc = s.dcyc := rfl
@[simp] theorem State.setPart_netTx (s : State) (p : Nat) (v : Part) : (s.setPart p v).netTx = s.netTx := rfl
@[simp] theorem State.setPart_ccOut (s : State) (p : Nat) (v : Part) : (s.setPart p v).ccOut = s.ccOut := rfl
@[simp] theorem State.setPart_ccResv (s : State) (p : Nat) (v : Part) : (s.setPart p v).ccResv = s.ccResv := rfl
@[simp] theorem State.setPart_agenda (s : State) (p : Nat) (v : Part) : (s.setPart p v).agenda = s.agenda := rfl
@[simp] theorem State.setPart_sel (s : State) (p : Nat) (v : Part) : (s.setPart p v).sel = s.sel := rfl
@[simp] theorem State.setPart_draw (s : State) (p : Nat) (v : Part) : (s.setPart p v).draw = s.draw := rfl

@[simp] theorem State.setMc_mem (s : State) (n : Nat) (v : MemCtl) : (s.setMc n v).mem = s.mem := rfl
@[simp] theorem State.setMc_cores (s : State) (n : Nat) (v : MemCtl) : (s.setMc n v).cores = s.cores := rfl
@[simp] theorem State.setMc_parts (s : State) (n : Nat) (v : MemCtl) : (s.setMc n v).parts = s.parts := rfl
@[simp] theorem State.setMc_qps (s : State) (n : Nat) (v : MemCtl) : (s.setMc n v).qps = s.qps := rfl
@[simp] theorem State.setMc_links (s : State) (n : Nat) (v : MemCtl) : (s.setMc n v).links = s.links := rfl
@[simp] theorem State.setMc_llc (s : State) (n : Nat) (v : MemCtl) : (s.setMc n v).llc = s.llc := rfl
@[simp] theorem State.setMc_rels (s : State) (n : Nat) (v : MemCtl) : (s.setMc n v).rels = s.rels := rfl
@[simp] theorem State.setMc_bad (s : State) (n : Nat) (v : MemCtl) : (s.setMc n v).bad = s.bad := rfl
@[simp] theorem State.setMc_dev (s : State) (n : Nat) (v : MemCtl) : (s.setMc n v).dev = s.dev := rfl
@[simp] theorem State.setMc_dcyc (s : State) (n : Nat) (v : MemCtl) : (s.setMc n v).dcyc = s.dcyc := rfl
@[simp] theorem State.setMc_netTx (s : State) (n : Nat) (v : MemCtl) : (s.setMc n v).netTx = s.netTx := rfl
@[simp] theorem State.setMc_ccOut (s : State) (n : Nat) (v : MemCtl) : (s.setMc n v).ccOut = s.ccOut := rfl
@[simp] theorem State.setMc_ccResv (s : State) (n : Nat) (v : MemCtl) : (s.setMc n v).ccResv = s.ccResv := rfl
@[simp] theorem State.setMc_agenda (s : State) (n : Nat) (v : MemCtl) : (s.setMc n v).agenda = s.agenda := rfl
@[simp] theorem State.setMc_sel (s : State) (n : Nat) (v : MemCtl) : (s.setMc n v).sel = s.sel := rfl
@[simp] theorem State.setMc_draw (s : State) (n : Nat) (v : MemCtl) : (s.setMc n v).draw = s.draw := rfl

/-! ## Reading a unit after a write -/

/-- A list read at a place after a write there or elsewhere. -/
theorem getD_set_self {α : Type} (l : List α) (n : Nat) (a d : α) (h : n < l.length) : (l.set n a).getD n d = a := by
  simp [List.getD, h]

theorem getD_set_ne {α : Type} (l : List α) (n m : Nat) (a d : α) (h : n ≠ m) : (l.set n a).getD m d = l.getD m d := by
  simp [List.getD, h]

/-- A write past the end changes nothing. -/
theorem set_of_length_le {α : Type} (l : List α) (n : Nat) (a : α) (h : l.length ≤ n) : l.set n a = l :=
  List.set_eq_of_length_le h

/-- Writing back what stands at a place changes nothing. -/
theorem set_getD_self {α : Type} (l : List α) (n : Nat) (d : α) : l.set n (l.getD n d) = l := by
  by_cases h : n < l.length
  · simp [List.getD, h]
  · exact set_of_length_le l n _ (by omega)

theorem State.core_setCore_self (s : State) (c : Nat) (k : Core) (h : c < s.cores.length) : (s.setCore c k).core c = k :=
  getD_set_self _ _ _ _ h

theorem State.core_setCore_ne (s : State) (c d : Nat) (k : Core) (h : c ≠ d) : (s.setCore c k).core d = s.core d :=
  getD_set_ne _ _ _ _ _ h

/-- Two writes of one core come to the second. -/
theorem State.setCore_setCore (s : State) (c : Nat) (k k' : Core) : (s.setCore c k).setCore c k' = s.setCore c k' := by
  simp [State.setCore]

/-- A core that the package does not have cannot be written. -/
theorem State.setCore_absent (s : State) (c : Nat) (k : Core) (h : s.cores.length ≤ c) : s.setCore c k = s := by
  simp [State.setCore, set_of_length_le _ _ _ h]

theorem State.setCore_core (s : State) (c : Nat) : s.setCore c (s.core c) = s := by
  unfold State.setCore State.core
  rw [set_getD_self]

@[simp] theorem State.core_setPart (s : State) (p c : Nat) (v : Part) : (s.setPart p v).core c = s.core c := rfl
@[simp] theorem State.core_setMc (s : State) (n c : Nat) (v : MemCtl) : (s.setMc n v).core c = s.core c := rfl
@[simp] theorem State.part_setCore (s : State) (p c : Nat) (k : Core) : (s.setCore c k).part p = s.part p := rfl
@[simp] theorem State.part_setCx (s : State) (p c x : Nat) (v : Ctx) : (s.setCx c x v).part p = s.part p := rfl
@[simp] theorem State.cx_setPart (s : State) (p c x : Nat) (v : Part) : (s.setPart p v).cx c x = s.cx c x := rfl

theorem State.part_setPart_self (s : State) (p : Nat) (v : Part) (h : p < s.parts.length) : (s.setPart p v).part p = v :=
  getD_set_self _ _ _ _ h

theorem State.part_setPart_ne (s : State) (p q : Nat) (v : Part) (h : p ≠ q) : (s.setPart p v).part q = s.part q :=
  getD_set_ne _ _ _ _ _ h

theorem State.mc_setMc_self (s : State) (n : Nat) (v : MemCtl) (h : n < s.mcs.length) : (s.setMc n v).mc n = v :=
  getD_set_self _ _ _ _ h

@[simp] theorem State.setCore_cores_length (s : State) (c : Nat) (k : Core) :
    (s.setCore c k).cores.length = s.cores.length := by simp [State.setCore]

@[simp] theorem State.setCx_cores_length (s : State) (c x : Nat) (v : Ctx) :
    (s.setCx c x v).cores.length = s.cores.length := by simp [State.setCx]

@[simp] theorem State.setPart_parts_length (s : State) (p : Nat) (v : Part) :
    (s.setPart p v).parts.length = s.parts.length := by simp [State.setPart]

theorem State.cx_setCx_self (s : State) (c x : Nat) (v : Ctx) (hc : c < s.cores.length)
    (hx : x < (s.core c).cxs.length) : (s.setCx c x v).cx c x = v := by
  unfold State.cx State.setCx
  rw [State.core_setCore_self _ _ _ hc]
  exact getD_set_self _ _ _ _ hx

theorem State.cx_setCx_ne (s : State) (c x y : Nat) (v : Ctx) (h : x ≠ y) : (s.setCx c x v).cx c y = s.cx c y := by
  unfold State.cx State.setCx
  by_cases hc : c < s.cores.length
  · rw [State.core_setCore_self _ _ _ hc]
    exact getD_set_ne _ _ _ _ _ h
  · rw [State.setCore_absent _ _ _ (by omega)]

theorem State.cx_setCx_core (s : State) (c d x y : Nat) (v : Ctx) (h : c ≠ d) : (s.setCx c x v).cx d y = s.cx d y := by
  unfold State.cx State.setCx
  rw [State.core_setCore_ne _ _ _ _ h]

theorem State.elem_setElem_self (s : State) (c e : Nat) (v : Elem) (hc : c < s.cores.length)
    (he : e < (s.core c).elems.length) : (s.setElem c e v).elem c e = v := by
  unfold State.elem State.setElem
  rw [State.core_setCore_self _ _ _ hc]
  exact getD_set_self _ _ _ _ he

/-! ## After reset -/

theorem getD_replicate {α : Type} (n k : Nat) (a : α) : (List.replicate n a).getD k a = a := by
  simp only [List.getD, List.getElem?_replicate]
  split <;> rfl

@[simp] theorem State.reset_core (c : Nat) : State.reset.core c = Core.reset := getD_replicate 72 c Core.reset
@[simp] theorem State.reset_part (p : Nat) : State.reset.part p = Part.reset := getD_replicate 8 p Part.reset
@[simp] theorem State.reset_mc (n : Nat) : State.reset.mc n = MemCtl.reset := getD_replicate 12 n MemCtl.reset

@[simp] theorem State.reset_cx (c x : Nat) : State.reset.cx c x = Ctx.reset := by
  unfold State.cx
  rw [State.reset_core]
  exact getD_replicate 8 x Ctx.reset

@[simp] theorem State.reset_elem (c e : Nat) : State.reset.elem c e = Elem.reset := by
  unfold State.elem
  rw [State.reset_core]
  exact getD_replicate 64 e Elem.reset

end Sys2Proof.Machine
end

