-- ==== Sys2Proof/Laws/Memory.lean ====
section
/-! SUPPORT. The laws of memory: a read after a write, and every memory operation keeps the canonical form. -/

namespace Sys2Proof.Machine

/-! ## One byte -/

@[simp] theorem Memory.get_nil (k : Nat) : Memory.get [] k = Config.unlistedByte := rfl

theorem Memory.get_cons (a : Nat) (b : Byte) (m : Memory) (k : Nat) :
    Memory.get ((a, b) :: m) k = if k < a then Config.unlistedByte else if k = a then b else Memory.get m k := rfl

theorem Memory.wfFrom_cons (lo a : Nat) (b : Byte) (m : Memory) :
    Memory.wfFrom lo ((a, b) :: m) = true ↔ lo ≤ a ∧ b ≠ Config.unlistedByte ∧ Memory.wfFrom (a + 1) m = true := by
  simp [Memory.wfFrom, and_assoc]

theorem Memory.wfFrom_mono {lo hi : Nat} {m : Memory} (h : Memory.wfFrom hi m = true) (hl : lo ≤ hi) :
    Memory.wfFrom lo m = true := by
  cases m with
  | nil => rfl
  | cons x m =>
    obtain ⟨a, b⟩ := x
    rw [Memory.wfFrom_cons] at h ⊢
    exact ⟨by omega, h.2⟩

/-- Below the canonical form's bound nothing is listed. -/
theorem Memory.get_below {lo k : Nat} {m : Memory} (h : Memory.wfFrom lo m = true) (hk : k < lo) :
    Memory.get m k = Config.unlistedByte := by
  cases m with
  | nil => rfl
  | cons x m =>
    obtain ⟨a, b⟩ := x
    rw [Memory.wfFrom_cons] at h
    rw [Memory.get_cons, if_pos (by omega)]

theorem Memory.put_wfFrom {lo : Nat} {m : Memory} (k : Nat) (v : Byte) (h : Memory.wfFrom lo m = true) (hk : lo ≤ k) :
    Memory.wfFrom lo (Memory.put m k v) = true := by
  induction m generalizing lo with
  | nil =>
    unfold Memory.put
    split
    · rfl
    · simp [Memory.wfFrom, *]
  | cons x m ih =>
    obtain ⟨a, b⟩ := x
    obtain ⟨ha, hb, hm⟩ := (Memory.wfFrom_cons lo a b m).1 h
    unfold Memory.put
    split
    · split
      · exact h
      · exact (Memory.wfFrom_cons ..).2 ⟨hk, ‹_›, (Memory.wfFrom_cons ..).2 ⟨by omega, hb, hm⟩⟩
    · split
      · split
        · exact Memory.wfFrom_mono hm (by omega)
        · exact (Memory.wfFrom_cons ..).2 ⟨ha, ‹_›, hm⟩
      · exact (Memory.wfFrom_cons ..).2 ⟨ha, hb, ih hm (by omega)⟩

theorem Memory.put_wf {m : Memory} (k : Nat) (v : Byte) (h : Memory.wf m = true) : Memory.wf (Memory.put m k v) = true :=
  Memory.put_wfFrom k v h (Nat.zero_le k)

theorem Memory.get_put_from {lo : Nat} {m : Memory} (k j : Nat) (v : Byte) (h : Memory.wfFrom lo m = true) :
    Memory.get (Memory.put m k v) j = if j = k then v else Memory.get m j := by
  induction m generalizing lo with
  | nil =>
    unfold Memory.put
    split
    · split <;> simp_all
    · rw [Memory.get_cons]
      split
      · rw [if_neg (by omega)]; rfl
      · rfl
  | cons x m ih =>
    obtain ⟨a, b⟩ := x
    obtain ⟨-, -, hm⟩ := (Memory.wfFrom_cons lo a b m).1 h
    unfold Memory.put
    by_cases hka : k < a
    · rw [if_pos hka]
      split
      · rename_i hv
        by_cases hj : j = k
        · subst hj
          rw [if_pos rfl, Memory.get_cons, if_pos hka, hv]
        · rw [if_neg hj]
      · rw [Memory.get_cons]
        by_cases h1 : j < k
        · rw [if_pos h1, if_neg (by omega), Memory.get_cons, if_pos (by omega)]
        · rw [if_neg h1]
    · rw [if_neg hka]
      by_cases hk : k = a
      · subst hk
        rw [if_pos rfl]
        split
        · rename_i hv
          by_cases hj : j = k
          · subst hj
            rw [if_pos rfl, Memory.get_below hm (by omega), hv]
          · rw [if_neg hj, Memory.get_cons]
            by_cases h1 : j < k
            · rw [if_pos h1, Memory.get_below hm (by omega)]
            · rw [if_neg h1, if_neg hj]
        · rw [Memory.get_cons, Memory.get_cons]
          split
          · rw [if_neg (by omega)]
          · split <;> rfl
      · rw [if_neg hk, Memory.get_cons, Memory.get_cons, ih hm]
        by_cases h1 : j < a
        · rw [if_pos h1, if_neg (by omega), if_pos h1]
        · rw [if_neg h1, if_neg h1]
          by_cases h2 : j = a
          · rw [if_pos h2, if_neg (by omega), if_pos h2]
          · rw [if_neg h2, if_neg h2]

/-- Read after write. -/
theorem Memory.get_put {m : Memory} (k j : Nat) (v : Byte) (h : Memory.wf m = true) :
    Memory.get (Memory.put m k v) j = if j = k then v else Memory.get m j := Memory.get_put_from k j v h

/-! ## Several bytes -/

@[simp] theorem Memory.putAll_nil (m : Memory) : Memory.putAll m [] = m := rfl

theorem Memory.putAll_cons (m : Memory) (x : Nat × Byte) (l : List (Nat × Byte)) :
    Memory.putAll m (x :: l) = Memory.putAll (Memory.put m x.1 x.2) l := rfl

theorem Memory.putAll_wf {m : Memory} (l : List (Nat × Byte)) (h : Memory.wf m = true) :
    Memory.wf (Memory.putAll m l) = true := by
  induction l generalizing m with
  | nil => exact h
  | cons x l ih => exact ih (Memory.put_wf x.1 x.2 h)

/-- An address that is not written keeps its byte. -/
theorem Memory.get_putAll_other {m : Memory} (l : List (Nat × Byte)) (j : Nat) (h : Memory.wf m = true)
    (hj : ∀ x ∈ l, x.1 ≠ j) : Memory.get (Memory.putAll m l) j = Memory.get m j := by
  induction l generalizing m with
  | nil => rfl
  | cons x l ih =>
    rw [Memory.putAll_cons, ih (Memory.put_wf x.1 x.2 h) fun y hy => hj y (List.mem_cons_of_mem _ hy),
      Memory.get_put x.1 j x.2 h, if_neg fun e => hj x List.mem_cons_self e.symm]

theorem Memory.filter_wfFrom {lo : Nat} {m : Memory} (p : Host.Cell → Bool) (h : Memory.wfFrom lo m = true) :
    Memory.wfFrom lo (m.filter p) = true := by
  induction m generalizing lo with
  | nil => rfl
  | cons x m ih =>
    obtain ⟨a, b⟩ := x
    obtain ⟨ha, hb, hm⟩ := (Memory.wfFrom_cons lo a b m).1 h
    rw [List.filter_cons]
    split
    · exact (Memory.wfFrom_cons ..).2 ⟨ha, hb, ih hm⟩
    · exact Memory.wfFrom_mono (ih hm) (by omega)

theorem Memory.clear_wf {m : Memory} (lo hi : Nat) (h : Memory.wf m = true) :
    Memory.wf (Memory.clear m lo hi) = true := Memory.filter_wfFrom _ h

/-- What is cleared reads as unlisted; the rest as before. -/
theorem Memory.get_clear_from {from_ : Nat} {m : Memory} (lo hi j : Nat) (h : Memory.wfFrom from_ m = true) :
    Memory.get (Memory.clear m lo hi) j = if lo ≤ j ∧ j < hi then Config.unlistedByte else Memory.get m j := by
  induction m generalizing from_ with
  | nil => simp [Memory.clear]
  | cons x m ih =>
    obtain ⟨a, b⟩ := x
    obtain ⟨-, -, hm⟩ := (Memory.wfFrom_cons from_ a b m).1 h
    have ih := ih hm
    have low (q : Host.Cell → Bool) (hj : j < a + 1) : Memory.get (m.filter q) j = Config.unlistedByte :=
      Memory.get_below (Memory.filter_wfFrom q hm) hj
    unfold Memory.clear at ih ⊢
    rw [List.filter_cons]
    by_cases hk : a < lo ∨ hi ≤ a
    · rw [if_pos (by simpa using hk), Memory.get_cons, Memory.get_cons, ih]
      by_cases h1 : j < a
      · simp [h1]
      · rw [if_neg h1, if_neg h1]
        by_cases h2 : j = a
        · rw [if_pos h2, if_pos h2, if_neg (by omega)]
        · rw [if_neg h2, if_neg h2]
    · rw [if_neg (by simpa using hk), Memory.get_cons]
      by_cases h1 : j < a
      · rw [low _ (by omega), if_pos h1]; simp
      · by_cases h2 : j = a
        · rw [low _ (by omega), if_pos (by omega)]
        · rw [if_neg h1, if_neg h2, ih]

/-- What a store does to memory: the bytes inside their role's size are written, in list order. -/
theorem State.store_mem (s : State) (l : List (Nat × Byte)) (z : List Nat) :
    (s.store l z).mem = Memory.putAll s.mem (l.filter fun x => s.inSize x.1) := by
  rfl

/-- What a store does to a core: frame slots become present (R56), what a late write of one command has not
made of these bytes yet is dropped (R325), and nothing else changes. -/
theorem State.store_core (s : State) (l : List (Nat × Byte)) (z : List Nat) {c : Nat} (h : c < s.cores.length) :
    (s.store l z).core c = { s.core c with
      late := (s.core c).overtaken (l.filter fun x => s.inSize x.1),
      cxs := (s.core c).cxs.map fun v => { v with
        slots := (frameBytes c ((l.filter fun x => s.inSize x.1).map (·.1))).foldl v.windowWrite v.slots } } := by
  simp [State.store, State.core, List.getD, List.getElem?_eq_getElem h]

@[simp] theorem State.store_length (s : State) (l : List (Nat × Byte)) (z : List Nat) :
    (s.store l z).cores.length = s.cores.length := by
  simp [State.store]
@[simp] theorem State.store_parts (s : State) (l : List (Nat × Byte)) (z : List Nat) :
    (s.store l z).parts = s.parts := rfl
@[simp] theorem State.store_sel (s : State) (l : List (Nat × Byte)) (z : List Nat) : (s.store l z).sel = s.sel := rfl
@[simp] theorem State.store_netTx (s : State) (l : List (Nat × Byte)) (z : List Nat) :
    (s.store l z).netTx = s.netTx := rfl

theorem State.store_wf (s : State) (l : List (Nat × Byte)) (z : List Nat) (h : Memory.wf s.mem = true) :
    Memory.wf (s.store l z).mem = true := by
  rw [State.store_mem]
  exact Memory.putAll_wf _ h

theorem State.reset_mem_wf : Memory.wf State.reset.mem = true := rfl

/-! ## Marks (R224) -/

/-- Marking lines changes the marks of a core, and nothing else of it. -/
theorem State.markLines_core (s : State) (pas : List Nat) {c : Nat} (h : c < s.cores.length) :
    (s.markLines pas).core c = { s.core c with
      padMarks := addMarks (s.core c).padMarks (padLines c pas),
      tileMarks := addMarks (s.core c).tileMarks (tileLinesOf c pas) } := by
  simp [State.markLines, State.core, List.getD, List.getElem?_eq_getElem h]

@[simp] theorem State.markLines_length (s : State) (pas : List Nat) :
    (s.markLines pas).cores.length = s.cores.length := by
  simp [State.markLines]
@[simp] theorem State.markLines_mem (s : State) (pas : List Nat) : (s.markLines pas).mem = s.mem := rfl
@[simp] theorem State.markLines_parts (s : State) (pas : List Nat) : (s.markLines pas).parts = s.parts := rfl
@[simp] theorem State.markLines_sel (s : State) (pas : List Nat) : (s.markLines pas).sel = s.sel := rfl

end Sys2Proof.Machine
end

