-- ==== Sys2Proof/Laws/Emit.lean ====
section
/-! SUPPORT. What the shared operations of a firing do: the kind and predicate rules (R28, R29), emission (R68), and the
shapes of the meanings. -/

namespace Sys2Proof.Machine

/-! ## The predicate and the kinds -/

theorem gate_fires {pm : PMode} {f : Firing} (h : Fires pm f) : gate pm f = .fire := by
  rcases h with rfl | ⟨p, hp, hf, hc, ht⟩
  · rfl
  · cases pm with
    | always => rfl
    | onTrue =>
      unfold gate
      rw [hp]
      cases hk : p.kind <;> simp_all
    | onFalse =>
      unfold gate
      rw [hp]
      cases hk : p.kind <;> simp_all

theorem lowestFault_data {l : List (Option Tok)} (h : DataOnly l) : lowestFault l = none := by
  induction l with
  | nil => rfl
  | cons a l ih =>
    have hl : DataOnly l := fun t ht => h t (List.mem_cons_of_mem _ ht)
    cases a with
    | none => exact ih hl
    | some t =>
      have hk := h t List.mem_cons_self
      simp [lowestFault, hk, Kind.isFault, ih hl]

theorem highestStop_data {l : List (Option Tok)} (h : DataOnly l) : highestStop l = none := by
  induction l with
  | nil => rfl
  | cons a l ih =>
    have hl : DataOnly l := fun t ht => h t (List.mem_cons_of_mem _ ht)
    cases a with
    | none => exact ih hl
    | some t =>
      have hk := h t List.mem_cons_self
      obtain ⟨g, k, v⟩ := t
      simp only at hk
      subst hk
      exact ih hl

theorem hasKind_data {l : List (Option Tok)} (h : DataOnly l) (k : Kind) (hk : k ≠ .data) : hasKind k l = false := by
  unfold hasKind
  rw [List.any_eq_false]
  intro a ha
  cases a with
  | none => simp
  | some t => simp [h t ha, Ne.symm hk]

theorem combine_data {l : List (Option Tok)} (h : DataOnly l) : combine l = none := by
  simp [combine, lowestFault_data h, highestStop_data h, hasKind_data h]

theorem predCombine_data {l : List (Option Tok)} (h : DataOnly l) : predCombine l = none := by
  simp [predCombine, lowestFault_data h, highestStop_data h, hasKind_data h]

theorem plan_run {pm : PMode} {f : Firing} {l : List (Option Tok)} (hf : Fires pm f) (hd : DataOnly l) :
    plan pm f l = .run := by
  simp [plan, gate_fires hf, combine_data hd]

/-! ## Emission -/

@[simp] theorem State.withTokens_nil (s : State) (c : Nat) : s.withTokens c [] = s := by
  unfold State.withTokens
  rw [List.append_nil]
  exact State.setCore_core s c

theorem State.withTokens_withTokens (s : State) (c : Nat) (l m : List Flight) :
    (s.withTokens c l).withTokens c m = s.withTokens c (l ++ m) := by
  by_cases h : c < s.cores.length
  · unfold State.withTokens
    rw [State.core_setCore_self _ _ _ h, State.setCore_setCore, List.append_assoc]
  · have h : s.cores.length ≤ c := by omega
    simp only [State.withTokens, State.setCore_absent _ _ _ h]

theorem State.addFlight_eq (s : State) (c : Nat) (fl : Flight) : s.addFlight c fl = s.withTokens c [fl] := rfl

theorem destOf_none (e n o : Nat) : destOf e n .none o = none := rfl

theorem destOf_some (e n : Nat) (t : Target) (o : Nat) (h : t ≠ .none) : ∃ d, destOf e n t o = some d := by
  cases t <;> first | exact ⟨_, rfl⟩ | exact absurd rfl h

theorem State.sendTok_eq (s : State) (f : Firing) (t : Target) (o : Nat) (tok : Tok) (h : t ≠ .none) :
    s.sendTok f t o tok = s.withTokens f.core (sendsTo s f t o tok) := by
  obtain ⟨d, hd⟩ := destOf_some f.elem f.idx t o h
  simp [State.sendTok, sendsTo, hd, State.addFlight_eq]

@[simp] theorem sendsTo_none (s : State) (f : Firing) (o : Nat) (tok : Tok) : sendsTo s f .none o tok = [] := rfl

/-- Tokens in the fabric do not change which firing an output slot holds. -/
@[simp] theorem State.withTokens_elem (s : State) (c d e : Nat) (l : List Flight) : (s.withTokens c l).elem d e = s.elem d e := by
  unfold State.elem State.withTokens
  by_cases h : d = c
  · subst h
    by_cases hl : d < s.cores.length
    · rw [State.core_setCore_self _ _ _ hl]
    · rw [State.setCore_absent _ _ _ (by omega)]
  · rw [State.core_setCore_ne _ _ _ _ (Ne.symm h)]

@[simp] theorem sendsTo_withTokens (s : State) (c : Nat) (l : List Flight) (f : Firing) (t : Target) (o : Nat) (tok : Tok) :
    sendsTo (s.withTokens c l) f t o tok = sendsTo s f t o tok := by
  simp [sendsTo]

/-- An emission puts its deliveries into the fabric and does nothing else. -/
theorem State.emitTok_eq (s : State) (f : Firing) (t0 t1 : Target) (tok : Tok)
    (h : tok.kind.isFault = false ∨ t0 ≠ .none ∨ t1 ≠ .none) :
    s.emitTok f t0 t1 tok = s.withTokens f.core (deliveries s f t0 t1 tok) := by
  unfold State.emitTok deliveries
  by_cases h0 : t0 = .none
  · subst h0
    by_cases h1 : t1 = .none
    · subst h1
      rcases h with h | h | h <;> simp_all
    · simp [h1, State.sendTok_eq _ _ _ _ _ h1]
  · by_cases h1 : t1 = .none
    · subst h1
      simp [h0, State.sendTok_eq _ _ _ _ _ h0]
    · simp [h0, h1, State.sendTok_eq _ _ _ _ _ h0, State.sendTok_eq _ _ _ _ _ h1, State.withTokens_withTokens]

theorem State.emit_eq (s : State) (f : Firing) (t0 t1 : Target) (k : Kind) (v : Val)
    (h : k.isFault = false ∨ t0 ≠ .none ∨ t1 ≠ .none) : s.emit f t0 t1 k v = s.emits f t0 t1 k v :=
  State.emitTok_eq s f t0 t1 _ h

theorem State.emit_data (s : State) (f : Firing) (t0 t1 : Target) (v : Val) :
    s.emit f t0 t1 .data v = s.emits f t0 t1 .data v := State.emit_eq s f t0 t1 .data v (.inl rfl)

/-! ## What an emission and a mark leave alone -/

@[simp] theorem State.withTokens_mem (s : State) (c : Nat) (l : List Flight) : (s.withTokens c l).mem = s.mem := rfl
@[simp] theorem State.emits_mem (s : State) (f : Firing) (t0 t1 : Target) (k : Kind) (v : Val) :
    (s.emits f t0 t1 k v).mem = s.mem := rfl
@[simp] theorem State.emits_parts (s : State) (f : Firing) (t0 t1 : Target) (k : Kind) (v : Val) :
    (s.emits f t0 t1 k v).parts = s.parts := rfl

@[simp] theorem State.modInst_mem (s : State) (c x : Nat) (h : Bool) (n : Nat) (g : Inst → Inst) :
    (s.modInst c x h n g).mem = s.mem := rfl

@[simp] theorem State.logFault_mem (s : State) (p c x : Nat) (r : FRec) : (s.logFault p c x r).mem = s.mem := rfl

@[simp] theorem State.failCtx_mem (s : State) (c x n : Nat) : (s.failCtx c x n).mem = s.mem := by
  unfold State.failCtx
  dsimp only
  split
  · rfl
  · split <;> simp

@[simp] theorem State.markInst_mem (s : State) (c x : Nat) (h : Bool) (q n : Nat) :
    (s.markInst c x h q n).mem = s.mem := by
  unfold State.markInst
  split
  · rfl
  · dsimp only
    split
    · rfl
    · split <;> split <;> simp

@[simp] theorem State.mark_mem (s : State) (f : Firing) (v : Val) : (s.mark f v).mem = s.mem :=
  State.markInst_mem ..

@[simp] theorem State.sendTok_mem (s : State) (f : Firing) (t : Target) (o : Nat) (tok : Tok) :
    (s.sendTok f t o tok).mem = s.mem := by
  unfold State.sendTok
  split
  · rfl
  · split <;> simp

@[simp] theorem State.emitTok_mem (s : State) (f : Firing) (t0 t1 : Target) (tok : Tok) :
    (s.emitTok f t0 t1 tok).mem = s.mem := by
  unfold State.emitTok
  dsimp only
  split
  · split <;> simp
  · split <;> split <;> simp

@[simp] theorem State.emit_mem (s : State) (f : Firing) (t0 t1 : Target) (k : Kind) (v : Val) :
    (s.emit f t0 t1 k v).mem = s.mem := State.emitTok_mem ..

@[simp] theorem State.absorb_mem (s : State) (f : Firing) (l : List (Option Tok)) : (s.absorb f l).mem = s.mem := by
  unfold State.absorb
  split <;> simp

/-! ## The shapes of the meanings -/

theorem withSel_some {s : State} {f : Firing} (g : Firing → Out) (h : s.sel = some f) : withSel s g = g f := by
  simp [withSel, h]

theorem fireAs_run {s : State} {f : Firing} (pm : PMode) (t0 t1 : Target) (ops : Firing → List (Option Tok))
    (run : Firing → State) (h : s.sel = some f) (hf : Fires pm f) (hd : DataOnly (ops f)) :
    fireAs s pm t0 t1 ops run = .next (run f) := by
  simp [fireAs, withSel, h, plan_run hf hd]

/-- Whatever the shape answers is a next state. -/
theorem fireAs_next (s : State) (pm : PMode) (t0 t1 : Target) (ops : Firing → List (Option Tok)) (run : Firing → State) :
    ∃ t, fireAs s pm t0 t1 ops run = .next t := by
  unfold fireAs withSel
  split
  · dsimp only
    split <;> exact ⟨_, rfl⟩
  · exact ⟨_, rfl⟩

/-- Everything that the shape can answer. -/
theorem fireAs_cases {s t : State} {pm : PMode} {t0 t1 : Target} {ops : Firing → List (Option Tok)} {run : Firing → State}
    (h : fireAs s pm t0 t1 ops run = .next t) :
    (s.sel = none ∧ t = s) ∨ ∃ f, s.sel = some f ∧
      ((plan pm f (ops f) = .run ∧ t = run f) ∨ (plan pm f (ops f) = .absorb ∧ t = s.absorb f (ops f)) ∨
        ∃ k v, plan pm f (ops f) = .emit k v ∧ t = s.emit f t0 t1 k v) := by
  unfold fireAs withSel at h
  split at h
  · rename_i f hs
    refine .inr ⟨f, hs, ?_⟩
    dsimp only at h
    split at h
    · exact .inl ⟨‹_›, by injection h with h; exact h.symm⟩
    · exact .inr (.inl ⟨‹_›, by injection h with h; exact h.symm⟩)
    · exact .inr (.inr ⟨_, _, ‹_›, by injection h with h; exact h.symm⟩)
  · exact .inl ⟨‹_›, by injection h with h; exact h.symm⟩

theorem binG_run {s : State} {f : Firing} (w : GWord) (op : Val → Val → Val) (h : s.sel = some f) (hf : Fires w.pm f)
    (hd : DataOnly (both f)) : binG s w op = .next (s.emits f w.t0 w.t1 .data (op f.lval (rightOf w f))) := by
  rw [binG, fireAs_run _ _ _ _ _ h hf hd, State.emit_data]

theorem unG_run {s : State} {f : Firing} (w : GWord) (op : Val → Val) (h : s.sel = some f) (hf : Fires w.pm f)
    (hd : DataOnly (leftOnly f)) : unG s w op = .next (s.emits f w.t0 w.t1 .data (op f.lval)) := by
  rw [unG, fireAs_run _ _ _ _ _ h hf hd, State.emit_data]

theorem predG_run {s : State} {f : Firing} (w : GWord) (ops : Firing → List (Option Tok)) (val : Firing → Val)
    (h : s.sel = some f) (hf : Fires w.pm f) (hd : DataOnly (ops f)) :
    predG s w ops val = .next (s.emits f w.t0 w.t1 .data (val f)) := by
  simp [predG, withSel, h, gate_fires hf, predCombine_data hd, State.emit_data]

theorem onLeft_run {s : State} {f : Firing} {t : Tok} (w : GWord) (g : Firing → Tok → State) (h : s.sel = some f)
    (hf : Fires w.pm f) (hl : f.l = some t) : onLeft s w g = .next (g f t) := by
  simp [onLeft, withSel, h, gate_fires hf, hl]

theorem passLeft_run {s : State} {f : Firing} {t : Tok} (w : GWord) (h : s.sel = some f) (hf : Fires w.pm f)
    (hl : f.l = some t) : passLeft s w = .next (s.emit f w.t0 w.t1 t.kind t.val) := by
  simp [passLeft, withSel, h, gate_fires hf, hl]

end Sys2Proof.Machine
end

