-- ==== Sys2Proof/Laws/Instances.lean ====
section
/-! SUPPORT. Instances, held operations and engine commands: what the operations that change one of them leave of it and of
everything else. -/

namespace Sys2Proof.Machine

/-! ## An instance that a firing names is there -/

theorem State.core_absent {s : State} {c : Nat} (h : s.cores.length ≤ c) : s.core c = Core.reset := by
  simp [State.core, List.getD, List.getElem?_eq_none h]

theorem State.cx_absent {s : State} {c x : Nat} (h : (s.core c).cxs.length ≤ x) : s.cx c x = Ctx.reset := by
  simp [State.cx, List.getD, List.getElem?_eq_none h]

theorem State.cx_absent_core {s : State} {c : Nat} (x : Nat) (h : s.cores.length ≤ c) : s.cx c x = Ctx.reset := by
  unfold State.cx
  rw [State.core_absent h]
  exact getD_replicate 8 x Ctx.reset

/-- The core and the context of an instance exist. -/
theorem State.instOf_range {s : State} {f : Firing} {i : Inst} (h : s.instOf f = some i) :
    f.core < s.cores.length ∧ f.ctx < (s.core f.core).cxs.length := by
  have none_ (hv : s.cx f.core f.ctx = Ctx.reset) : False := by
    unfold State.instOf Ctx.inst at h
    rw [hv] at h
    cases hh : f.hdl <;> simp [Ctx.strand, Ctx.reset, hh] at h
  exact ⟨Nat.lt_of_not_le fun hn => none_ (State.cx_absent_core _ hn), Nat.lt_of_not_le fun hn => none_ (State.cx_absent hn)⟩

/-- The sequence number of an instance that is found is the one that was looked for. -/
theorem State.instOf_seq {s : State} {f : Firing} {i : Inst} (h : s.instOf f = some i) : i.seq = f.seq := by
  unfold State.instOf Ctx.inst at h
  simpa using List.find?_some h

@[simp] theorem Ctx.strand_setStrand (v : Ctx) (h : Bool) (l : List Inst) : (v.setStrand h l).strand h = l := by
  cases h <;> rfl

theorem find_modified (l : List Inst) (q : Nat) (g : Inst → Inst) (hg : ∀ i, (g i).seq = i.seq) :
    (l.map fun i => if i.seq == q then g i else i).find? (·.seq == q) = (l.find? (·.seq == q)).map g := by
  induction l with
  | nil => rfl
  | cons a l ih =>
    rw [List.map_cons, List.find?_cons, List.find?_cons]
    by_cases h : a.seq = q
    · simp [h, hg]
    · have hb : (a.seq == q) = false := beq_eq_false_iff_ne.mpr h
      simp only [hb, Bool.false_eq_true, if_false]
      exact ih

/-! ## A change of the firing's own instance -/

theorem State.modOwn_cx {s : State} {f : Firing} {i : Inst} (g : Inst → Inst) (h : s.instOf f = some i) :
    (s.modOwn f g).cx f.core f.ctx = (s.cx f.core f.ctx).setStrand f.hdl
      (((s.cx f.core f.ctx).strand f.hdl).map fun i => if i.seq == f.seq then g i else i) := by
  obtain ⟨hc, hx⟩ := State.instOf_range h
  unfold State.modOwn State.modInst
  exact State.cx_setCx_self _ _ _ _ hc hx

/-- The instance itself is changed. -/
theorem State.instOf_modOwn {s : State} {f : Firing} {i : Inst} (g : Inst → Inst) (hg : ∀ i, (g i).seq = i.seq)
    (h : s.instOf f = some i) : (s.modOwn f g).instOf f = some (g i) := by
  have hm := State.modOwn_cx g h
  unfold State.instOf at *
  rw [hm]
  unfold Ctx.inst at *
  rw [Ctx.strand_setStrand, find_modified _ _ _ hg, h]
  rfl

@[simp] theorem State.modOwn_mem (s : State) (f : Firing) (g : Inst → Inst) : (s.modOwn f g).mem = s.mem := rfl
@[simp] theorem State.modOwn_parts (s : State) (f : Firing) (g : Inst → Inst) : (s.modOwn f g).parts = s.parts := rfl

/-! ## Held operations -/

@[simp] theorem State.addPend_mem (s : State) (q : Pend) : (s.addPend q).mem = s.mem := rfl
@[simp] theorem State.addPend_parts (s : State) (q : Pend) : (s.addPend q).parts = s.parts := rfl
@[simp] theorem State.dropPend_mem (s : State) (c x k : Nat) : (s.dropPend c x k).mem = s.mem := rfl
@[simp] theorem State.dropPend_parts (s : State) (c x k : Nat) : (s.dropPend c x k).parts = s.parts := rfl
@[simp] theorem State.hold_mem (s : State) (i : Instr) (f : Firing) : (s.hold i f).mem = s.mem := rfl
@[simp] theorem State.hold_parts (s : State) (i : Instr) (f : Firing) : (s.hold i f).parts = s.parts := rfl

/-- An operation that is held comes last among its context's. -/
theorem State.addPend_pend (s : State) (q : Pend) (hc : q.f.core < s.cores.length)
    (hx : q.f.ctx < (s.core q.f.core).cxs.length) :
    ((s.addPend q).cx q.f.core q.f.ctx).pend = (s.cx q.f.core q.f.ctx).pend ++ [q] := by
  unfold State.addPend
  rw [State.cx_setCx_self _ _ _ _ hc hx]

/-- The dropped operation is gone, the others keep their order. -/
theorem State.dropPend_pend (s : State) (c x k : Nat) (hc : c < s.cores.length) (hx : x < (s.core c).cxs.length) :
    ((s.dropPend c x k).cx c x).pend = (s.cx c x).pend.eraseIdx k := by
  unfold State.dropPend
  rw [State.cx_setCx_self _ _ _ _ hc hx]

/-- A context that holds an operation exists. -/
theorem State.pend_range {s : State} {c x k : Nat} {q : Pend} (h : (s.cx c x).pend[k]? = some q) :
    c < s.cores.length ∧ x < (s.core c).cxs.length := by
  have none_ (hv : s.cx c x = Ctx.reset) : False := by
    rw [hv] at h
    simp [Ctx.reset] at h
  exact ⟨Nat.lt_of_not_le fun hn => none_ (State.cx_absent_core _ hn), Nat.lt_of_not_le fun hn => none_ (State.cx_absent hn)⟩

/-! ## Engine commands -/

@[simp] theorem State.addCmd_mem (s : State) (c : Nat) (m : Cmd) : (s.addCmd c m).mem = s.mem := rfl
@[simp] theorem State.addCmd_parts (s : State) (c : Nat) (m : Cmd) : (s.addCmd c m).parts = s.parts := rfl
@[simp] theorem State.setCmd_mem (s : State) (c k : Nat) (m : Cmd) : (s.setCmd c k m).mem = s.mem := rfl
@[simp] theorem State.setCmd_parts (s : State) (c k : Nat) (m : Cmd) : (s.setCmd c k m).parts = s.parts := rfl
@[simp] theorem State.dropCmd_mem (s : State) (c k : Nat) : (s.dropCmd c k).mem = s.mem := rfl
@[simp] theorem State.dropCmd_parts (s : State) (c k : Nat) : (s.dropCmd c k).parts = s.parts := rfl

theorem State.addCmd_cmds (s : State) (c : Nat) (m : Cmd) (h : c < s.cores.length) :
    ((s.addCmd c m).core c).cmds = (s.core c).cmds ++ [m] := by
  unfold State.addCmd
  rw [State.core_setCore_self _ _ _ h]

theorem State.dropCmd_cmds (s : State) (c k : Nat) (h : c < s.cores.length) :
    ((s.dropCmd c k).core c).cmds = (s.core c).cmds.eraseIdx k := by
  unfold State.dropCmd
  rw [State.core_setCore_self _ _ _ h]

/-- A core that runs a command exists. -/
theorem State.cmd_range {s : State} {c k : Nat} {m : Cmd} (h : s.cmd? c k = some m) : c < s.cores.length := by
  refine Nat.lt_of_not_le fun hn => ?_
  unfold State.cmd? at h
  rw [State.core_absent hn] at h
  simp [Core.reset] at h

/-! ## Tags and faults -/

@[simp] theorem State.setCtag_mem (s : State) (c t : Nat) (v : Ctag) : (s.setCtag c t v).mem = s.mem := rfl
@[simp] theorem State.setCtag_parts (s : State) (c t : Nat) (v : Ctag) : (s.setCtag c t v).parts = s.parts := rfl
@[simp] theorem State.claimTag_mem (s : State) (f : Firing) (t sc : Nat) : (s.claimTag f t sc).mem = s.mem := rfl
@[simp] theorem State.claimTag_parts (s : State) (f : Firing) (t sc : Nat) : (s.claimTag f t sc).parts = s.parts := rfl
@[simp] theorem State.keep_mem (s : State) (f : Firing) (l : List (Kind × Val)) : (s.keep f l).mem = s.mem := by
  unfold State.keep
  dsimp only
  split <;> rfl
@[simp] theorem State.countLsid_mem (s : State) (f : Firing) (n : Nat) : (s.countLsid f n).mem = s.mem := rfl
@[simp] theorem State.beginTakeIn_mem (s : State) (c x n : Nat) (b : Bool) : (s.beginTakeIn c x n b).mem = s.mem := rfl
@[simp] theorem State.clearFregs_mem (s : State) (c x : Nat) : (s.clearFregs c x).mem = s.mem := rfl
@[simp] theorem State.freeze_mem (s : State) (c n x : Nat) : (s.freeze c n x).mem = s.mem := rfl

@[simp] theorem State.applyPost_mem (s : State) (c x : Nat) (p : Post) : (s.applyPost c x p).mem = s.mem := by
  unfold State.applyPost
  cases p <;> first | rfl | (dsimp only; split <;> rfl)

@[simp] theorem State.addPost_mem (s : State) (f : Firing) (p : Post) : (s.addPost f p).mem = s.mem := by
  unfold State.addPost
  split <;> simp

end Sys2Proof.Machine
end

