-- ==== Sys2Proof/Tests/Slice0.lean ====
section
/-! SUPPORT. Tests on small states, each about one step, with the ill-formed terms that `wf` refuses, words written out
from the encoding tables of the spec, and for every obligation concrete states that meet its hypotheses. -/

open Sys2Proof Sys2Proof.Machine

namespace Sys2Proof.Tests

set_option maxRecDepth 100000
set_option exponentiation.threshold 1000

/-! ## Small states -/

/-- An instance of block 0 with sequence number 5 under the tag 0x77. -/
def tInst : Inst :=
  { seq := 5, hdl := false, blk := 0, tag := 0x77, links := [], marked := none, reads := [], writes := [], chans := [],
    counted := 0, fired := [], acq := [], stores := [], post := [], exit := none, begun := false }

/-- A running context with that instance, which may take every completion tag. -/
def tCx : Ctx :=
  { Ctx.reset with
    phase := .running, insts := [tInst], nextSeq := 6, ctl := { Ctl.reset with ctagmask := -1 } }

/-- A core with one context, two elements and no CACHE bank. -/
def tCore : Core :=
  { Core.reset with
    cxs := [tCx], elems := List.replicate 2 Elem.reset, split := { Split.reset with cache := 0 } }

/-- A state with that core and one partition that owns it. -/
def tS : State :=
  { State.reset with
    cores := [tCore], parts := [{ Part.reset with cores := 1 }] }

def tTok (k : Kind) (v : Val) : Tok := ⟨0x77, k, v⟩

/-- The instruction at index 3 of the instance fires with the given tokens. -/
def tFire (l r p : Option Tok) : Firing :=
  { core := 0, elem := 1, ctx := 0, hdl := false, seq := 5, idx := 3, tag := 0x77, blk := 0, l, r, p }

/-- The same with two DATA operands. -/
def tF (l r : Val) : Firing := tFire (some (tTok .data l)) (some (tTok .data r)) none

/-- The small state in which that firing has been picked. -/
def fire (f : Firing) : State := { tS with sel := some f }

/-- A G word with target L#1, without an immediate. -/
def gw (ty : RType) (mode : Nat := 0) : GWord := ⟨.always, .left 1, .none, ty, BitVec.ofNat 3 mode, false, 0⟩

/-- The same with an immediate. -/
def gi (ty : RType) (v : Int) (mode : Nat := 0) : GWord :=
  ⟨.always, .left 1, .none, ty, BitVec.ofNat 3 mode, true, BitVec.ofInt 27 v⟩

/-- The kinds and values of the tokens that an outcome has in the fabric of core 0. -/
def sent (o : Out) : List (Kind × Val) :=
  match o with
  | .next t => (t.core 0).fabric.map fun x => (x.tok.kind, x.tok.val)
  | _ => []

/-- What an instruction sends for two DATA scalars. -/
def sc2 (i : Instr) (a b : Word) : List (Kind × Val) := sent (exec i (fire (tF (.sc a) (.sc b))))

/-- The lanes of 32 bits of the vector that an outcome sends. -/
def lanes32 (o : Out) : List Nat :=
  match sent o with
  | [(.data, .vec v)] => (List.range 16).map fun i => bits v (32 * i + 31) (32 * i)
  | _ => []

/-- A vector of sixteen lanes. -/
def v32 (xs : List Nat) : Val := .vec (vecOf 32 xs)

/-- Does an outcome go on with a state for which `p` holds? -/
def nextIs (o : Out) (p : State → Bool) : Bool :=
  match o with
  | .next t => p t
  | _ => false

theorem dataOnly_of {l : List (Option Tok)}
    (h : (l.all fun o => match o with
      | some t => decide (t.kind = .data)
      | none => true) = true) : DataOnly l := by
  intro t ht
  have := List.all_eq_true.mp h (some t) ht
  simpa using this

/-! ## Ill-formed terms, each refused by the check that it breaks -/

theorem wf_accepts_add : (Instr.add (gw .s32)).wf = true := by decide
theorem refuses_step : (Instr.blockFetch 0).isWord = false := by decide
/-- ADD has no mode (R102, R107). -/
theorem refuses_mode : (Instr.add (gw .s32 1)).codeOk = false := by decide
/-- ADD has integer types (R102). -/
theorem refuses_type : (Instr.add (gw .f32)).codeOk = false := by decide
/-- ABS takes no immediate. -/
theorem refuses_immediate : (Instr.abs (gi .s32 1)).codeOk = false := by decide
/-- SEXT extends from bit 1 to 64 (R113). -/
theorem refuses_width : (Instr.sext (gi .s64 65)).codeOk = false := by decide
def mw (ty : RType) (f : Fmt) (order : Nat := 0) : MWord := ⟨.always, .left 1, .none, ty, f, 2, .ctx, BitVec.ofNat 2 order, 0⟩
def ew (port : Nat) (mods : Nat) (ctag : Nat := 0) : EWord :=
  ⟨.always, .left 1, .none, BitVec.ofNat 6 port, BitVec.ofNat 6 ctag, BitVec.ofNat 23 mods⟩
/-- An integer type does not pair with a float format (R103). -/
theorem refuses_pair : (Instr.ld (mw .s32 .f32)).codeOk = false := by decide
/-- MMA goes to port 32 (R104). -/
theorem refuses_port : (Instr.mma (ew 33 0)).codeOk = false := by decide
/-- 5 is no scope (R73). -/
theorem refuses_scope : (Instr.cpy (ew 33 5)).codeOk = false := by decide
/-- A CALL starts a call-entry block (R131). -/
theorem refuses_kind : (Instr.call ⟨.always, .plain, .none, 0, 1⟩).codeOk = false := by decide
/-- `value` is reserved without an immediate (R71). -/
theorem refuses_value : (Instr.add { gw .s32 with value := 1 }).bitsOk = false := by decide
/-- FENCE has no offset. -/
theorem refuses_offset : (Instr.fence { mw .b64 .b8 1 with offset := 1 }).bitsOk = false := by decide
/-- CPYFILL defines `mods` bits 2:0 only. -/
theorem refuses_mods : (Instr.cpyfill (ew 33 8)).bitsOk = false := by decide
/-- A word without a completion tag has ctag 0 (R104). -/
theorem refuses_ctag : (Instr.baradd (ew 63 0 1)).bitsOk = false := by decide
/-- The field of an exit without a tag action is reserved (R75). -/
theorem refuses_field : (Instr.br ⟨.always, .plain, .none, 1, 0⟩).bitsOk = false := by decide
/-- HALT has no target block. -/
theorem refuses_target : (Instr.halt ⟨.always, .plain, .none, 0, 1⟩).bitsOk = false := by decide
/-- A store emits nothing (R142). -/
theorem refuses_emission : (Instr.st (mw .s32 .b32)).targetsOk = false := by decide
/-- The range of a ROUTE runs upward (R127). -/
theorem refuses_range : (Instr.route { gw .b64 with t0 := .chan 5, t1 := .chan 4 }).targetsOk = false := by decide
/-- 0x1FF is the code of no target, not of a channel (R69). -/
theorem refuses_channel_63 : (Instr.add { gw .s32 with t1 := .chan 63 }).targetsOk = false := by decide
/-- Core 72 does not exist (R7). -/
theorem refuses_unit : (Instr.blockFetch 72).unitsOk = false := by decide

/-! ## Integers (R109-R114) -/

/-- Witness of IntegerArithmetic, IntegerBitwise (one hypothesis in all): two DATA operands. -/
theorem witness_two_operands : (fire (tF (.sc 1) (.sc 2))).sel = some (tF (.sc 1) (.sc 2)) ∧
    Fires (gw .s32).pm (tF (.sc 1) (.sc 2)) ∧ DataOnly (both (tF (.sc 1) (.sc 2))) ∧
    DataOnly (leftOnly (tF (.sc 1) (.sc 2))) :=
  ⟨rfl, .inl rfl, dataOnly_of (by decide), dataOnly_of (by decide)⟩

/-- A predicated word fires too: its predicate is true. -/
theorem witness_predicated : Fires .onTrue (tFire none none (some (tTok .data (.sc 1)))) ∧
    Fires .onFalse (tFire none none (some (tTok .data (.sc 0)))) := by
  refine ⟨.inr ⟨_, rfl, ?_, ?_, ?_⟩, .inr ⟨_, rfl, ?_, ?_, ?_⟩⟩ <;> decide

theorem test_add_wraps : sc2 (.add (gw .s32)) 0x7FFFFFFF 1 = [(.data, .sc 0xFFFFFFFF80000000)] := by decide
theorem test_sub_borrows : sc2 (.sub (gw .z32)) 0 1 = [(.data, .sc 0xFFFFFFFF)] := by decide
theorem test_mul : sc2 (.mul (gi .s64 (-3))) 5 0 = [(.data, .sc 0xFFFFFFFFFFFFFFF1)] := by decide
theorem test_mulh : sc2 (.mulh (gw .s32)) 0x80000000 2 = [(.data, .sc 0xFFFFFFFFFFFFFFFF)] ∧
    sc2 (.mulh (gw .z32)) 0x80000000 2 = [(.data, .sc 1)] := by decide
theorem test_div : sc2 (.div (gw .s32)) 0xFFFFFFF9 2 = [(.data, .sc 0xFFFFFFFFFFFFFFFD)] ∧
    sc2 (.div (gw .s32)) 7 0 = [(.data, .sc 0xFFFFFFFFFFFFFFFF)] := by decide
theorem test_rem : sc2 (.rem (gw .s32)) 0xFFFFFFF9 2 = [(.data, .sc 0xFFFFFFFFFFFFFFFF)] ∧
    sc2 (.rem (gw .z32)) 7 0 = [(.data, .sc 7)] := by decide
theorem test_max : sc2 (.max (gw .s32)) 0xFFFFFFFF 1 = [(.data, .sc 1)] ∧
    sc2 (.max (gw .z32)) 0xFFFFFFFF 1 = [(.data, .sc 0xFFFFFFFF)] := by decide
theorem test_min : sc2 (.min (gw .s64)) (-1) 1 = [(.data, .sc (-1))] := by decide
theorem test_lea : sc2 (.lea (gw .z64 3)) 0x1000 2 = [(.data, .sc 0x1010)] := by decide
theorem test_and : sc2 (.and (gw .b64)) 0xFC 0x3F = [(.data, .sc 0x3C)] := by decide
theorem test_andn : sc2 (.andn (gw .b64)) 0xFC 0x3F = [(.data, .sc 0xC0)] := by decide
theorem test_or : sc2 (.or (gw .b64)) 0xF0 0x0F = [(.data, .sc 0xFF)] := by decide
theorem test_xor : sc2 (.xor (gw .b64)) 0xFF 0x0F = [(.data, .sc 0xF0)] := by decide
theorem test_shl : sc2 (.shl (gw .z32)) 1 33 = [(.data, .sc 2)] := by decide
theorem test_shr : sc2 (.shr (gw .s32)) 0x80000000 31 = [(.data, .sc 1)] := by decide
theorem test_sar : sc2 (.sar (gw .s32)) 0x80000000 31 = [(.data, .sc 0xFFFFFFFFFFFFFFFF)] := by decide
theorem test_rol : sc2 (.rol (gw .z32)) 0x80000001 1 = [(.data, .sc 3)] := by decide
theorem test_ror : sc2 (.ror (gw .z32)) 3 1 = [(.data, .sc 0x80000001)] := by decide
theorem test_sel : sc2 (.sel (gw .b64)) 7 0 = [(.data, .sc 0)] ∧ sc2 (.sel (gw .b64)) 7 1 = [(.data, .sc 7)] := by decide
theorem test_abs : sc2 (.abs (gw .s32)) 0x80000000 0 = [(.data, .sc 0xFFFFFFFF80000000)] := by decide
theorem test_neg : sc2 (.neg (gw .z32)) 1 0 = [(.data, .sc 0xFFFFFFFF)] := by decide
theorem test_clz : sc2 (.clz (gw .z32)) 1 0 = [(.data, .sc 31)] ∧ sc2 (.clz (gw .z32)) 0 0 = [(.data, .sc 32)] := by decide
theorem test_ctz : sc2 (.ctz (gw .z64)) 8 0 = [(.data, .sc 3)] ∧ sc2 (.ctz (gw .z64)) 0 0 = [(.data, .sc 64)] := by decide
theorem test_popc : sc2 (.popc (gw .z32)) 0xF0000000F 0 = [(.data, .sc 4)] := by decide
theorem test_bswap : sc2 (.bswap (gw .z32)) 0x01020304 0 = [(.data, .sc 0x04030201)] := by decide
/-- lsb 4, width code 7: eight bits from bit 4 (R113). -/
theorem test_bfext : sc2 (.bfext (gi .z32 0x1C4)) 0xABC 0 = [(.data, .sc 0xAB)] ∧
    sc2 (.bfext (gi .s32 0x1C4)) 0xABC 0 = [(.data, .sc 0xFFFFFFFFFFFFFFAB)] := by decide
theorem test_bfins : sc2 (.bfins (gw .z32)) 0xFFF 0x511C4 = [(.data, .sc 0x51F)] := by decide
theorem test_sext : sc2 (.sext (gi .s64 8)) 0x80 0 = [(.data, .sc 0xFFFFFFFFFFFFFF80)] := by decide
theorem test_zext : sc2 (.zext (gi .z64 8)) 0x1FF 0 = [(.data, .sc 0xFF)] := by decide
theorem test_movhi : sc2 (.movhi (gi .z64 1)) 1 0 = [(.data, .sc 0x8000001)] := by decide
theorem test_movi : sc2 (.movi (gi .s64 (-2))) 0 0 = [(.data, .sc (-2))] := by decide

/-! ## Predicates, steering and kinds (R116-R127) -/

theorem test_cmp : sc2 (.cmp (gw .s32 2)) 0xFFFFFFFF 0 = [(.data, .sc 1)] ∧
    sc2 (.cmp (gw .z32 2)) 0xFFFFFFFF 0 = [(.data, .sc 0)] := by decide
/-- 1.0 < 2.0, and a NaN is unordered. -/
theorem test_fcmp : sc2 (.fcmp (gw .f32 2)) 0x3F800000 0x40000000 = [(.data, .sc 1)] ∧
    sc2 (.fcmp (gw .f32 7)) 0x7FC00000 0x40000000 = [(.data, .sc 1)] := by decide
theorem test_pand : sc2 (.pand (gw .b64)) 2 4 = [(.data, .sc 1)] := by decide
theorem test_por : sc2 (.por (gw .b64)) 0 4 = [(.data, .sc 1)] := by decide
theorem test_pxor : sc2 (.pxor (gw .b64)) 2 4 = [(.data, .sc 0)] := by decide
def one (i : Instr) (k : Kind) (v : Word) : List (Kind × Val) :=
  sent (exec i (fire (tFire (some (tTok k (.sc v))) none none)))
theorem test_pnot : one (.pnot (gw .b64)) .data 0 = [(.data, .sc 1)] ∧ one (.pnot (gw .b64)) .null 0 = [(.data, .sc 0)] ∧
    one (.pnot (gw .b64)) .chaff 0 = [(.chaff, .sc 0)] := by decide
theorem test_isstop : one (.isstop (gi .b64 1)) (.stop 2) 9 = [(.data, .sc 1)] ∧
    one (.isstop (gi .b64 3)) (.stop 2) 9 = [(.data, .sc 0)] := by decide
theorem test_isbub : one (.isbub (gw .b64)) .chaff 0 = [(.data, .sc 1)] ∧
    one (.isbub (gw .b64)) .fault 4 = [(.fault, .sc 4)] := by decide
theorem test_null : one (.null (gw .b64)) .data 9 = [(.null, .sc 0)] := by decide
theorem test_strip : one (.strip (gw .b64)) (.stop 1) 9 = [(.data, .sc 9)] := by decide
theorem test_stop : one (.stop (gi .b64 2)) .data 9 = [(.stop 2, .sc 9)] ∧
    one (.stop (gi .b64 2)) .null 0 = [(.null, .sc 0)] := by decide
theorem test_sink : one (.sink (gw .b64)) .data 9 = [] ∧
    nextIs (exec (.sink { gw .b64 with t0 := .none }) (fire (tFire (some (tTok .fault (.sc 4))) none none))) (fun t =>
      (t.cx 0 0).insts.map (·.marked) = [some 4]) = true := by decide
theorem test_mov : one (.mov (gw .b64)) (.stop 1) 9 = [(.stop 1, .sc 9)] := by decide
theorem test_nop : one (.nop (gw .b64)) .chaff 0 = [(.chaff, .sc 0)] := by decide
/-- Witness of KindTests, KindChangesAndPassing: a token of any kind, with a target. -/
theorem witness_one_token : (fire (tFire (some (tTok (.stop 1) (.sc 9))) none none)).sel =
      some (tFire (some (tTok (.stop 1) (.sc 9))) none none) ∧
    Fires (gw .b64).pm (tFire (some (tTok (.stop 1) (.sc 9))) none none) ∧ (gw .b64).t0 ≠ .none :=
  ⟨rfl, .inl rfl, by decide⟩
theorem test_ordjoin : sent (exec (.ordjoin (gw .b64)) (fire (tFire (some (tTok (.stop 1) (.sc 9)))
      (some (tTok .null (.sc 0))) none))) = [(.stop 1, .sc 9)] ∧
    sent (exec (.ordjoin (gw .b64)) (fire (tFire (some (tTok (.stop 1) (.sc 9)))
      (some (tTok .chaff (.sc 0))) none))) = [(.chaff, .sc 0)] := by decide
def g2 : GWord := { gw .b64 with t1 := .right 2 }
/-- Witness of SteeringMergingRouting: the STEER and MERGE clauses. -/
theorem test_steer : sent (exec (.steer g2) (fire (tFire (some (tTok (.stop 1) (.sc 9))) none
      (some (tTok .data (.sc 1)))))) = [(.stop 1, .sc 9), (.null, .sc 0)] ∧
    sent (exec (.steer g2) (fire (tFire (some (tTok .data (.sc 9))) none
      (some (tTok .data (.sc 0)))))) = [(.null, .sc 0), (.data, .sc 9)] := by decide
theorem test_steer_of_chaff : sent (exec (.steer g2) (fire (tFire (some (tTok .data (.sc 9))) none
      (some (tTok .chaff (.sc 0)))))) = [(.chaff, .sc 0), (.chaff, .sc 0)] ∧
    sent (exec (.steer g2) (fire (tFire (some (tTok .data (.sc 9))) none
      (some (tTok .fault (.sc 6)))))) = [(.fault, .sc 6), (.fault, .sc 6)] := by decide
/-- A FAULT whose target T1 is none goes to T0 and marks the instance (R30). -/
theorem test_steer_marks : nextIs (exec (.steer (gw .b64)) (fire (tFire (some (tTok .fault (.sc 6))) none
      (some (tTok .data (.sc 1)))))) (fun t => (t.cx 0 0).insts.map (·.marked) = [some 6] ∧
    (t.core 0).fabric.map (fun x => (x.tok.kind, x.tok.val)) = [(.fault, .sc 6)]) = true ∧
    (fire (tFire (some (tTok .fault (.sc 6))) none none)).instOf (tFire (some (tTok .fault (.sc 6))) none none) =
      some tInst := by decide
theorem test_merge : sent (exec (.merge (gw .b64)) (fire (tFire (some (tTok .null (.sc 0)))
      (some (tTok .data (.sc 4))) none))) = [(.data, .sc 4)] ∧
    sent (exec (.merge (gw .b64)) (fire (tFire (some (tTok .data (.sc 3)))
      (some (tTok .data (.sc 4))) (some (tTok .data (.sc 1)))))) = [(.data, .sc 3)] := by decide
/-- A selector past the range names its last channel (R127). -/
theorem test_route : sent (exec (.route { gw .b64 with t0 := .chan 2, t1 := .chan 3 }) (fire (tF (.sc 9) (.sc 7)))) =
    [(.null, .sc 0), (.data, .sc 9)] := by decide
theorem test_route_two : sent (exec (.route g2) (fire (tF (.sc 9) (.sc 0)))) = [(.data, .sc 9), (.null, .sc 0)] := by decide

/-! ## A small image (R78-R88) -/

/-- Block 0 has a frame read of slot 0 to L#0, a frame write of slot 1, ADD.s64 #1 to W#0 and HALT; block 1 is a
call-entry block with a HALT; two tag fields of 8 bits; channel 3; two slots; one placement variant of one quad. -/
def tImg : List Word :=
  [0x0002000000000000, 0xFFFF000201010200, 0x0000005000000040, 0x0000000000000060, 0x00000001000000B0, 0,
   0x000000C0, 0, 8, 8, 0x0000000000020003, 0,
   0x0002082400000000, 0x0000000000000000, 0x000000000003FE00, 0x0000000000000001, 0x00803FF908000001,
   0x421FFFF800000000, 0x0000001000000001, 0, 0x421FFFF800000000, 0, 0x0000000000010101, 0]

/-- A context that runs that image. -/
def iCx : Ctx := { tCx with lau := { tCx.lau with image := tImg } }

/-- A state with that context. -/
def iS (v : Ctx := iCx) : State :=
  { tS with
    cores := [{ tCore with cxs := [v] }] }

/-- The instance `i` of the image is about to fire its instruction of index 3 with a left token. -/
def iFire (i : Inst) (l : Option Tok := none) : State :=
  { iS { iCx with insts := [i] } with sel := some { tFire l none none with tag := i.tag } }

/-- The block that an outcome wants next, with its tag, sequence number and links, in context 0 of core 0. -/
def wants (o : Out) : Option Want :=
  match o with
  | .next t => (t.cx 0 0).want
  | _ => none

/-- The exit that the first instance of an outcome has taken. -/
def exitOf (o : Out) : Option Exit :=
  match o with
  | .next t => ((t.cx 0 0).insts.map (·.exit)).headD none
  | _ => none

theorem tImg_blocks : blkOffs tImg = [96, 144] ∧ (blkAt tImg 0).first = true ∧ (blkAt tImg 1).kind = 2 ∧
    rdDescs tImg (blkAt tImg 0) = [⟨0, false, .left 0, .none⟩] ∧ wrSlots tImg (blkAt tImg 0) = [1] := by decide

/-- A tag of depth 1 whose field 0 is 3 (R31, R32). -/
def tag1 : Word := 0x040C000000000000
theorem tag1_fields : tagDepth tag1 = 1 ∧ tagField tImg tag1 0 = 3 := by decide

/-! ## Exits and tags (R31-R34, R46, R128-R136) -/

def xw (k : BlkKind) (a : Action) (field target : Nat) : XWord := ⟨.always, k, a, BitVec.ofNat 3 field, BitVec.ofNat 27 target⟩

/-- Witness of Branches, CallsAndReturns and HaltsAndLaterExits: the first exit of an instance, with its outcome for
each. Block 1 stands 3 units of 16 bytes after block 0. -/
theorem witness_first_exit : (iFire tInst).sel = some (tFire none none none) ∧ Fires .always (tFire none none none) ∧
    ExitOperand (tFire none none none) ∧ (iFire tInst).instOf (tFire none none none) = some tInst ∧ tInst.exit = none ∧
    directBlock (iFire tInst) (xw .callEntry .none 0 3) (tFire none none none) tInst = some 1 ∧
    (blkAt tImg 1).kind = (xw .callEntry .none 0 3).kind.code :=
  ⟨rfl, .inl rfl, fun _ h => absurd h (by simp [tFire]), by decide, rfl, by decide, by decide⟩
theorem witness_action : tagAction (imgOf (iFire tInst) (tFire none none none)) tInst.tag .none 0 = .ok (0x77, none) := by
  rfl
theorem test_br : wants (exec (.br (xw .plain .none 0 0)) (iFire tInst)) = some ⟨0, 0x77, 6, []⟩ := by decide
/-- A push of field 0 on depth 0 gives depth 1 with the field 0 (R33). -/
theorem test_br_push : wants (exec (.br (xw .plain .push 0 0)) (iFire { tInst with tag := 0 })) =
    some ⟨0, 0x0400000000000000, 6, []⟩ := by decide
theorem test_br_increment : wants (exec (.br (xw .plain .increment 0 0)) (iFire { tInst with tag := tag1 })) =
    some ⟨0, 0x0410000000000000, 6, []⟩ := by decide
theorem test_yield_pop : wants (exec (.yield (xw .plain .pop 0 0)) (iFire { tInst with tag := tag1 })) =
    some ⟨0, 0, 6, []⟩ := by decide
theorem test_bri : wants (exec (.bri (xw .callEntry .none 0 0)) (iFire tInst (some (tTok .data (.sc 48))))) =
    some ⟨1, 0x77, 6, []⟩ := by decide
theorem test_call : wants (exec (.call (xw .callEntry .none 0 3)) (iFire tInst)) = some ⟨1, 0x77, 6, [1]⟩ := by decide
theorem test_calli : wants (exec (.calli (xw .callEntry .none 0 0)) (iFire tInst (some (tTok .data (.sc 48))))) =
    some ⟨1, 0x77, 6, [1]⟩ := by decide
theorem test_ret : wants (exec (.ret (xw .plain .none 0 0)) (iFire { tInst with links := [1, 0] })) =
    some ⟨1, 0x77, 6, [0]⟩ := by decide
theorem test_halt : wants (exec (.halt (xw .plain .none 0 0)) (iFire tInst)) = none ∧
    (exitOf (exec (.halt (xw .plain .none 0 0)) (iFire tInst))).map (·.halt) = some true := by decide
def tExit : Exit := ⟨2, true, none, 0x77, [], none, true, none⟩
/-- A second exit is absorbed (R46). -/
theorem test_second_exit : nextIs (exec (.br (xw .plain .none 0 3)) (iFire { tInst with exit := some tExit }))
    (fun t => t = iFire { tInst with exit := some tExit }) = true := by decide
/-- Witness of ExitFaults: a pop at depth 0 marks the instance with a record of kind 9 (R34). -/
theorem test_exit_fault : nextIs (exec (.ret (xw .plain .pop 0 0)) (iFire tInst)) (fun t =>
    match (t.cx 0 0).insts.map (·.marked) with
    | [some n] => (t.record 0 0 n).map (·.kind) = some 9 ∧ (t.record 0 0 n).map (·.detail) = some 0
    | _ => false) = true := by decide
theorem witness_exit_fault : tagAction (imgOf (iFire tInst) (tFire none none none)) tInst.tag .pop 0 = .error 0 ∧
    tInst.marked = none ∧ ((iFire tInst).cx 0 0).recTab = [] := ⟨rfl, rfl, rfl⟩

def tagged (i : Instr) (t v : Word) : List (Word × Val) :=
  match exec i (iFire { tInst with tag := t } (some ⟨t, .data, .sc v⟩)) with
  | .next u => (u.core 0).fabric.map fun x => (x.tok.tag, x.tok.val)
  | _ => []
theorem test_tagget : tagged (.tagget (gi .z64 0)) tag1 0 = [(tag1, .sc 3)] ∧
    tagged (.tagget (gi .z64 1)) tag1 0 = [(tag1, .sc 0)] ∧ tagged (.tagget (gi .z64 8)) tag1 0 = [(tag1, .sc 1)] := by decide
theorem test_tagset : tagged (.tagset (gi .z64 0)) tag1 0x102 = [(0x0408000000000000, .sc 0x102)] := by decide
theorem test_taginc : tagged (.taginc (gi .z64 0)) 0x07FC000000000000 9 = [(0x0400000000000000, .sc 9)] := by decide
theorem test_tagin : tagged (.tagin (gi .z64 1)) tag1 2 = [(0x080C080000000000, .sc 2)] ∧
    tagged (.tagin (gi .z64 0)) tag1 2 = [(tag1, .sc 2)] := by decide
theorem test_tagout : tagged (.tagout (gi .z64 0)) tag1 9 = [(0, .sc 9)] := by decide
/-- Push, increment and pop of field 0, and field 7 for the last one (R33, R75). -/
theorem test_tag_actions : (tagAction tImg 0 .push 0).toOption = some (0x0400000000000000, none) ∧
    (tagAction tImg tag1 .increment 0).toOption = some (0x0410000000000000, none) ∧
    (tagAction tImg tag1 .pop 7).toOption = some (0, none) ∧ (tagAction tImg tag1 .push 0).toOption = none := by decide
/-- Witness of TagFields and TagMoves: the widths fit, and the fields that each clause of TagActions names. -/
theorem witness_widths : ((List.range 7).map (fieldWidth tImg)).sum ≤ 58 ∧ imgNfields tImg = 2 ∧ tagDepth 0 = 0 ∧
    tagDepth tag1 = 1 := by decide
/-- TAGWIN #1 of the younger of two instances waits, and of the older one passes (R136). -/
theorem test_tagwin : nextIs (exec (.tagwin (gi .z64 1)) (fire (tF (.sc 4) (.sc 0)))) (fun t =>
      (t.core 0).fabric.length = 1) = true ∧
    nextIs (exec (.tagwin (gi .z64 1)) { iS { iCx with insts := [{ tInst with seq := 4 }, tInst] } with
      sel := some (tF (.sc 4) (.sc 0)) }) (fun t =>
      (t.core 0).fabric.length = 0 ∧ (t.cx 0 0).pend.length = 1) = true := by decide
def tag0 : Word := 0x0400000000000000
/-- The firing of a REORDER on the value `v` in field 0. -/
def rF (v : Nat) (k : Kind) : Firing := { tFire (some ⟨setTagField tImg tag0 0 v, k, .sc v⟩) none none with tag := setTagField tImg tag0 0 v }
/-- The state in which it fires, when the tokens `held` have come before it. -/
def rS (held : List Ent) (f : Firing) : State :=
  { iS with
    cores := [{ tCore with cxs := [iCx], elems := [Elem.reset, { Elem.reset with store := held }] }], sel := some f }
/-- A token that the same REORDER holds. -/
def rE (v : Nat) (k : Kind) : Ent := ⟨0, 3, .left, ⟨setTagField tImg tag0 0 v, k, .sc v⟩, false, 5, 0, none, true⟩
/-- Witness of Reordering: a shallow tag, and a token of field 0 that finds a place in the store. -/
theorem witness_reorder : tagDepth tag1 ≤ 1 ∧ 0 < tagDepth (rF 0 .data).tag ∧ (rS [] (rF 0 .data)).cores.length = 1 ∧
    ((rS [] (rF 0 .data)).core 0).cxs.length = 1 ∧
    ((rS [] (rF 0 .data)).enterElem 0 1 (rE 0 .data)).isSome = true ∧ ((rS [] (rF 0 .data)).cx 0 0).groups = [] := by
  decide
/-- Value 2 is held; value 0 goes and lets the held 1 go after it; a STOP sets the group back to 0 (R126). -/
theorem test_reorder : sent (exec (.reorder (gi .b64 0)) (rS [] (rF 2 .data))) = [] ∧
    sent (exec (.reorder (gi .b64 0)) (rS [rE 1 .data] (rF 0 .data))) = [(.data, .sc 0), (.data, .sc 1)] ∧
    nextIs (exec (.reorder (gi .b64 0)) (rS [rE 1 (.stop 0)] (rF 0 .data))) (fun t =>
      (t.elem 0 1).store = [] ∧ ((t.cx 0 0).groups.map (·.next)) = [0]) = true := by decide
theorem test_reorder_shallow : tagged (.reorder (gi .b64 1)) tag1 9 = [(tag1, .sc 9)] := by decide

/-! ## Floats and vectors (R201-R211); 0x3F800000 is 1.0, 0x40000000 2.0, 0x40400000 3.0, 0x3FC00000 1.5 -/

theorem test_fadd : sc2 (.fadd (gw .f32)) 0x3F800000 0x40000000 = [(.data, .sc 0x40400000)] := by decide
/-- The sum of 1 and 2^-24 lies half way: rne stays, rup goes up. -/
theorem test_fadd_rounds : sc2 (.fadd (gw .f32)) 0x3F800000 0x33800000 = [(.data, .sc 0x3F800000)] ∧
    sc2 (.fadd (gw .f32 2)) 0x3F800000 0x33800000 = [(.data, .sc 0x3F800001)] := by decide
theorem test_fsub : sc2 (.fsub (gw .f32)) 0x3F800000 0x40000000 = [(.data, .sc 0xBF800000)] := by decide
theorem test_fmul : sc2 (.fmul (gw .f32)) 0x3FC00000 0xC0000000 = [(.data, .sc 0xC0400000)] := by decide
/-- 1.0 + 1.5 * 2.0 = 4.0: a in bits 31:0 and b in bits 63:32 of the right operand. -/
theorem test_fma : sc2 (.fma (gw .f32)) 0x3F800000 0x400000003FC00000 = [(.data, .sc 0x40800000)] := by decide
theorem test_fscale : sc2 (.fscale (gi .f32 3)) 0x3F800000 0 = [(.data, .sc 0x41000000)] ∧
    sc2 (.fscale (gw .bf16)) 0x3F80 (-1) = [(.data, .sc 0x3F00)] := by decide
theorem test_fabs : sc2 (.fabs (gw .f32)) 0xBF800000 0 = [(.data, .sc 0x3F800000)] := by decide
theorem test_fneg : sc2 (.fneg (gw .bf16)) 0x3F80 0 = [(.data, .sc 0xBF80)] := by decide
theorem test_fcpsgn : sc2 (.fcpsgn (gw .f32)) 0x3F800000 0xC0000000 = [(.data, .sc 0xBF800000)] := by decide
theorem test_fmax : sc2 (.fmax (gw .f32)) 0xBF800000 0x40000000 = [(.data, .sc 0x40000000)] := by decide
theorem test_fmin : sc2 (.fmin (gw .f32)) 0xBF800000 0x40000000 = [(.data, .sc 0xBF800000)] := by decide
theorem test_fclamp : sc2 (.fclamp (gw .f32)) 0xC0400000 0x40000000 = [(.data, .sc 0xC0000000)] := by decide
/-- 2^3 = 8, log2 8 = 3 and 1/4 are exact. -/
theorem test_fexp2 : sc2 (.fexp2 (gw .f32)) 0x40400000 0 = [(.data, .sc 0x41000000)] := by decide
theorem test_flog2 : sc2 (.flog2 (gw .f32)) 0x41000000 0 = [(.data, .sc 0x40400000)] := by decide
theorem test_frcp : sc2 (.frcp (gw .f32)) 0x40800000 0 = [(.data, .sc 0x3E800000)] := by decide
theorem test_frsq : sc2 (.frsq (gw .f32)) 0x40800000 0 = [(.data, .sc 0x3F000000)] := by decide
theorem test_fsqrt : sc2 (.fsqrt (gw .f32)) 0x40800000 0 = [(.data, .sc 0x40000000)] := by decide
/-- 1.5 to the nearest even integer, and down (rdn is mode 3). -/
theorem test_fround : sc2 (.fround (gw .f32)) 0x3FC00000 0 = [(.data, .sc 0x40000000)] ∧
    sc2 (.fround (gw .f32 3)) 0x3FC00000 0 = [(.data, .sc 0x3F800000)] := by decide

/-- Witness of ExactArithmetic and Rounding: a sum that is not 0, a finite result, in tf8 too. -/
theorem witness_rounding : (1 : Nat) ≠ 0 ∧ (FF.f32.decode (roundNum .f32 .rne false (.fin false 3 (-1)))).isFin = true ∧
    (FF.f32.decode 0x3F800000).isFin = true ∧
    (FF.tf8.decode (roundNum .tf8 .rup false (.fin true 3 (-4)))).isFin = true := by decide
/-- The largest finite f32 is still finite, the first value past it is not. -/
theorem witness_rounding_bound :
    (FF.f32.decode (roundNum .f32 .rne false (.fin false 0xFFFFFF 104))).isFin = true ∧
    (FF.f32.decode (roundNum .f32 .rne false (.fin false 1 128))).isFin = false := by decide
theorem witness_sum : (Machine.Num.fin false 1 0).rat + (Machine.Num.fin false 1 0).rat * (Machine.Num.fin false 1 0).rat ≠ 0 := by
  norm_num [Machine.Num.rat]

/-- Lanes 0 to 15 hold 100 to 115. -/
def ramp : Val := v32 ((List.range 16).map (100 + ·))
def vec2 (i : Instr) (a b : Val) : List Nat := lanes32 (exec i (fire (tF a b)))
theorem test_vbcast : vec2 (.vbcast (gw .vs32)) ramp (.sc 0) = List.replicate 16 100 := by decide
theorem test_vselm : (vec2 (.vselm (gw .vs32)) ramp (.sc 5)).take 4 = [100, 0, 102, 0] := by decide
theorem test_vshuf : (vec2 (.vshuf (gw .vs32)) ramp (v32 [3, 18])).take 3 = [103, 102, 100] := by decide
/-- Lane i takes lane i + 1; past the end it takes 0. -/
theorem test_vslide : (vec2 (.vslide (gw .vs32)) ramp (.sc 1)).take 2 = [101, 102] ∧
    (vec2 (.vslide (gw .vs32)) ramp (.sc 1)).getLastD 9 = 0 := by decide
theorem test_vzip : (vec2 (.vzip (gw .vs32)) ramp (v32 [7, 8])).take 4 = [100, 7, 101, 8] := by decide
theorem test_vunzip : (vec2 (.vunzip (gw .vs32)) ramp (v32 [7, 8, 9])).take 10 =
    [100, 102, 104, 106, 108, 110, 112, 114, 7, 9] := by decide
/-- Bits 36:32 of the left operand name the lane. -/
theorem test_vins : (vec2 (.vins (gw .vs32)) (.sc 0x2000000AA) ramp).take 4 = [100, 101, 0xAA, 103] := by decide
theorem test_vextr : sent (exec (.vextr (gi .vs32 17)) (fire (tF ramp (.sc 0)))) = [(.data, .sc 101)] := by decide
theorem test_viota : (vec2 (.viota (gw .vz32)) ramp (.sc 0)).take 3 = [100, 101, 102] := by decide
theorem test_vrsum : sent (exec (.vrsum (gw .vs32)) (fire (tF ramp (.sc 0)))) = [(.data, .sc 1720)] := by decide
theorem test_vscan : (vec2 (.vscan (gw .vs32)) ramp (.sc 0)).take 3 = [100, 201, 303] := by decide
theorem test_vrmax : sent (exec (.vrmax (gw .vs32)) (fire (tF (v32 [5, 0xFFFFFFFF]) (.sc 0)))) = [(.data, .sc 5)] := by decide
theorem test_vrmin : sent (exec (.vrmin (gw .vs32)) (fire (tF (v32 [5, 0xFFFFFFFF]) (.sc 0)))) = [(.data, .sc (-1))] := by
  decide
/-- Witness of VectorInstructions: a vector type, an integer one and one of floats. -/
theorem witness_vector_types : RType.vs32.isVec = true ∧ RType.vbf16.isVec = true ∧ intVec .vs32 ∧ ¬ intVec .vf32 := by
  refine ⟨rfl, rfl, .inl rfl, ?_⟩
  rintro (h | h) <;> cases h

/-- Witness of Conversions: between integers, with sat (mode 4 to 7), and from f32 (type code 5). -/
theorem test_cvt : RType.ofNat? (bits (0 : Word) 3 0) = some .s32 ∧
    sc2 (.cvt (gw .z32 4)) 0xFFFFFFFF 0 = [(.data, .sc 0)] ∧
    sc2 (.cvt (gw .bf16)) 0x3F800000 5 = [(.data, .sc 0x3F80)] := by decide
/-- Witness of Conversions: 3.0 is finite and positive. -/
theorem witness_qscale : (FF.f32.decode 0x40400000).isFin = true ∧ 0 < (FF.f32.decode 0x40400000).rat := by
  refine ⟨by decide, ?_⟩
  have : FF.f32.decode 0x40400000 = .fin false 12582912 (-22) := by decide
  rw [this]; norm_num [Machine.Num.rat]
/-- Witness of FloatOperations: 2.0 is an integer and a power of two, and -1.0 a negative operand. -/
theorem witness_float_functions : (FF.f32.decode 0x40000000).isFin = true ∧ (FF.f32.decode 0x40000000).rat = (2 : Int) ∧
    (FF.f32.decode 0x40000000).rat = (2 : ℚ) ^ (1 : Int) ∧ 0 < (FF.f32.decode 0x40000000).rat ∧
    (FF.f32.decode (fpRcp .f32 (FF.f32.decode 0x40000000))).isFin = true ∧
    FF.f32.decode 0xBF800000 = .fin true 8388608 (-23) := by
  have : FF.f32.decode 0x40000000 = .fin false 8388608 (-22) := by decide
  rw [this]
  and_intros <;> first | decide | norm_num [Machine.Num.rat]
/-- Witness of Conversions: candidates in the lanes, and none (R211). -/
theorem witness_candidates : candidatesOf (gi .vf32 0) (tF (v32 [0x3F800000]) (.sc 0)) ≠ [] ∧
    candidatesOf (gi .vf32 0) (tF (v32 (List.replicate 16 0x7FC00000)) (.sc 0)) = [] := by decide
/-- Its example: a maximum of 1,000 under the three element formats (R192). -/
theorem test_qscale : sc2 (.qscale (gw .f32)) 0x447A0000 0 = [(.data, .sc 0x40000000)] ∧
    sc2 (.qscale (gw .f32 1)) 0x447A0000 0 = [(.data, .sc 0x3C800000)] ∧
    sc2 (.qscale (gw .f32 2)) 0x447A0000 0 = [(.data, .sc 0x41800000)] := by decide
/-- The carry after one vector: value, index, and the base of the next (R210, R211). -/
theorem test_vargmax : (vec2 (.vargmax (gi .vf32 0)) (v32 [0x3F800000, 0x40000000]) (.sc 0)).take 4 =
    [0x40000000, 1, 16, 0] := by decide
theorem test_vargmin : (vec2 (.vargmin (gi .vf32 32)) (v32 [0x3F800000, 0x40000000]) (.sc 0)).take 4 =
    [0, 34, 48, 0] := by decide

/-! ## Memory (R138-R161) -/

/-- The state that an outcome goes on with. -/
def after (o : Out) : State :=
  match o with
  | .next t => t
  | _ => tS

/-- A physical-address token of generation 0 with write permission (R158). -/
def paTok (a : Nat) : Word := BitVec.ofNat 64 (0xC020000000000000 + a)

/-- Memory holds 0x11, 0x22, 0x33, 0xF4 at 0x1000 and a line of zeros elsewhere. -/
def mS (f : Firing) : State := { fire f with mem := [⟨0x1000, 0x11⟩, ⟨0x1001, 0x22⟩, ⟨0x1002, 0x33⟩, ⟨0x1003, 0xF4⟩] }
def mF : Firing := tFire (some (tTok .data (.sc (paTok 0x1000)))) (some (tTok .data (.sc 0xAABBCCDD))) none

def pends (o : Out) : List (Stage) :=
  match o with
  | .next t => (t.cx 0 0).pend.map (·.st)
  | _ => []

/-- The code of a failed check (R141). -/
def errCode (e : Except AccErr (List Nat)) : Option Nat :=
  match e with
  | .error e => some e.code
  | .ok _ => none

theorem mS_ok : (mS mF).memOk := by unfold State.memOk; decide
/-- Witness of Loads and LoadsSeeStores: an access that passes its checks, and its return. -/
theorem witness_load_start : ReadyM (mS mF) (mw .s32 .b32) mF leftOnly ∧ (mS mF).portTakes mF = true ∧
    (mS mF).walkStalls 0 (vasOf (mw .s32 .b32) mF) = false ∧ ((mS mF).fillTlb 0 (vasOf (mw .s32 .b32) mF)).checkMem mF (mw .s32 .b32) .load = .ok [0x1000, 0x1001, 0x1002, 0x1003] :=
  ⟨⟨rfl, .inl rfl, dataOnly_of (by decide)⟩, by decide, by decide, by rfl⟩
theorem test_ld_starts : pends (exec (.ld (mw .s32 .b32)) (mS mF)) = [.load [0x1000, 0x1001, 0x1002, 0x1003] []] := by decide
/-- An LDX takes address and scale from a vector, an LDS the address of a PAD byte. -/
def padF (l : Val) : Firing := tFire (some (tTok .data l)) (some (tTok .data (.sc 0xAABBCCDD))) none
def ldS (i : Instr) (f : Firing) : State := after (exec i (mS f))
theorem test_load_return : sent (exec (.loadReturn 0 0 0) (ldS (.ld (mw .s32 .b32)) mF)) =
    [(.data, .sc 0xFFFFFFFFF4332211)] := by decide
theorem test_load_return_z8 : sent (exec (.loadReturn 0 0 0) (ldS (.ld (mw .z32 .z8)) mF)) = [(.data, .sc 0x11)] := by decide
theorem witness_load_return : PendAt (ldS (.ld (mw .s32 .b32)) mF) 0 0 0
      ⟨.ld (mw .s32 .b32), mF, .load [0x1000, 0x1001, 0x1002, 0x1003] [], 0⟩ ∧
    (ldS (.ld (mw .s32 .b32)) mF).readAllowed mF 3 [0x1000, 0x1001, 0x1002, 0x1003] = true ∧
    (ldS (.ld (mw .s32 .b32)) mF).acquireStalls ⟨.ld (mw .s32 .b32), mF, .load [0x1000] [], 0⟩ = false ∧
    (ldS (.ld (mw .s32 .b32)) mF).badByte 0 [0x1000, 0x1001, 0x1002, 0x1003] = none :=
  ⟨⟨by decide, rfl, rfl⟩, by and_intros <;> decide⟩
/-- A byte that the load read before stays as it was read (R326). -/
theorem test_load_torn : sent (exec (.loadReturn 0 0 0) { mS mF with
    cores := [{ tCore with cxs := [{ tCx with
      pend := [⟨.ld (mw .z32 .b32), mF, .load [0x1000, 0x1001, 0x1002, 0x1003] [(0x1003, 0)], 0⟩] }] }] }) =
    [(.data, .sc 0x332211)] := by decide
theorem test_ldx_starts : pends (exec (.ldx (mw .f32 .e4m3)) (mS (padF (v32 [0x1001, 0xC0200000, 0x40000000])))) =
    [.load [0x1001] []] := by decide
theorem test_lds_starts : pends (exec (.lds (mw .s32 .b32)) (mS (padF (.sc 0x40)))) =
    [.load (((mS mF).checkMemPad (padF (.sc 0x40)) (mw .s32 .b32)).toOption.getD []) []] ∧
    ((mS mF).checkMemPad (padF (.sc 0x40)) (mw .s32 .b32)).toOption.isSome = true := by decide
/-- Witness of LoadsSeeStores: no store precedes; one does. -/
def stS (i : Instr) : State := after (exec i (mS mF))
theorem test_load_sees_store : (mS mF).loadByte mF 9 0x1000 = 0x11 ∧ (mS mF).storesBefore 0 0 false (5, 9) = [] ∧
    (stS (.st (mw .z32 .b32))).loadByte mF 9 0x1000 = 0xDD ∧
    ((stS (.st (mw .z32 .b32))).storesBefore 0 0 false (5, 9)).length = 1 ∧
    ((stS (.st (mw .z32 .b32))).core 0).findLine (0x1000 / 64) = none := by decide
/-- What a command completed at CORE, and has not reached memory: its core sees it, another of the die does not (R315). -/
def lateS : State :=
  { mS mF with
    cores := [{ tCore with late := [⟨1, 0, [(0x1000, 0x99)], []⟩] }, tCore] }
theorem test_load_sees_late : lateS.readCached 0 0x1000 = 0x99 ∧ lateS.readCached 1 0x1000 = 0x11 ∧
    (lateS.core 0).late.all (·.seenBy 0 0) = true := by decide
/-- A later access of the strand has been performed: the byte reads as it was before that (R147). -/
def pastS : State :=
  { mS mF with
    cores := [{ tCore with cxs := [{ tCx with past := [⟨false, (0, 0), (6, 1), 0x1000, 0x44⟩] }] }] }
theorem test_load_sees_past : pastS.loadByte mF 9 0x1000 = 0x44 ∧ pastS.loadByte mF 9 0x1001 = 0x22 ∧
    Past.holdsAt ⟨false, (0, 0), (6, 1), 0x1000, 0x44⟩ mF 9 0x1000 := ⟨by decide, by decide, rfl, rfl, by decide, by decide⟩
def storesOf (o : Out) : List (List (Nat × Byte)) :=
  match o with
  | .next t => ((t.cx 0 0).insts.map fun i => i.stores.map (·.bytes)).headD []
  | _ => []
def stw (ty : RType) (f : Fmt) : MWord := { mw ty f with t0 := .none }
/-- Witness of Stores: two DATA operands and checks that pass; and an operand that is NULL. -/
theorem witness_store : ReadyM (mS mF) (stw .z32 .b16) mF both ∧ (mS mF).instOf mF = some tInst ∧
    ((mS mF).fillTlb 0 (vasOf (stw .z32 .b16) mF)).checkMem mF (stw .z32 .b16) .store = .ok [0x1000, 0x1001] ∧ (mS mF).portTakes mF = true ∧
    (mS mF).walkStalls 0 (vasOf (stw .z32 .b16) mF) = false :=
  ⟨⟨rfl, .inl rfl, dataOnly_of (by decide)⟩, by decide, by rfl, by decide, by decide⟩
theorem test_st : storesOf (exec (.st (stw .z32 .b16)) (mS mF)) = [[(0x1000, 0xDD), (0x1001, 0xCC)]] ∧
    nextIs (exec (.st (stw .z32 .b16)) (mS mF)) (fun t => t.mem = (mS mF).mem) = true := by decide
def nullF : Firing := tFire (some (tTok .data (.sc (paTok 0x1000)))) (some (tTok .null (.sc 0))) none
theorem test_st_nulled : storesOf (exec (.st (stw .z32 .b16)) (mS nullF)) = [] ∧
    nextIs (exec (.st (stw .z32 .b16)) (mS nullF)) (fun t => (t.cx 0 0).insts.map (·.counted) = [4]) = true := by decide
/-- 2.0 stored with the scale 2.0 in e4m3 is 1.0: 0x38. -/
theorem test_stx : storesOf (exec (.stx (stw .f32 .e4m3)) (mS (tF (v32 [0x1001, 0xC0200000, 0x40000000]) (.sc 0x40000000)))) =
    [[(0x1001, 0x38)]] := by decide
theorem test_sts : (storesOf (exec (.sts (stw .z32 .b8)) (mS (padF (.sc 0x40))))).map (·.map (·.2)) = [[0xDD]] := by decide
/-- Witness of FormatsRoundTrip: a format as wide as the lanes, and line64 of a vector type. -/
theorem witness_formats : FF.ofFmt .b32 = none ∧ 8 * fmtBytes .b32 = laneBits .vs32 ∧ RType.vs32.isVec = true := by decide
/-- Witness of FailedLoads: the token of another generation is stale (R158); the three stall modes. -/
def badF : Firing := tFire (some (tTok .data (.sc 0xFFE0000000001000))) none none
def badS (m : Nat) : State :=
  let v : Ctx := { tCx with ctl := { tCx.ctl with smode := BitVec.ofNat 2 m } }
  { mS badF with
    cores := [{ tCore with cxs := [v] }] }
theorem witness_failed_load : (errCode (((badS 0).fillTlb 0 (vasOf (mw .s32 .b32) badF)).checkMem badF (mw .s32 .b32) .load)).isSome = true ∧
    errCode ((badS 0).checkMem badF (mw .s32 .b32) .load) ≠ some 4 ∧ badF.elem < 64 ∧ badF.ctx < 8 ∧ (badS 0).portTakes badF = true ∧
    badF.core < (badS 0).cores.length ∧ ((badS 0).core 0).cxs.length = 1 ∧
    (badS 0).walkStalls 0 (vasOf (mw .s32 .b32) badF) = false := by decide
theorem test_failed_load_traps : (sent (exec (.ld (mw .s32 .b32)) (badS 0))).map (·.1) = [.fault] := by decide
theorem test_failed_load_freezes : sent (exec (.ld (mw .s32 .b32)) (badS 2)) = [] ∧
    nextIs (exec (.ld (mw .s32 .b32)) (badS 2)) (fun t => t.isFrozen 0 (portOf 1) 0 = true) = true := by decide
/-- A virtual address without a table entry is not present: NULLIFY gives CHAFF (R141). -/
def absF : Firing := tFire (some (tTok .data (.sc 0x1000))) none none
def absS : State := { badS 1 with sel := some absF }
theorem test_failed_load_nullifies : sent (exec (.ld (mw .s32 .b32)) absS) = [(.chaff, .sc 0)] ∧
    errCode (absS.checkMem absF (mw .s32 .b32) .load) = some 4 := by decide

/-! ## Atomics, fences, hints (R151-R161) -/

/-- An atomic of the right operand `r` on the word 0xF4332211 at 0x1000: what its target receives and what is left. -/
def atomic (i : Instr) (r : Word) : List (Kind × Val) × List Byte :=
  let f := tFire (some (tTok .data (.sc (paTok 0x1000)))) (some (tTok .data (.sc r))) none
  match exec (.atomicPerform 0 0 0) (after (exec i (mS f))) with
  | .next t => ((t.core 0).fabric.map fun x => (x.tok.kind, x.tok.val), (List.range 4).map fun k => Memory.get t.mem (0x1000 + k))
  | _ => ([], [])
/-- Witness of Atomics: the first firing, and the operation that it leaves. -/
theorem witness_atomic : ReadyM (mS mF) (mw .z32 .b32) mF both ∧ (mS mF).keptOf mF = none ∧ (mS mF).portTakes mF = true ∧
    (mS mF).adopt (.aadd (mw .z32 .b32)) mF = none ∧
    PendAt (after (exec (.aadd (mw .z32 .b32)) (mS mF))) 0 0 0 ⟨.aadd (mw .z32 .b32), mF, .perform, 0⟩ ∧
    (after (exec (.aadd (mw .z32 .b32)) (mS mF))).atomicAllowed ⟨.aadd (mw .z32 .b32), mF, .perform, 0⟩ (mw .z32 .b32)
      false ((after (exec (.aadd (mw .z32 .b32)) (mS mF))).atomicBytes ⟨.aadd (mw .z32 .b32), mF, .perform, 0⟩) = true ∧
    (after (exec (.aadd (mw .z32 .b32)) (mS mF))).atomicAllowed ⟨.aadd (mw .z32 .b32), mF, .perform, 0⟩ (mw .z32 .b32)
      false
      [0x1000, 0x1001, 0x1002, 0x1003] = true ∧
    (mS mF).walkStalls 0 (vasOf (mw .z32 .b32) mF) = false ∧ tCore.cache = [] ∧ tCore.late = [] ∧ tInst.stores = [] :=
  ⟨⟨rfl, .inl rfl, dataOnly_of (by decide)⟩, by decide, by decide, by rfl, ⟨by decide, rfl, rfl⟩, by and_intros <;> decide⟩
/-- Witness of Atomics: the atomic of a squashed firing of the same index, which a new firing goes on with (R331). -/
theorem witness_adopt : ((after (exec (.aadd (mw .z32 .b32)) (mS mF))).setCx 0 0 { tCx with
      pend := [⟨.aadd (mw .z32 .b32), mF, .perform, 1⟩] }).adopt (.aadd (mw .z32 .b32)) mF ≠ none := by decide
theorem test_aadd : atomic (.aadd (mw .s32 .b32)) 0xF0 = ([(.data, .sc 0xFFFFFFFFF4332211)], [1, 0x23, 0x33, 0xF4]) := by decide
theorem test_aand : (atomic (.aand (mw .z32 .b32)) 0xFF).2 = [0x11, 0, 0, 0] := by decide
theorem test_aor : (atomic (.aor (mw .z32 .b32)) 0xFF).2 = [0xFF, 0x22, 0x33, 0xF4] := by decide
theorem test_axor : (atomic (.axor (mw .z32 .b32)) 0xFF).2 = [0xEE, 0x22, 0x33, 0xF4] := by decide
theorem test_axchg : atomic (.axchg (mw .z32 .b32)) 7 = ([(.data, .sc 0xF4332211)], [7, 0, 0, 0]) := by decide
/-- The expected value in bits 31:0 and the new one in bits 63:32. -/
theorem test_acas : (atomic (.acas (mw .z32 .b32)) 0x7F4332211).2 = [7, 0, 0, 0] ∧
    (atomic (.acas (mw .z32 .b32)) 0x7F4332212).2 = [0x11, 0x22, 0x33, 0xF4] := by decide
theorem test_atset : atomic (.atset (mw .z32 .b32)) 1 = ([(.data, .sc 0)], [0x13, 0x22, 0x33, 0xF4]) := by decide
theorem test_amax : (atomic (.amax (mw .s32 .b32)) 5).2 = [5, 0, 0, 0] ∧
    (atomic (.amax (mw .z32 .b32)) 5).2 = [0x11, 0x22, 0x33, 0xF4] := by decide
theorem test_amin : (atomic (.amin (mw .z32 .b32)) 5).2 = [5, 0, 0, 0] := by decide
/-- The word at 0x1000 is -5.677e31; its own negative makes +0. -/
theorem test_afadd : (atomic (.afadd (mw .f32 .f32)) 0x74332211).2 = [0, 0, 0, 0] := by decide

def trg : Firing := tFire (some (tTok .data (.sc 9))) none none
def fw (order : Nat) (sc : Scope) : MWord := { mw .b64 .b8 order with scope := sc }
/-- Witness of FencesAndTranslation: nothing to wait for, an oldest instance. -/
theorem witness_fence : ReadyM (fire trg) (fw 3 .die) trg leftOnly ∧ (fire trg).instOf trg = some tInst ∧
    (fire trg).returnsWait trg 3 = false ∧ (fire trg).oldest trg = true ∧ (fire trg).dirtyStalls 0 = false ∧
    trg.idx ∉ tInst.acq :=
  ⟨⟨rfl, .inl rfl, dataOnly_of (by decide)⟩, by and_intros <;> decide⟩
/-- A dirty line of the core's CACHE. -/
def cacheS (f : Firing) : State :=
  { fire f with
    cores := [{ tCore with
      split := { Split.reset with cache := 1 }, cache := [⟨0x40, List.replicate 64 7, 1, false, []⟩] }] }
/-- A release at DIE writes the dirty byte back and keeps the line, an acquire drops it (R155, R320). -/
theorem test_fence : nextIs (exec (.fence (fw 2 .die)) (cacheS trg)) (fun t =>
      t.mem = [⟨0x1000, 7⟩] ∧ (t.core 0).cache.map (·.dirty) = [0] ∧ (t.core 0).fabric.length = 1) = true ∧
    nextIs (exec (.fence (fw 3 .die)) (cacheS trg)) (fun t => (t.core 0).cache = []) = true := by decide
theorem test_widen : sent (exec (.widen (fw 2 .core)) (fire trg)) = [(.data, .sc 9)] := by decide
/-- Witness of FencesAndTranslation: a physical-address token, and a virtual address with an entry. -/
def vaF : Firing := tFire (some (tTok .data (.sc 0x2010))) none none
def tlbS : State :=
  { fire vaF with
    cores := [{ tCore with tlb := [⟨0x2000, 0x1000, 0x5000, true⟩], xgen := 2 }] }
theorem witness_xlat : (fire mF).portTakes mF = true ∧ (paTok 0x1000).toNat / 2 ^ 62 = 3 ∧ tlbS.ownedBy 0 0x5010 = true ∧
    tlbS.tlbHolds 0 0x2010 = true ∧ tlbS.tlbHolds 0 0x3010 = false ∧ tlbS.walkStalls 0 [0x2010] = false := by decide
/-- A table at 0x10000 whose third level maps the first 2 MiB to 0x200000 for reads and writes (R392). -/
def walkS : State :=
  { fire vaF with
    cores := [tCore], parts := [{ Part.reset with cores := 1, ttb := 0x10000 }],
    mem := [⟨0x10000, 1⟩, ⟨0x10002, 2⟩, ⟨0x20000, 1⟩, ⟨0x20002, 3⟩, ⟨0x30000, 7⟩, ⟨0x30002, 0x20⟩] }
/-- Witness of TranslationAndHints: a translation that the core does not hold, and one that it holds. -/
theorem witness_walk : walkS.tlbHolds 0 0x2010 = false ∧ ((walkS.cacheAcquire 0).lookup 0 0x2010).toOption = some ⟨0, 0x200000, 0x200000, true⟩ ∧
    walkS.ownedBy 0 0x202010 = true ∧ walkS.walkStalls 0 [0x2010] = false ∧ (walkS.fillTlb 0 [0x2010]).tlbHolds 0 0x2010 = true := by
  decide
theorem test_xlat : sent (exec (.xlat (gw .z64)) (fire mF)) = [(.data, .sc (paTok 0x1000))] ∧
    sent (exec (.xlat (gw .z64)) tlbS) = [(.data, .sc 0xC0A0000000005010)] := by decide
/-- Witness of TranslationAndHints: no CACHE bank, a hint that would fault, and one that brings a line. -/
def hintS (f : Firing) : State :=
  { fire f with
    cores := [{ tCore with split := { Split.reset with cache := 1 } }] }
theorem test_pfetch : nextIs (exec (.pfetch (stw .z64 .b8)) (hintS mF)) (fun t =>
      (t.core 0).cache.map (·.line) = [0x40] ∧ (t.core 0).cache.map (·.resident) = [false]) = true ∧
    nextIs (exec (.pfetch (stw .z64 .b8)) (hintS badF)) (fun t => (t.cx 0 0).ctl.hintdrop = 1) = true := by decide
theorem test_reside : nextIs (exec (.reside (stw .z64 .b8)) (hintS mF)) (fun t =>
    (t.core 0).cache.map (·.resident) = [true]) = true := by decide
theorem witness_hint : (cacheable 0x1000 = true ∧ (hintS mF).linkDown 0 [0x1000] = false ∧
      (((hintS mF).core 0).setLines 0x40).length < 16 ∧
      (hintS mF).walkStalls 0 (touched (MWord.ea (stw .z64 .b8) mF) 1) = false) ∧ (hintS mF).check 0 .load (MWord.ea (stw .z64 .b8) mF) 1 1 = .ok [0x1000] ∧
    errCode ((hintS badF).check 0 .load (MWord.ea (stw .z64 .b8) badF) 1 1) ≠ none := ⟨by decide, by rfl, by decide⟩

/-! ## Barriers and completion tags (R163-R169) -/

def sF (v : Word) : Firing := tFire (some (tTok .data (.sc v))) none none
/-- A barrier operation on barrier 3, fired and applied. -/
def barApply (i : Instr) (b : Barrier) (v : Word) : Out :=
  exec (.barrierApply 0 0 0) (after (exec i { fire (sF v) with
    cores := [{ tCore with barriers := tCore.barriers.set 3 b }] }))
def barOut (o : Out) : List (Kind × Val) × Option Barrier :=
  match o with
  | .next t => (sent o, some ((t.core 0).barrier 3))
  | _ => ([], none)
theorem witness_barrier : ReadyE (fire (sF 4)) (ew 63 3) (sF 4) leftOnly ∧ (fire (sF 4)).keptOf (sF 4) = none ∧
    PendAt (after (exec (.barinit (ew 63 3)) (fire (sF 4)))) 0 0 0 ⟨.barinit (ew 63 3), sF 4, .perform, 0⟩ ∧
    (after (exec (.barinit (ew 63 3)) (fire (sF 4)))).due ⟨.barinit (ew 63 3), sF 4, .perform, 0⟩ = true ∧
    ((fire (sF 4)).core 0).barriers.length = 128 ∧ (fire (sF 4)).adopt (.barinit (ew 63 3)) (sF 4) = none :=
  ⟨⟨rfl, .inl rfl, dataOnly_of (by decide)⟩, by decide, ⟨by decide, rfl, rfl⟩, by and_intros <;> decide⟩
/-- An operation whose instance was squashed is applied without a token, and a replay takes it up (R331). -/
def barSq : State :=
  { fire (sF 1) with
    cores := [{ tCore with cxs := [{ tCx with pend := [⟨.bararr (ew 63 3), sF 1, .perform, 1⟩] }] }] }
theorem test_bararr_squashed : sent (exec (.barrierApply 0 0 0) barSq) = [] ∧
    nextIs (exec (.barrierApply 0 0 0) barSq) (fun t => ((t.core 0).barrier 3).count = -1) = true ∧
    barSq.due ⟨.bararr (ew 63 3), sF 1, .perform, 1⟩ = true ∧ (barSq.adopt (.bararr (ew 63 3)) (sF 1)).isSome = true := by decide
theorem test_barinit : barOut (barApply (.barinit (ew 63 3)) ⟨9, true⟩ 4) = ([(.data, .sc 4)], some ⟨4, false⟩) := by decide
theorem test_baradd : barOut (barApply (.baradd (ew 63 3)) ⟨4, false⟩ (-4)) = ([(.data, .sc 0)], some ⟨0, true⟩) := by decide
theorem test_bararr : barOut (barApply (.bararr (ew 63 3)) ⟨0, false⟩ 1) = ([(.data, .sc (-1))], some ⟨-1, false⟩) := by decide
def barS (b : Barrier) : State :=
  { fire (sF 4) with
    cores := [{ tCore with barriers := tCore.barriers.set 3 b }] }
theorem test_barwait : sent (exec (.barwait (ew 63 3)) (barS ⟨0, true⟩)) = [(.data, .sc 4)] ∧
    pends (exec (.barwait (ew 63 3)) (barS ⟨1, false⟩)) = [.wait] := by decide
/-- A waiting BARWAIT whose barrier fires. -/
def barWaits : State :=
  let s := after (exec (.barwait (ew 63 3)) (barS ⟨1, false⟩))
  s.setCore 0 { s.core 0 with barriers := tCore.barriers.set 3 ⟨0, true⟩ }
theorem test_barwait_release : PendAt barWaits 0 0 0 ⟨.barwait (ew 63 3), sF 4, .wait, 0⟩ ∧
    sent (exec (.barwaitRelease 0 0 0) barWaits) = [(.data, .sc 4)] ∧ pends (exec (.barwaitRelease 0 0 0) barWaits) = [] :=
  ⟨⟨by decide, rfl, rfl⟩, by decide, by decide⟩

/-- Tag 2 is DONE with a mark, tag 5 is BUSY. -/
def tagS (m : Mark) (v : Word) : State :=
  { fire (sF v) with
    cores := [{ tCore with ctags := (tCore.ctags.set 2 ⟨.done, some ⟨0, false, 5, 0⟩, m, 1⟩).set 5 ⟨.busy, some ⟨0, false, 5, 0⟩, .none, 1⟩ }] }
theorem witness_tags : ReadyE (tagS .none 0x24) (ew 63 0) (sF 0x24) leftOnly ∧ (tagS .none 0x24).instOf (sF 0x24) = some tInst ∧
    (tagS .none 0x24).selTags (sF 0x24) = [2, 5] ∧ (tagS .none 0x24).doneTags (sF 0x24) = [2] ∧ NarrowTag (tagS .none 0x24) 0 2 ∧
    (tagS .none 0x20).doneTags (sF 0x20) = [] ∧ (tagS .none 0).selTags (sF 0) = [] ∧
    (tagS .none 4).doneTags (sF 4) = (tagS .none 4).selTags (sF 4) :=
  by
  unfold NarrowTag
  exact ⟨⟨rfl, .inl rfl, dataOnly_of (by decide)⟩, by and_intros <;> decide⟩
theorem test_ffr : sent (exec (.ffr (ew 63 0)) (tagS .none 0x24)) = [(.data, .sc 2)] ∧
    sent (exec (.ffr (ew 63 0)) (tagS .none 0x20)) = [(.data, .sc 64)] ∧
    sent (exec (.ffr (ew 63 0)) (tagS .chaff 0x24)) = [(.chaff, .sc 0)] := by decide
theorem test_waitany : sent (exec (.waitany (ew 63 0)) (tagS .none 0)) = [(.data, .sc 64)] ∧
    pends (exec (.waitany (ew 63 0)) (tagS .none 0x20)) = [.wait] ∧
    nextIs (exec (.waitany (ew 63 1)) (tagS .none 0x24)) (fun t => (t.cx 0 0).insts.map (·.post) =
      [[.clearTag 2 (some ⟨0, false, 5, 0⟩)]] ∧ (t.core 0).fabric.map (·.tok.val) = [.sc 2]) = true := by decide
theorem test_waitall : pends (exec (.waitall (ew 63 0)) (tagS .none 0x24)) = [.wait] ∧
    sent (exec (.waitall (ew 63 0)) (tagS .none 4)) = [(.data, .sc 4)] := by decide
theorem test_cclr : nextIs (exec (.cclr (ew 63 0)) (tagS .none 0x24)) (fun t => (t.core 0).fabric.map (·.tok.val) = [.sc 0x20] ∧
    (t.cx 0 0).insts.map (·.post) = [[.clearTag 2 (some ⟨0, false, 5, 0⟩)]]) = true := by decide
/-- A wait for tag 5, which then becomes DONE. -/
def tagWaits (i : Instr) : State :=
  let s := after (exec i (tagS .none 0x20))
  s.setCore 0 { s.core 0 with ctags := tCore.ctags.set 5 ⟨.done, some ⟨0, false, 5, 0⟩, .none, 1⟩ }
theorem test_wait_satisfied : sent (exec (.waitSatisfied 0 0 0) (tagWaits (.waitall (ew 63 0)))) = [(.data, .sc 0x20)] ∧
    sent (exec (.waitSatisfied 0 0 0) (tagWaits (.waitany (ew 63 0)))) = [(.data, .sc 5)] := by decide
theorem witness_wait : PendAt (tagWaits (.waitall (ew 63 0))) 0 0 0 ⟨.waitall (ew 63 0), sF 0x20, .wait, 0⟩ ∧
    PendAt (tagWaits (.waitany (ew 63 0))) 0 0 0 ⟨.waitany (ew 63 0), sF 0x20, .wait, 0⟩ ∧
    (tagWaits (.waitall (ew 63 0))).doneTags (sF 0x20) = [5] ∧ NarrowTag (tagWaits (.waitall (ew 63 0))) 0 5 :=
  ⟨⟨by decide, rfl, rfl⟩, ⟨by decide, rfl, rfl⟩, by decide, by unfold NarrowTag; decide⟩

/-! ## The streamer (R237-R243) -/

/-- A descriptor: byte offset, number of bytes, value. -/
def desc (l : List (Nat × Nat × Nat)) : Val := .vec (BitVec.ofNat 512 (l.map fun x => x.2.2 % 2 ^ (8 * x.2.1) * 2 ^ (8 * x.1)).sum)
def dF (l : List (Nat × Nat × Nat)) : Firing := tFire (some (tTok .data (desc l))) none none
/-- Two b16 elements of the pattern 0xBEEF at 0x1000. -/
def fillD : List (Nat × Nat × Nat) := [(8, 8, (paTok 0x1000).toNat), (20, 4, 64), (24, 2, 1), (26, 2, 2), (37, 1, 1), (40, 8, 0xBEEF)]
/-- Two bytes from 0x1001 to 0x2000. -/
def cpyD : List (Nat × Nat × Nat) := [(0, 8, (paTok 0x1001).toNat), (8, 8, (paTok 0x2000).toNat), (24, 2, 1), (26, 2, 2),
  (28, 2, 1), (30, 2, 2), (32, 4, 0x3F800000)]
def cw (tag : Nat := 7) : EWord := ew 33 1 tag
def strm1 (i : Instr) (l : List (Nat × Nat × Nat)) : State := after (exec i (mS (dF l)))
def strm2 (i : Instr) (l : List (Nat × Nat × Nat)) : State := after (exec (.streamerAccept 0) (strm1 i l))
/-- Witness of Streamer: a command is issued, accepted and completed. -/
theorem witness_stream_start : ReadyE (mS (dF cpyD)) (cw) (dF cpyD) leftOnly ∧
    (mS (dF cpyD)).stallsTile (.cpy (cw)) (dF cpyD) = false ∧ (mS (dF cpyD)).takeTag (dF cpyD) 7 = .free :=
  ⟨⟨rfl, .inl rfl, dataOnly_of (by decide)⟩, by decide, by decide⟩
theorem test_cpy_starts : nextIs (exec (.cpy (cw)) (mS (dF cpyD))) (fun t => (t.core 0).cmds.map (·.ctag) = [some 7] ∧
    ((t.core 0).ctag 7).st = .busy) = true := by decide
theorem test_cpyfill_starts : nextIs (exec (.cpyfill (cw)) (mS (dF fillD))) (fun t => (t.core 0).cmds.map (·.st) = [.sent]) = true := by
  decide
theorem witness_stream_accept : (strm1 (.cpyfill (cw)) fillD).nextSent 0 33 = some 0 ∧
    (((strm1 (.cpyfill (cw)) fillD).cmd? 0 0).map fun m => descStatus m.i m.f) = some 0 ∧
    ((strm1 (.cpyfill (cw)) fillD).checkAccs 0 (accsOf (.cpyfill (cw)) (dF fillD))).toOption =
      some [0x1000, 0x1001, 0x1002, 0x1003] := by decide
theorem test_streamer_accept : sent (exec (.streamerAccept 0) (strm1 (.cpyfill (cw)) fillD)) = [(.data, .sc 0)] ∧
    nextIs (exec (.streamerAccept 0) (strm1 (.cpyfill (cw)) fillD)) (fun t =>
      (t.core 0).cmds.map (·.pas) = [[0x1000, 0x1001, 0x1002, 0x1003]]) = true := by decide
/-- A CPYROT of an odd element count has a bad shape: status 2, and its tag is DONE at once. -/
theorem test_cpyrot_bad_shape : nextIs (exec (.streamerAccept 0) (strm1 (.cpyrot (cw)) [(26, 2, 3), (36, 1, 4)])) (fun t =>
    (t.core 0).fabric.map (·.tok.val) = [.sc 2] ∧ ((t.core 0).ctag 7).st = .done ∧ (t.core 0).cmds = []) = true := by decide
theorem witness_stream_end : (((strm2 (.cpyfill (cw)) fillD).cmd? 0 0).map fun m => (m.port, m.st, m.scope)) = some (33, .accepted, 1) ∧
    ((strm2 (.cpyfill (cw)) fillD).core 0).streamRuns 0 = true ∧
    (strm2 (.cpyfill (cw)) fillD).linkDown 0 [0x1000, 0x1001, 0x1002, 0x1003] = false ∧ (strm2 (.cpyfill (cw)) fillD).bad = [] := by
  decide
/-- The command has begun its writes. -/
def strm3 (i : Instr) (l : List (Nat × Nat × Nat)) : State := after (exec (.streamerCompletion 0 0) (strm2 i l))
/-- Witness of Streamer: the writes of a fill and of a copy are to distinct bytes, and the command may end. -/
theorem witness_stream_writes : [0x1000, 0x1001, 0x1002, 0x1003].Nodup ∧
    ((accsOf (.cpyfill (cw)) (dF fillD)).map fun a => a.wr.2).sum = 4 ∧
    (((strm2 (.cpy (cw)) cpyD).cmd? 0 0).map fun m => (m.pas, (accsOf m.i m.f).length)) =
      some ([0x1001, 0x2000, 0x1002, 0x2001], 2) ∧
    dfield (dF cpyD) 36 1 = dfield (dF cpyD) 37 1 ∧ (accsOf (.cpy (cw)) (dF cpyD)).all (·.rd.isSome) = true ∧
    fmtSize (dfield (dF cpyD) 36 1) = 1 := by decide
theorem witness_stream_may_end : ∃ m : Cmd, (strm3 (.cpyfill (cw)) fillD).cmd? 0 0 = some m ∧ m.port = 33 ∧ m.st = .started ∧
    m.status = 0 ∧ MayEnd (strm3 (.cpyfill (cw)) fillD) 0 m := by
  refine ⟨_, rfl, ?_, ?_, ?_, ?_, .inl ?_, ?_, ?_, ?_⟩ <;> first | decide | (unfold State.memOk; decide) | (unfold NoLate; decide)
/-- The writes are under way, then the command completes at CORE and its core sees them (R243, R315, R326). -/
theorem test_streamer_completion : (strm3 (.cpyfill (cw)) fillD).mem = (strm2 (.cpyfill (cw)) fillD).mem ∧
    nextIs (exec (.streamerCompletion 0 0) (strm3 (.cpyfill (cw)) fillD)) (fun t =>
      (List.range 5).map (fun k => t.readStrand 0 (0x1000 + k)) = [0xEF, 0xBE, 0xEF, 0xBE, 0] ∧
      ((t.core 0).ctag 7).st = .done ∧ t.mem = (strm2 (.cpyfill (cw)) fillD).mem) = true := by decide
/-- At PKG the bytes are in memory. -/
theorem test_cpy_completion : nextIs (exec (.streamerCompletion 0 0) (strm3 (.cpy (ew 33 3 7)) cpyD)) (fun t =>
    (List.range 3).map (fun k => Memory.get t.mem (0x2000 + k)) = [0x22, 0x33, 0]) = true := by decide

/-! ## The pool (R216-R225) -/

/-- A core under the split after reset. -/
def poolS (f : Firing) : State :=
  { fire f with
    cores := [{ tCore with split := Split.reset }] }
/-- A POOLCUT to the given counts, fired and applied. -/
def cutS (w : EWord) (v : Word) : State := after (exec (.poolcut w) (poolS (sF v)))
def cutP (w : EWord) (v : Word) : State := after (exec (.poolcutApply 0 0 0) (cutS w v))
/-- Witness of PoolOperations: 8 + 44 + 32 + 12 banks. -/
theorem witness_poolcut : ReadyE (poolS (sF 0x0C202C08)) (ew 63 0) (sF 0x0C202C08) leftOnly ∧
    PendAt (cutS (ew 63 0) 0x0C202C08) 0 0 0 ⟨.poolcut (ew 63 0), sF 0x0C202C08, .perform, 0⟩ ∧
    (poolS (sF 0x0C202C08)).keptOf (sF 0x0C202C08) = none ∧
    (cutS (ew 63 0) 0x0C202C08).oldest (sF 0x0C202C08) = true ∧ (cutS (ew 63 0) 0x0C202C08).poolLock 0 = false ∧
    ((cutP (ew 63 0) 0x0C202C08).core 0).cuts.map (fun e => (e.1, e.2.2.i)) = [(0, .poolcut (ew 63 0))] ∧
    ((cutP (ew 63 0) 0x0C202C08).core 0).cache = [] ∧ (cutP (ew 63 0) 0x0C202C08).cores.all (·.cmds.isEmpty) = true ∧
    (cutP (ew 63 0) 0x0C202C08).tileRefs 0 = false ∧ (cutP (ew 63 0) 0x0C202C08).mem = [] ∧
    ((cutP (ew 63 0) 0x0C202C08).core 0).frameExtent ≤ 8 * 0x40000 :=
  ⟨⟨rfl, .inl rfl, dataOnly_of (by decide)⟩, ⟨by decide, rfl, rfl⟩, by and_intros <;> decide⟩
/-- The same cut while a command refers to TILE, while a frame lies above 2 MiB, and with RELOC of a marked PAD line. -/
def cutT (mods : Nat) (v : Word) (g : Core → Core) : State :=
  let s := cutP (ew 63 mods) v
  s.setCore 0 (g (s.core 0))
def withMma (k : Core) : Core := { k with cmds := [{ mkCmd (.mma (ew 32 0x3B9)) (tF (.sc 0x40000000) (.sc 0x400)) 32 none 1 with st := .accepted }] }
def withFrame (k : Core) : Core := { k with cxs := k.cxs.map fun v => { v with fp := 0x1FFFC0, slots := [⟨false, .data, false⟩] } }
def withPad (k : Core) : Core := { k with padMarks := [0x28FFF] }
/-- Code 2 with TILE in use, or waiting; 1 for FRAME data that does not fit; 3 for PAD data that does not (R218). -/
theorem test_pool_transition_refused :
    sent (exec (.poolTransition 0) (cutT 0 0x0D1F2C08 withMma)) = [(.data, .sc 0x1020280800000002)] ∧
    nextIs (exec (.poolTransition 0) (cutT 4 0x0D1F2C08 withMma)) (fun t =>
      (t.core 0).cutting.isSome = true ∧ (t.core 0).fabric = []) = true ∧
    sent (exec (.poolTransition 0) (cutT 0 0x0D202C07 withFrame)) = [(.data, .sc 0x1020280800000001)] ∧
    sent (exec (.poolTransition 0) (cutT 2 0x11202708 withPad)) = [(.data, .sc 0x1020280800000003)] := by decide
theorem test_poolcut_refused : sent (exec (.poolcutApply 0 0 0) (cutS (ew 63 0) 0x0B202C08)) =
      [(.data, .sc 0x1020280800000005)] ∧
    sent (exec (.poolcutApply 0 0 0) (cutS (ew 63 0) 0x0D202F02)) = [(.data, .sc 0x1020280800000005)] ∧
    sent (exec (.poolcutApply 0 0 0) (cutS (ew 63 0) 0x0D203003)) = [(.data, .sc 0x1020280800000004)] := by decide
theorem test_pool_transition : sent (exec (.poolTransition 0) (cutP (ew 63 0) 0x0C202C08)) =
      [(.data, .sc 0x0C202C0800000000)] ∧
    nextIs (exec (.poolTransition 0) (cutP (ew 63 0) 0x0C202C08)) (fun t =>
      (t.core 0).split = ⟨8, 44, 32, 12⟩ ∧ (t.core 0).poolLast = 0) = true := by decide
/-- The split in force is answered at once. -/
theorem test_pool_transition_same : sent (exec (.poolTransition 0) (cutP (ew 63 0) 0x10202808)) =
    [(.data, .sc 0x1020280800000000)] := by decide

/-- One PAD line moves from line 1 to line 3. -/
def pmF (a d n : Nat) : Firing := tF (.sc (BitVec.ofNat 64 (a + d * 2 ^ 24))) (.sc (BitVec.ofNat 64 n))
def pmS : State := { poolS (pmF 1 3 1) with mem := [⟨padAddr 0 64, 0xAB⟩] }
theorem witness_poolmove : ReadyE pmS (ew 63 0) (pmF 1 3 1) both ∧ pmS.takeTag (pmF 1 3 1) 0 = .free ∧
    ({ pmS with cores := [{ pmS.core 0 with cxs := [{ tCx with ctl := Ctl.reset }] }] }).takeTag (pmF 1 3 1) 0 = .noTag ∧
    (((after (exec (.poolmove (ew 63 0)) pmS)).cmd? 0 0).map fun m => (m.i, m.orphan, m.scope, m.f.core)) =
      some (.poolmove (ew 63 0), false, 1, 0) ∧ pmS.memOk :=
  ⟨⟨rfl, .inl rfl, dataOnly_of (by decide)⟩, by decide, by decide, by decide, by unfold State.memOk; decide⟩
theorem test_poolmove : sent (exec (.poolmove (ew 63 0)) pmS) = [(.data, .sc 0)] ∧
    sent (exec (.poolmove (ew 63 0)) (poolS (pmF 1 0x28000 1))) = [(.data, .sc 1)] := by decide
/-- The bytes of the line are read and their writes begin; then they are made and the tag is DONE (R220, R326). -/
def pm1 : State := after (exec (.poolmoveCompletion 0 0) (after (exec (.poolmove (ew 63 0)) pmS)))
theorem witness_poolmove_end : ∃ m : Cmd, pm1.cmd? 0 0 = some m ∧ m.i = .poolmove (ew 63 0) ∧ m.st = .started ∧ m.scope = 1 ∧
    PlainCmd pm1 0 m ∧ MayEnd pm1 0 m := by
  refine ⟨_, rfl, ?_, ?_, ?_, ⟨?_, .inl ?_, ?_, ?_⟩, ⟨?_, .inl ?_, ?_, ?_, ?_⟩⟩
    <;> first | decide | (unfold State.memOk; decide) | (unfold NoLate; decide)
theorem test_poolmove_completion : Memory.get pm1.mem (padAddr 0 64) = 0xAB ∧ nextIs (exec (.poolmoveCompletion 0 0) pm1) (fun t =>
    t.mem = [⟨padAddr 0 192, 0xAB⟩] ∧ (t.core 0).cmds = [] ∧ ((t.core 0).ctag 0).st = .done) = true := by decide
theorem test_poolqry : sent (exec (.poolqry (ew 63 1)) (poolS (sF 0))) = [(.data, .sc 40)] ∧
    (lanes32 (exec (.poolqry (ew 63 31)) (poolS (sF 0)))).take 4 = [8, 40, 32, 16] ∧
    sent (exec (.poolqry (ew 63 9)) { poolS (sF 0) with cores := [withPad tCore] }) = [(.data, .sc 0xA40000)] := by decide

/-! ## The matrix island (R226-R236) -/

/-- A at line 0, C at line 2,048, B at line 1,024, e4m3 formats. -/
def mmF : Firing := tF (.sc 0x40000000) (.sc 0x400)
def mmw (tag : Nat := 3) : EWord := ew 32 0x3B9 tag
def mm1 (i : Instr) : State := after (exec i (poolS mmF))
def mm2 (i : Instr) : State := after (exec (.matrixCommandStart 0 0) (mm1 i))
/-- Witness of Matrix: a command is sent, may start, has started. -/
theorem witness_matrix : ReadyE (poolS mmF) mmw mmF both ∧ (poolS mmF).stallsTile (.mma mmw) mmF = false ∧
    EWord.cev mmw = false ∧ (poolS mmF).takeTag mmF 3 = .free ∧
    (((mm1 (.mma mmw)).cmd? 0 0).map fun m => ((mm1 (.mma mmw)).core 0).matMayStart m) = some true ∧
    ((mm1 (.mma mmw)).tileFits 0 0 && (mm1 (.mma mmw)).tileFits 0 1024 && (mm1 (.mma mmw)).tileFits 0 2048) = true :=
  ⟨⟨rfl, .inl rfl, dataOnly_of (by decide)⟩, by and_intros <;> decide⟩
theorem test_mma : nextIs (exec (.mma mmw) (poolS mmF)) (fun t =>
    (t.core 0).cmds.map (fun m => (m.st, m.ctag)) = [(.accepted, some 3)]) = true := by decide
/-- An MMAS waits for its scale token. -/
theorem test_mmas : nextIs (exec (.mmas mmw) (poolS mmF)) (fun t => (t.core 0).cmds.map (·.ord) = [0]) = true := by decide
theorem test_attsc : nextIs (exec (.attsc mmw) (poolS mmF)) (fun t => (t.core 0).cmds.map (·.ord) = [1]) = true := by decide
theorem test_matrix_start : nextIs (exec (.matrixCommandStart 0 0) (mm1 (.mma mmw))) (fun t =>
    (t.core 0).cmds.map (·.st) = [.started]) = true := by decide
/-- Tiles that lie outside TILE give status 1 at once. -/
theorem test_matrix_out_of_range : sent (exec (.matrixCommandStart 0 0)
    (after (exec (.mma mmw) { poolS mmF with sel := some (tF (.sc 0x7FFFF) (.sc 0)) }))) = [(.data, .sc 1)] := by decide
/-- The state after a CONSUMED_EVENT, written out: the operand tiles are read. -/
def mm3 : State :=
  let s := mm2 (.mma mmw)
  match s.cmd? 0 0 with
  | some m => s.setCmd 0 0 { m with st := .consumed }
  | none => s
theorem witness_matrix_steps : (((mm2 (.mma mmw)).cmd? 0 0).map fun m => (m.port, m.st, m.orphan, m.scope)) =
      some (32, .started, false, 1) ∧
    ((mm3.cmd? 0 0).map fun m => (m.port, m.st, m.f.core)) = some (32, .consumed, 0) ∧ mm3.tileFits 0 2048 = true ∧
    (mm3.core 0).ctags.length = 64 ∧ (mm3.core 0).cmds.all (fun o => o.ctc = none) = true := by decide
/-- The writes of the tile are under way (R326): of them, one byte. -/
def mm4 : State :=
  { poolS mmF with
    cores := [{ poolS mmF |>.core 0 with
      cmds := [{ mkCmd (.mma mmw) mmF 32 (some 3) 1 with st := .issued, ord := 1 }],
      late := [⟨4, 1, [(tileAddr 0 0x20000, 0x42)], []⟩] }] }
theorem witness_matrix_end : ∃ m : Cmd, mm4.cmd? 0 0 = some m ∧ m.port = 32 ∧ m.i.form = .e mmw ∧ m.st = .issued ∧
    PlainCmd mm4 0 m ∧ MayEnd mm4 0 m ∧ (∀ o ∈ (mm4.core 0).cmds, o.ctc = none) ∧
    tilesOverlap (aLine m.f) (cLine m.f) = false ∧ tilesOverlap (bLine m.f) (cLine m.f) = false := by
  refine ⟨_, rfl, rfl, rfl, rfl, ⟨rfl, .inl (by decide), rfl, by decide⟩, ⟨by decide, .inl (by decide), by decide, ?_, ?_⟩, ?_, ?_, ?_⟩
    <;> first | decide | (unfold State.memOk; decide) | (unfold NoLate; decide)
/-- Its status goes out and its tag is DONE; its bytes are in memory, since CACHE serves no TILE. -/
theorem test_matrix_completion : sent (exec (.matrixCompletion 0 0) mm4) = [(.data, .sc 0)] ∧
    nextIs (exec (.matrixCompletion 0 0) mm4) (fun t => Memory.get t.mem (tileAddr 0 0x20000) = 0x42 ∧
      (t.core 0).cmds = [] ∧ (t.core 0).late = []) = true := by decide
/-- Witness of Matrix: tiles of 65,536 bytes and formats of one byte. -/
theorem witness_tile : (List.replicate 65536 (0 : Byte)).length = 65536 ∧ fmtSize (EWord.afmt mmw) = 1 ∧
    fmtSize (EWord.bfmt mmw) = fmtSize (EWord.afmt mmw) := ⟨List.length_replicate .., by decide, by decide⟩
/-- One group of 32 products of 1.0 and 2.0 is added to 1.0: 65.0 (R194, R195). -/
theorem test_matElem : matElem [some 0] (List.replicate 32 (.fin false 1 0)) (List.replicate 32 (.fin false 1 1)) 0x3F800000 =
    0x42820000 := by decide
/-- An SCLD.v hands its token on and sends a scale token, which enters the store (R235). -/
def scw : EWord := ew 32 9 3
theorem test_scld : sent (exec (.scld scw) (poolS (sF 0x7F7F))) = [(.data, .sc 0x7F7F)] ∧
    nextIs (exec (.scld scw) (poolS (sF 0x7F7F))) (fun t => (t.core 0).scaleFlights.map (·.1) =
      [⟨0x77, .data, .vec 0x7F7F⟩]) = true := by decide
def scS : State := after (exec (.scld scw) (poolS (sF 0x7F7F)))
theorem test_scale_token_arrival : nextIs (exec (.scaleTokenArrival 0 0) scS) (fun t =>
    (t.core 0).scales.map (·.2.val) = [.vec 0x7F7F] ∧ (t.core 0).scaleFlights = [] ∧ ((t.core 0).ctag 3).st = .done) = true := by
  decide
theorem witness_scale : (poolS (sF 0x7F7F)).stallsTile (.scld scw) (sF 0x7F7F) = false ∧ (scS.core 0).matUsed < 32 ∧ (scS.cx 0 0).rateOk = true ∧ (scS.core 0).cmds = [] ∧
    (scS.core 0).scaleFlights.length = 1 := by decide

/-! ## The sparse units (R255-R262) -/

/-- A GATH of z32 from b16 (type 1, format 1), scope CORE, unit 34. -/
def gaw : EWord := ew 34 0x111 7
def gaF : Firing := tFire (some (tTok .data (.sc (paTok 0x1000)))) none none
def ga1 : State :=
  let s := after (exec (.gath gaw) (mS gaF))
  s.setCore 0 { s.core 0 with cycle := 256 }
def ga2 : State := after (exec (.gatherEntryIssue 0 0) ga1)
def gaVas : List Nat := vasIf (paTok 0x1000).toNat (fmtBytes (gathFmt gaw)) (spanBytes (gathType gaw) (gathFmt gaw))
theorem witness_gath : ReadyE (mS gaF) gaw gaF leftOnly ∧ NodeTakes (mS gaF) gaF 34 ∧
    ((mS gaF).core 0).gathOpen 34 = [] ∧ (mS gaF).stallsTile (.gath gaw) gaF = false ∧
    (mS gaF).walkStalls 0 gaVas = false ∧
    ((mS gaF).fillTlb 0 gaVas).check 0 .island (paTok 0x1000).toNat (spanBytes (gathType gaw) (gathFmt gaw))
      (fmtBytes (gathFmt gaw)) = .ok [0x1000, 0x1001] ∧
    ((ga1.cmd? 0 0).map fun m => (m.st, m.opened, ga1.linkDown 0 m.pas)) = some (.accepted, 0, false) ∧
    (∀ o ∈ (ga1.core 0).cmds, o.frozen = false ∧ o.st ≠ .sent ∧ ∀ pa ∈ o.pas, ga1.badIsland 0 pa = false) ∧
    ((ga2.cmd? 0 0).map fun m => (m.st, m.orphan, m.ord)) = some (.issued, false, 1) :=
  by
  unfold NodeTakes
  exact ⟨⟨rfl, .inl rfl, dataOnly_of (by decide)⟩, by and_intros <;> decide⟩
theorem test_gath : nextIs (exec (.gath gaw) (mS gaF)) (fun t => (t.core 0).cmds.map (·.pas) = [[0x1000, 0x1001]] ∧
    (t.cx 0 0).gseq = [1, 0, 0, 0]) = true := by decide
theorem test_gather_issue : nextIs (exec (.gatherEntryIssue 0 0) ga1) (fun t => (t.core 0).cmds.map (·.a) = [[0x11, 0x22]]) = true := by
  decide
theorem test_gather_return : sent (exec (.gatherReturn 0 0) ga2) = [(.data, .sc 0x2211)] ∧
    nextIs (exec (.gatherReturn 0 0) ga2) (fun t => ((t.core 0).ctag 7).st = .done ∧ (t.core 0).cmds = []) = true := by decide

/-- Two requests of one row block: issued together, returned together, each with its number (R256). -/
def ga3 : State :=
  let m (n : Nat) : Cmd := { mkCmd (.gath gaw) gaF 34 none 1 with st := .issued, ord := 1, gseq := n, a := [BitVec.ofNat 8 n, 0] }
  { mS gaF with
    cores := [{ tCore with cmds := [m 5, m 6] }] }
theorem test_gather_return_two : sent (exec (.gatherReturn 0 0) ga3) = [(.data, .sc 5), (.data, .sc 6)] ∧
    nextIs (exec (.gatherReturn 0 0) ga3) (fun t => (t.core 0).cmds = []) = true := by decide
/-- Witness of GatherUnits: a check that fails, under each stall mode, with a free tag and with none granted. -/
def gaErr (s : State) (a : Nat) : Option Nat :=
  errCode ((s.fillTlb 0 (vasIf a 2 2)).check 0 .island a (spanBytes (gathType gaw) (gathFmt gaw)) (fmtBytes (gathFmt gaw)))
theorem witness_gath_fails : (gaErr (badS 0) badF.lval.scalar.toNat).any (· != 4) = true ∧
    (badS 0).walkStalls 0 (vasIf badF.lval.scalar.toNat 2 2) = false ∧
    absS.walkStalls 0 (vasIf absF.lval.scalar.toNat 2 2) = false ∧
    (badS 0).takeTag badF 7 = .free ∧ (badS 2).isFrozen 0 34 0 = false ∧ (badS 0).portFull 0 (portOf 1) = false ∧
    gaErr absS absF.lval.scalar.toNat = some 4 := by decide
theorem test_gath_fails : (sent (exec (.gath gaw) (badS 0))).map (·.1) = [.fault] ∧
    nextIs (exec (.gath gaw) absS) (fun t => (t.core 0).fabric.map (·.tok.kind) = [.chaff] ∧
      ((t.core 0).ctag 7).mark = .chaff ∧ (t.cx 0 0).gseq = [1, 0, 0, 0]) = true ∧
    nextIs (exec (.gath gaw) (badS 2)) (fun t => t.isFrozen 0 34 0 = true ∧
      (t.core 0).cmds.map (fun m => (m.st, m.frozen)) = [(.sent, true)]) = true := by decide

/-- A context of the image whose channel 3 leads to its own slot 0. -/
def chFifo : Fifo := ⟨0, 2, 0x100, 0, [], [], 2, 0, none, 0, false⟩
def chCx : Ctx := { iCx with fifos := [chFifo] }
/-- INTSECT into channel 3: two fibres, f32 values. -/
def inw : EWord := ew 38 0x19 0
def inF : Firing := dF [(52, 4, 2), (56, 1, 4)]
def inS (f : Firing) : State := { iS chCx with sel := some f }
/-- A walk in which both fibres hold coordinate 5, with 1.0 and 2.0. -/
def inCmd (j p m : Nat) : Cmd :=
  { mkCmd (.intsect inw) inF 38 none 1 with
    st := .started, j, p, q := p, m, opened := 1,
    a := natBytes 4 5 ++ natBytes 4 0x3F800000, b := natBytes 4 5 ++ natBytes 4 0x40000000 }
def inW (j p m : Nat) : State :=
  { iS chCx with
    cores := [{ tCore with cxs := [chCx], cmds := [inCmd j p m] }] }
/-- What the FIFO of slot 0 holds at its head, in words of 32 bits. -/
def fifoHead (o : Out) : List (Kind × Nat × Nat × Nat × Nat) :=
  match o with
  | .next t => (((t.cx 0 0).fifo 0).map fun q => match t.fifoGet 0 q 0 with
    | some (k, .vec v) => [(k, bits v 31 0, bits v 63 32, bits v 95 64, bits v 127 96)]
    | _ => []).getD []
  | _ => []
theorem witness_intsect : ReadyE (inS inF) inw inF leftOnly ∧ isStatus inF = 0 ∧ isStatus (dF [(56, 1, 0)]) = 1 ∧
    (inS inF).isFrozen 0 38 0 = false ∧ (inW 0 0 0).chanRoom 0 0 (EWord.chanNum inw) = 2 ∧
    (inW 0 0 0).portFull 0 (portOf 1) = false ∧ isNb inF = 2 ∧ (inS inF).stallsTile (.intsect inw) inF = false ∧
    (inW 0 0 0).behindFrozen 0 0 (inCmd 0 0 0) = false ∧ (inCmd 0 0 0).status = 0 :=
  ⟨⟨rfl, .inl rfl, dataOnly_of (by decide)⟩, by and_intros <;> decide⟩
theorem test_intsect : sent (exec (.intsect inw) (inS inF)) = [(.data, .sc 0)] ∧
    sent (exec (.intsect inw) (inS (dF [(56, 1, 0)]))) = [(.data, .sc 1)] := by decide
/-- A match, the stop after the last match of a fibre, and the stop after the last fibre (R259). -/
theorem test_intsect_stream : fifoHead (exec (.intsectStreamSend 0 0) (inW 0 0 0)) = [(.data, 0x3F800000, 0x40000000, 5, 0)] ∧
    fifoHead (exec (.intsectStreamSend 0 0) (inW 0 1 1)) = [(.stop 0, 0, 0, 0, 0)] ∧
    fifoHead (exec (.intsectStreamSend 0 0) (inW 2 0 0)) = [(.stop 1, 0, 0, 0, 2)] := by decide

/-- An accumulator of 512 coordinates at PAD line 4; coordinate 9 receives 1.0. -/
def spw : EWord := ew 38 0x1031 7
def spF (j : Nat) : Firing := tF (.sc 0x3F800000) (.sc (BitVec.ofNat 64 j))
def spS (j : Nat) : State :=
  { poolS (spF j) with
    cores := [{ tCore with split := Split.reset, cxs := [{ tCx with ctl := Ctl.reset }] }] }
def sp1 (w : EWord) (j : Nat) : State := after (exec (.spacc w) (spS j))
theorem witness_spacc : ReadyE (spS 9) (ew 38 0x1000) (spF 9) both ∧ (spS 9).takeTag (spF 9) 0 = .noTag ∧
    spLine (ew 38 0x1000) = 4 ∧ spWidth (ew 38 0x1000) = 512 ∧ (spS 9).spCheck 0 (ew 38 0x1000) = none ∧
    (sp1 (ew 38 0x1000) 9).due ⟨.spacc (ew 38 0x1000), spF 9, .perform, 0⟩ = true ∧ NodeTakes (spS 9) (spF 9) 38 ∧
    (spS 9).keptOf (spF 9) = none ∧ (spS 9).adopt (.spacc (ew 38 0x1000)) (spF 9) = none :=
  by
  unfold NodeTakes
  exact ⟨⟨rfl, .inl rfl, dataOnly_of (by decide)⟩, by and_intros <;> decide⟩
theorem test_spacc : sent (exec (.spaccApply 0 0 0) (sp1 (ew 38 0x1000) 9)) = [(.data, .sc 0x3F800000)] ∧
    nextIs (exec (.spaccApply 0 0 0) (sp1 (ew 38 0x1000) 9)) (fun t =>
      t.mem = [⟨padAddr 0 257, 2⟩, ⟨padAddr 0 358, 0x80⟩, ⟨padAddr 0 359, 0x3F⟩]) = true := by decide
theorem test_spacc_beyond : sent (exec (.spaccApply 0 0 0) (sp1 (ew 38 0x1000) 512)) = [(.null, .sc 0)] := by decide
/-- SPFLUSH of the tile with coordinate 9 set: coordinate to 0x1000, value to 0x2000 as f32 (R262). -/
def sfw : EWord := ew 38 0x1021 7
def sfF : Firing := tF (.sc (paTok 0x1000)) (.sc (paTok 0x2000))
def sfS : State := { poolS sfF with mem := [⟨padAddr 0 257, 2⟩, ⟨padAddr 0 358, 0x80⟩, ⟨padAddr 0 359, 0x3F⟩] }
def sf1 : State := after (exec (.spflush sfw) sfS)
theorem witness_spflush : ReadyE sfS sfw sfF both ∧ sfS.isFrozen 0 38 0 = false ∧
    (sf1.cmd? 0 0).map (fun m => (m.frozen, m.orphan, m.scope)) = some (false, false, 1) ∧ sf1.spCheck 0 sfw = none ∧
    (sf1.spSet 0 sfw) = [9] ∧ sf1.behindFrozen 0 0 ((sf1.cmd? 0 0).getD (mkCmd (.spflush sfw) sfF 38 none 1)) = false ∧
    (sf1.core 0).cache = [] ∧ (sf1.core 0).split.pad ≤ 64 ∧ ((sf1.cmd? 0 0).map fun m => m.ord != 0) = some true ∧
    sf1.walkStalls 0 (vasIf 0xC020000000001000 4 4 ++ vasIf 0xC020000000002000 4 4) = false ∧
    ((sf1.fillTlb 0 (vasIf 0xC020000000001000 4 4 ++ vasIf 0xC020000000002000 4 4)).spChecks 0
      [((0xC020000000001000, 4), (0xC020000000002000, 4))]).toOption.isSome = true :=
  ⟨⟨rfl, .inl rfl, dataOnly_of (by decide)⟩, by and_intros <;> decide⟩
theorem test_spflush : nextIs (exec (.spflush sfw) sfS) (fun t => (t.core 0).cmds.map (·.st) = [.accepted]) = true := by decide
/-- The bitmap is cleared and the writes are under way; then they are made and the count is sent. -/
def sf2 : State := after (exec (.spflushCompletion 0 0) sf1)
theorem witness_spflush_end : ∃ m : Cmd, sf2.cmd? 0 0 = some m ∧ m.st = .started ∧ m.j = 1 ∧ PlainCmd sf2 0 m ∧
    MayEnd sf2 0 m ∧ sf2.behindFrozen 0 0 m = false ∧ sf2.linkDown 0 m.pas = false := by
  refine ⟨_, rfl, ?_, ?_, ⟨?_, .inl ?_, ?_, ?_⟩, ⟨?_, .inl ?_, ?_, ?_, ?_⟩, ?_, ?_⟩
    <;> first | decide | (unfold State.memOk; decide) | (unfold NoLate; decide)
theorem test_spflush_completion : Memory.get sf2.mem (padAddr 0 257) = 0 ∧ Memory.get sf2.mem 0x1000 = 0 ∧
    nextIs (exec (.spflushCompletion 0 0) sf2) (fun t => (t.core 0).fabric.map (·.tok.val) = [.sc 1] ∧
      t.readStrand 0 0x1000 = 9 ∧ t.readStrand 0 0x2003 = 0x3F) = true := by decide

/-! ## The network and collectives (R264-R269) -/

/-- Queue pair 1 of partition 0, granted and ready to send. -/
def netS (f : Firing) (ctl : Ctl := tCx.ctl) : State :=
  { mS f with
    qps := [⟨1, 0x803, 0, 0, 0, 0⟩], cores := [{ tCore with cxs := [{ tCx with ctl := ctl }] }] }
/-- Three bytes from 0x1001. -/
def netD : List (Nat × Nat × Nat) := [(0, 2, 1), (4, 4, 3), (8, 8, (paTok 0x1001).toNat)]
def nw (tag : Nat := 7) (scope : Nat := 4) : EWord := ew 40 scope tag
def net1 : State := after (exec (.netsend nw) (netS (dF netD)))
theorem witness_net : ReadyE (netS (dF netD)) nw (dF netD) leftOnly ∧ (netS (dF netD)).netTakes (dF netD) = true ∧
    (netS (dF netD) Ctl.reset).takeTag (dF netD) 7 = .noTag ∧ ntStatus (netS (dF netD)) true (dF netD) = 0 ∧
    ntWord (dF netD) = 0 ∧ ntStatus (netS (dF netD)) true (dF [(0, 2, 9)]) = 4 ∧
    ((netS (dF netD)).fillTlb 0 (ntVas (dF netD))).check 0 .island (ntAddr (dF netD)) 3 1 = .ok [0x1001, 0x1002, 0x1003] ∧
    ((netS (dF netD)).core 0).cache = [] ∧
    (net1.cmd? 0 0).map (fun m => (m.st, m.orphan, m.status, ntOp m.f)) = some (.accepted, false, 0, 0) ∧
    ((net1.cmd? 0 0).map fun m => (m.q, m.scope)) = some (0, 4) ∧
    (netS (dF netD)).stallsTile (.netsend nw) (dF netD) = false ∧ (netS (dF netD)).walkStalls 0 (ntVas (dF netD)) = false ∧
    net1.linkDown 0 [0x1001, 0x1002, 0x1003] = false :=
  ⟨⟨rfl, .inl rfl, dataOnly_of (by decide)⟩, by and_intros <;> decide⟩
/-- An RDMA READ sends its request when it is accepted, and writes the answer into its buffer (R267). -/
def rdD : List (Nat × Nat × Nat) := (2, 1, 2) :: (16, 8, 0x9000) :: (24, 4, 0x55) :: netD
def net2 : State := after (exec (.netsend nw) (netS (dF rdD)))
/-- The response has begun to be written. -/
def net5 : State := after (exec (.netCompletion 0 0 0 [5, 6, 7]) net2)
theorem test_rdma_read : net2.netTx = [⟨1, 2, 0x9000, 0x55, [3, 0, 0, 0]⟩] ∧
    Memory.get net5.mem 0x1002 = 0x33 ∧ nextIs (exec (.netCompletion 0 0 0 []) net5) (fun t =>
      (List.range 3).map (fun k => Memory.get t.mem (0x1001 + k)) = [5, 6, 7]) = true := by decide
theorem witness_rdma_read_end : ∃ m : Cmd, net5.cmd? 0 0 = some m ∧ isNet m.i = true ∧ m.st = .started ∧
    net5.netBehind m = false ∧ PlainCmd net5 0 m ∧ MayEnd net5 0 m ∧ (∀ x ∈ ownWrites net5 0 m, x.1 ∉ m.wordPas) ∧
    net5.linkDown 0 (m.pas ++ m.wordPas) = false ∧ NoLate net5 m.wordPas := by
  refine ⟨_, rfl, rfl, ?_, ?_, ⟨?_, .inr ?_, ?_, ?_⟩, ⟨?_, .inr ?_, ?_, ?_, ?_⟩, ?_, ?_, ?_⟩
    <;> first | decide | (unfold NoDirty; decide) | (unfold State.memOk; decide) | (unfold NoLate; decide)
theorem test_netsend : sent (exec (.netsend nw) (netS (dF netD))) = [(.data, .sc 0)] ∧
    sent (exec (.netsend nw) (netS (dF [(0, 2, 9)]))) = [(.data, .sc 4)] := by decide
theorem test_netrecv : sent (exec (.netrecv nw) (netS (dF netD))) = [(.data, .sc 0)] := by decide
/-- The record number of a FAULT mark. -/
def markNum (m : Mark) : Option Nat :=
  match m with
  | .fault n => some n
  | _ => none
/-- A failure marks the tag with an engine record (R268). -/
theorem test_net_completion_fails : nextIs (exec (.netCompletion 0 0 3 []) net1) (fun t =>
    ((markNum ((t.core 0).ctag 7).mark).bind fun n => (t.record 0 0 n).map fun r => (r.kind, r.detail)) = some (13, 3) ∧
      ((t.core 0).ctag 7).st = .done) = true := by decide
/-- The message has the length of the buffer; a free value chooses which of two equal bytes it holds. -/
theorem test_net_completion : nextIs (exec (.netCompletion 0 0 0 []) net1) (fun t =>
    t.netTx.map (fun m => (m.qp, m.op, m.data.length)) = [(1, 0, 3)] ∧ ((t.core 0).ctag 7).st = .done) = true := by decide
def netR : State := after (exec (.netrecv nw) (netS (dF netD)))
theorem witness_send_arrival : (netR.qp 1).receives = true ∧ (netR.qp 1).command = false ∧
    (netR.oldestRecv 1).map (fun t => (t.1, t.2.1)) = some (0, 0) ∧ (netS (dF netD)).oldestRecv 1 = none := by decide
theorem test_send_arrival : nextIs (exec (.netCompletion 0 0 0 []) (after (exec (.sendArrival 1 [5, 6]) netR))) (fun t =>
      (List.range 3).map (fun k => Memory.get t.mem (0x1001 + k)) = [5, 6, 0xF4]) = true ∧
    nextIs (exec (.sendArrival 1 [5, 6]) (netS (dF netD))) (fun t => t.netTx = [⟨1, 3, 0, 0, []⟩]) = true := by decide
/-- Witness of NetworkAndCollectives: bytes of the partition, and bytes that it does not own. -/
def peerS (ranges : List (Nat × Nat)) : State :=
  { netS (dF netD) with
    parts := [{ Part.reset with cores := 1, ttb := 0x10000, ranges := ranges }], mem := walkS.mem }
theorem witness_peer : ((peerS [(0, 0x400000)]).qp 1).granted = true ∧ ((peerS [(0, 0x400000)]).qp 1).receives = true ∧
    ((peerS [(0, 0x400000)]).peerBytes 0 .store [0x2010]).toOption = some [0x202010] ∧
    ((peerS [(0, 0x2000)]).peerBytes 0 .store [0x2010]).toOption = none ∧
    ((peerS [(0, 0x400000)]).peerBytes 0 .load [0x2010]).toOption = some [0x202010] := by decide
theorem test_rdma_arrivals : nextIs (exec (.rdmaWriteArrival 1 0x2010 [9]) (peerS [(0, 0x400000)])) (fun t =>
      Memory.get t.mem 0x202010 = 9 ∧ t.netTx = []) = true ∧
    nextIs (exec (.rdmaWriteArrival 1 0x2010 [9]) (peerS [(0, 0x2000)])) (fun t =>
      t.mem = walkS.mem ∧ t.netTx.map (·.op) = [5]) = true ∧
    nextIs (exec (.rdmaReadRequest 1 0x2010 1) (peerS [(0, 0x400000)])) (fun t => t.netTx.map (·.data) = [[0]]) = true := by decide

/-- A COLL of one f32 element: all-reduce by sum of two ranks. -/
def clD (rank src dst : Nat) : List (Nat × Nat × Nat) :=
  [(0, 8, (paTok src).toNat), (8, 8, (paTok dst).toNat), (16, 4, 1), (22, 1, 4), (23, 1, rank), (24, 1, 2)]
def clw (tag : Nat) : EWord := ew 40 3 tag
/-- 1.0 at 0x1000 and 2.0 at 0x1004. -/
def clS (f : Firing) : State :=
  { fire f with mem := [⟨0x1002, 0x80⟩, ⟨0x1003, 0x3F⟩, ⟨0x1007, 0x40⟩] }
def cl1 : State := after (exec (.coll (clw 7)) (clS (dF (clD 0 0x1000 0x2000))))
def cl2 : State := after (exec (.coll (clw 8)) { cl1 with sel := some (dF (clD 1 0x1004 0x2004)) })
def cl3 : State := after (exec (.collInstance 0 0 0) cl2)
theorem witness_coll : ReadyE (clS (dF (clD 0 0x1000 0x2000))) (clw 7) (dF (clD 0 0x1000 0x2000)) leftOnly ∧
    clStatus (dF (clD 0 0x1000 0x2000)) = 0 ∧ clStatus (dF (clD 2 0x1000 0x2000)) = 2 ∧
    ((cl2.collMembers 0 0 0).map fun t => clRank t.2.2.f) = [0, 1] ∧
    ((cl3.cmd? 0 0).map fun m => (m.st, m.orphan)) = some (.started, false) ∧
    (clS (dF (clD 0 0x1000 0x2000))).stallsTile (.coll (clw 7)) (dF (clD 0 0x1000 0x2000)) = false ∧
    ((cl1.collMembers 0 0 0).all fun o => collFits (dF (clD 1 0x1004 0x2004)) o.2.2) = true :=
  ⟨⟨rfl, .inl rfl, dataOnly_of (by decide)⟩, by and_intros <;> decide⟩
theorem test_coll : sent (exec (.coll (clw 7)) (clS (dF (clD 0 0x1000 0x2000)))) = [(.data, .sc 0)] ∧
    sent (exec (.coll (clw 7)) (clS (dF (clD 2 0x1000 0x2000)))) = [(.data, .sc 2)] := by decide
theorem test_coll_instance : nextIs (exec (.collInstance 0 0 0) cl2) (fun t =>
    (t.core 0).cmds.map (·.b) = [[0, 0, 0x40, 0x40], [0, 0, 0x40, 0x40]]) = true := by decide
/-- The writes of rank 0 begin, and then they are made at PKG. -/
def cl4 : State := after (exec (.collCompletion 0 0) cl3)
theorem witness_coll_end : ∃ m : Cmd, cl4.cmd? 0 0 = some m ∧ m.st = .consumed ∧ m.f.ctx = 0 ∧ m.scope = 3 ∧
    MayEnd cl4 0 m := by
  refine ⟨_, rfl, ?_, ?_, ?_, ⟨?_, .inr ?_, ?_, ?_, ?_⟩⟩
    <;> first | decide | (unfold NoDirty; decide) | (unfold State.memOk; decide) | (unfold NoLate; decide)
theorem test_coll_completion : nextIs (exec (.collCompletion 0 0) cl4) (fun t =>
    (List.range 4).map (fun k => Memory.get t.mem (0x2000 + k)) = [0, 0, 0x40, 0x40] ∧
    ((t.core 0).ctag 7).st = .done) = true := by decide

/-! ## Soft tokens and logs (R273-R282) -/

/-- The TEXT descriptor of token 3001. -/
def txt : Val := .vec 0xBB900000000
/-- The instance and what it does at commit. -/
def postsOf (o : Out) : List Post :=
  match o with
  | .next t => ((t.cx 0 0).insts.map (·.post)).headD []
  | _ => []
theorem test_skset : postsOf (exec (.skset (gi .b64 3)) (fire (tF txt (.sc 0)))) = [.sk 3 0xBB900000000] ∧
    sent (exec (.skset (gi .b64 3)) (fire (tF (.sc 9) (.sc 0)))) = [(.data, .sc 1)] := by decide
/-- The mixture of the spec's program: its digest is 0x5_7880_0682 (R276). -/
theorem test_skmix : (postsOf (exec (.skmix (gi .b64 3)) (fire (tF (v32 [1402, 0x3F400000, 88, 0x3E800000, 0, 0, 0, 0, 0, 0, 0,
      0, 0, 0, 0, 2]) (.sc 0))))).map (fun p => match p with
    | .sk r v => (r, skKind v, skCount v, skDigest v)
    | _ => (0, 0, 0, 0)) = [(3, 2, 2, 0x578800682)] := by decide
theorem test_skmix_invalid : sent (exec (.skmix (gi .b64 3)) (fire (tF (v32 [1]) (.sc 0)))) = [(.data, .sc 1)] := by decide
/-- A HIDDEN vector of the one f32 word 0xF4332211 at 0x1000: it is read, and its digest is 1 times it and 2^32 (R276). -/
def hidF : Firing := tF (.vec (mkHidden 4 1 0 (paTok 0x1000).toNat)) (.sc 0)
def hid1 : State := after (exec (.skset (gi .b64 3)) (mS hidF))
theorem witness_hidden : skCheck (mkHidden 4 1 0 (paTok 0x1000).toNat) = .hidden 4 1 (paTok 0x1000).toNat ∧
    skCheck (mkHidden 4 0 0 0) = .invalid ∧ (mS hidF).portTakes hidF = true ∧
    ((mS hidF).check 0 .load (paTok 0x1000).toNat 4 4).toOption = some [0x1000, 0x1001, 0x1002, 0x1003] ∧
    (hid1.cx 0 0).pend = [⟨.skset (gi .b64 3), hidF, .load [0x1000, 0x1001, 0x1002, 0x1003] [], 0⟩] ∧
    hid1.readAllowed hidF 0 [0x1000, 0x1001, 0x1002, 0x1003] = true ∧
    hid1.badByte 0 [0x1000, 0x1001, 0x1002, 0x1003] = none := by decide
theorem test_skset_hidden : postsOf (exec (.loadReturn 0 0 0) hid1) =
    [.sk 3 (mkHidden 4 1 0x1F4332211 (paTok 0x1000).toNat)] := by decide
/-- Registers 1 to 3 hold a TEXT, a HIDDEN and a MIXTURE. -/
def skCx : Ctx := { tCx with sks := [0, mkText 3001 0 0, mkHidden 5 8 9 0x1000, mkMixture [(7, 0x3E800000), (9, 0x3F400000)]] }
def skS (f : Firing) : State :=
  { fire f with
    cores := [{ tCore with cxs := [skCx] }] }
theorem test_skget : sent (exec (.skget (gi .b64 1)) (skS (tF (.sc 0) (.sc 0)))) = [(.data, .vec 0xBB900000000)] := by decide
/-- An older instance of the image may still write register 3, so that SKGET waits. -/
theorem witness_soft : (skS (tF (.sc 0) (.sc 0))).skRead (tF (.sc 0) (.sc 0)) 3 = some (mkMixture [(7, 0x3E800000), (9, 0x3F400000)]) ∧
    skKind (mkText 3001 0 0) = 0 ∧ skKind (mkHidden 5 8 9 0x1000) = 1 ∧ 2 ≤ skKind (mkMixture [(7, 0x3E800000), (9, 0x3F400000)]) ∧
    ((skS (tF (.sc 0) (.sc 0))).addPend ⟨.skset (gi .b64 3), { tF (.sc 0) (.sc 0) with seq := 4 }, .perform, 0⟩).instOf
      (tF (.sc 0) (.sc 0)) = some tInst := by decide
def skOlder : State :=
  { iS { iCx with
      insts := [{ tInst with seq := 4 }, tInst],
      pend := [⟨.skset (gi .b64 3), { tF (.sc 0) (.sc 0) with seq := 4 }, .held, 0⟩] } with
    sel := some (tF (.sc 0) (.sc 0)) }
theorem test_skget_waits : skOlder.skRead (tF (.sc 0) (.sc 0)) 3 = none ∧
    (pends (exec (.skget (gi .b64 3)) skOlder)).length = 2 := by decide
theorem test_collapse : sent (exec (.collapse (gw .b64)) (skS (tF (.sc 0x53) (.sc 0)))) = [(.data, .sc 9)] ∧
    postsOf (exec (.collapse (gw .b64)) (skS (tF (.sc 0x53) (.sc 0)))) =
      [.sk 5 (mkText 9 1 (skDigest (mkMixture [(7, 0x3E800000), (9, 0x3F400000)])))] := by decide
theorem test_collapse_others : sent (exec (.collapse (gw .b64)) (skS (tF (.sc 0x51) (.sc 0)))) = [(.data, .sc 0x100000BB9)] ∧
    sent (exec (.collapse (gw .b64)) (skS (tF (.sc 0x52) (.sc 0)))) = [(.data, .sc 0x2FFFFFFFF)] := by decide
/-- Equal weights give the lower id; a NaN alone gives status 3 (R278). -/
def tieS (l : List (Nat × Nat)) : State :=
  let v : Ctx := { tCx with sks := [0, 0, 0, mkMixture l] }
  { fire (tF (.sc 0x53) (.sc 0)) with
    cores := [{ tCore with cxs := [v] }] }
theorem test_collapse_ties : sent (exec (.collapse (gw .b64)) (tieS [(9, 0x3F400000), (7, 0x3F400000)])) = [(.data, .sc 7)] ∧
    sent (exec (.collapse (gw .b64)) (tieS [(9, 0x7FC00000)])) = [(.data, .sc 0x3FFFFFFFF)] ∧
    postsOf (exec (.collapse (gw .b64)) (tieS [(9, 0x7FC00000)])) = [] := by decide
/-- A sampled draw of an infinite weight picks it. -/
theorem test_collapse_sampled : sent (exec (.collapse (gw .b64 1)) (tieS [(9, 0x3F400000), (7, 0x7F800000)])) =
    [(.data, .sc 7)] := by decide
/-- Position 6 and register 1, without a spill. -/
def logF : Firing := tF (.sc (paTok 0x1000)) (v32 [6, 1])
theorem witness_logs : ReadyAt (skS logF) (stw .b64 .b8) logF ∧ (skS logF).skRead logF (logReg logF) = some 0xBB900000000 ∧
    ((skS logF).fillTlb 0 (vasIf (MWord.ea (stw .b64 .b8) logF) 32 32)).check 0 .store (MWord.ea (stw .b64 .b8) logF) 32 32 =
      .ok (List.range' 0x1000 32) ∧
    (skS logF).walkStalls 0 (vasIf (MWord.ea (stw .b64 .b8) logF) 32 32) = false :=
  ⟨⟨⟨rfl, .inl rfl, dataOnly_of (by decide)⟩, by decide⟩, by decide, by rfl, by decide⟩
theorem test_logrec : (storesOf (exec (.logrec (stw .b64 .b8)) (skS logF))).map (fun l => l.map (·.2)) =
    [[6, 0, 0, 0, 0, 0, 0, 0, 0xB9, 0x0B, 0, 0, 0, 0, 0, 0] ++ List.replicate 16 0] := by decide
/-- Two logs of text records: token 5 at 0x1000, token 5 and then another at 0x1040. -/
def pfS (n : Nat) : State :=
  { fire (tF (.sc (paTok 0x1000)) (.sc (paTok 0x1040))) with mem := [⟨0x1008, 5⟩, ⟨0x1048, BitVec.ofNat 8 n⟩, ⟨0x1068, 1⟩] }
theorem test_pfxcmp : sent (exec (.pfxcmp (ew 63 2)) (pfS 5)) = [(.data, .sc 0x200000001)] ∧
    sent (exec (.pfxcmp (ew 63 1)) (pfS 5)) = [(.data, .sc 1)] ∧ sent (exec (.pfxcmp (ew 63 0)) (pfS 5)) = [(.data, .sc 0)] := by
  decide
theorem witness_pfxcmp : (∀ l ∈ (pfS 5).links, l.failed = false) ∧ (pfS 5).portTakes (tF (.sc (paTok 0x1000)) (.sc (paTok 0x1040))) = true ∧
    pfxWalk ((pfS 5).fillTlb 0 ((pfS 5).pfxVas 0 (paTok 0x1000).toNat (paTok 0x1040).toNat 2 0)) 0
      (paTok 0x1000).toNat (paTok 0x1040).toNat 2 0 = .ok (1, 2) := by
  and_intros <;> first | rfl | decide
/-- REPLAY of the record of token 5 into register 1; a record of kind 9 is invalid. -/
def rpS (kind : Nat) : State :=
  after (exec (.replay (mw .b64 .b8)) { skS logF with mem := [⟨0x1004, BitVec.ofNat 8 kind⟩, ⟨0x1008, 5⟩] })
theorem test_replay : pends (exec (.replay (mw .b64 .b8)) (skS logF)) = [.perform] := by decide
theorem test_replay_perform : sent (exec (.replayPerform 0 0 0) (rpS 0)) = [(.data, .sc 0)] ∧
    postsOf (exec (.replayPerform 0 0 0) (rpS 0)) = [.sk 1 (mkText 5 0 0)] ∧
    sent (exec (.replayPerform 0 0 0) (rpS 9)) = [(.data, .sc 3)] := by decide
theorem witness_replay : PendAt (rpS 0) 0 0 0 ⟨.replay (mw .b64 .b8), logF, .perform, 0⟩ ∧ (rpS 0).oldest logF = true ∧
    (rpS 0).instOf logF = some tInst ∧ (rpS 0).readAllowed logF 3 (List.range' 0x1000 32) = true ∧
    (rpS 0).acquireStalls ⟨.replay (mw .b64 .b8), logF, .perform, 0⟩ = false ∧ (rpS 0).portTakes logF = true ∧
    (rpS 0).walkStalls 0 (vasIf (MWord.ea (mw .b64 .b8) logF) 32 32) = false ∧
    ((((rpS 0).fillTlb 0 (vasIf (MWord.ea (mw .b64 .b8) logF) 32 32)).dropPend 0 0 0).check 0 .load
      (MWord.ea (mw .b64 .b8) logF) 32 32).toOption = some (List.range' 0x1000 32) :=
  ⟨⟨by decide, rfl, rfl⟩, by and_intros <;> decide⟩

/-! ## Sampling (R296-R309) -/

/-- The published known answer of Philox4x32-10 for a zero key and counter: 6627e8d5 e169c58d bc57ac4c 9b00dbd8. -/
theorem test_philox : (List.range 4).map (rngRaw 0 0 0) = [0x6627E8D5, 0xE169C58D, 0xBC57AC4C, 0x9B00DBD8] := by decide
/-- (0x6627E8 + 0.5) / 2^24 and, cut, (0xE169C5 + 0.5) / 2^24 (R305). -/
theorem test_rng : (vec2 (.rng (gw .vz32)) (.sc 0) (.sc 0)).take 2 = [0x3ECC4FD1, 0x3F6169C5] := by decide
theorem test_smaxinit : vec2 (.smaxinit (gw .vf32)) (v32 [0x40000000]) (.sc 0) = [0x40000000, 0, 0, 0] ++
    List.replicate 8 0x3F800000 ++ List.replicate 4 0 := by decide
/-- Maximum 1.0 with sum 1.0, and a block of maximum 2.0 with sum 1.0: 2.0 and 1.5, with the factors 0.5 and 1. -/
theorem test_smaxupd : (fun l => [l.getD 0 0, l.getD 4 0, l.getD 8 0, l.getD 12 0])
    (vec2 (.smaxupd (gw .vf32)) (v32 [0x3F800000, 0, 0, 0, 0x3F800000]) (v32 [0x40000000, 0, 0, 0, 0x3F800000])) =
    [0x40000000, 0x3FC00000, 0x3F000000, 0x3F800000] := by decide
/-- A NULL summary leaves maximum and sum. -/
theorem test_smaxupd_null : (fun l => [l.getD 0 0, l.getD 4 0, l.getD 8 0, l.getD 12 0])
    (lanes32 (exec (.smaxupd (gw .vf32)) (fire (tFire (some (tTok .data (v32 [0x40000000, 0, 0, 0, 0x3F000000])))
      (some (tTok .null (.sc 0))) none)))) = [0x40000000, 0x3F000000, 0x3F800000, 0] := by decide
/-- The first pass adds the positive parts of p - q, here 0.5, and raises the base by 8 (R308). -/
theorem test_specres : (vec2 (.specres (gw .vf32)) (v32 [0x3F800000, 0, 0, 0, 0, 0, 0, 0, 0x3F000000]) (v32 [])).take 3 =
    [0x3F000000, 0x3F800000, 8] := by decide
/-- The second pass with u = 0.5 over residuals 0.25 and 0.5 of total 0.75: the limit 0.375 is passed at index 1 (R308). -/
theorem test_specres_walk : (vec2 (.specres (gw .vf32)) (v32 [0x3E800000, 0x3F000000]) (v32 [0x3F400000, 0x3F400000, 0, 1, 0x3F000000])) =
    [0x3F400000, 0x3F400000, 8, 21, 0x3F000000, 0x3EC00000, 0x3F400000, 1] ++ List.replicate 8 0 := by decide

/-! ## Pages and basting (R286-R293) -/

/-- A KVAPP.vf32.e4m3 of chunk 0 of a K row to the page whose header is at 0x1000, with the scale 0.5 (R287's example). -/
def kvw : MWord := { mw .vf32 .e4m3 with lsid := 2 }
def kvF : Firing := tF (v32 [0x1000, 0xC0200000, 0x3F000000, 0]) (v32 [0x42C80000, 0x43960000, 0xBDCCCCCD, 0x7FC00000])
def kvS (own : Nat) : State :=
  { fire kvF with mem := [⟨0x1001, 0x20⟩, ⟨0x1006, 0x20⟩, ⟨0x1007, 0xC0⟩, ⟨0x1008, BitVec.ofNat 8 own⟩, ⟨0x1009, 7⟩] }
def kv1 (own : Nat) : State := after (exec (.kvapp kvw) (kvS own))
theorem witness_kvapp : PendAt (kv1 1) 0 0 0 ⟨.kvapp kvw, kvF, .perform, 0⟩ ∧
    ((((kv1 1).fillTlb 0 (vasIf (MWord.ea kvw kvF) 64 64)).dropPend 0 0 0).check 0 .atomic (MWord.ea kvw kvF) 64 64).toOption =
      some (List.range' 0x1000 64) ∧
    (kv1 1).kvBehind ⟨.kvapp kvw, kvF, .perform, 0⟩ (MWord.ea kvw kvF) = false ∧
    (kv1 1).atomicAllowed ⟨.kvapp kvw, kvF, .perform, 0⟩ kvw (kvRel kvw kvF) [] = true ∧
    ((kv1 1).core 0).late = [] ∧ ((kv1 1).instOf kvF).map (fun i => i.stores) = some [] ∧ (kv1 1).memOk ∧
    (kv1 1).atomicAllowed ⟨.kvapp kvw, kvF, .perform, 0⟩ kvw (kvRel kvw kvF)
      (List.range' 0x1000 64) = true ∧ ((kv1 1).core 0).cache = [] ∧ (kv1 1).portTakes kvF = true ∧
    (kv1 1).walkStalls 0 (vasIf (MWord.ea kvw kvF) 64 64) = false ∧ (kv1 1).parts.length = 1 ∧
    kvw.fmt.code = 7 ∧ kvCtl kvF = 0 ∧ (kv1 1).readAllowed kvF 3 (List.range' 0x2000 16) = true :=
  ⟨⟨by decide, rfl, rfl⟩, by and_intros <;> first | decide | (unfold State.memOk; decide)⟩
/-- The spec's example: 0x74, 0x7E clipped, 0xA5, 0x7F; the status is 0x1_0000, OVF and KFIX are set. -/
theorem test_kvapp : sent (exec (.kvappPerform 0 0 0) (kv1 1)) = [(.data, .sc 0x10000)] ∧
    nextIs (exec (.kvappPerform 0 0 0) (kv1 1)) (fun t => (List.range 5).map (fun k => Memory.get t.mem (0x2000 + k)) =
      [0x74, 0x7E, 0xA5, 0x7F, 0] ∧ Memory.get t.mem 0x100B = 3 ∧ Memory.get t.mem 0x100F = 0x3F ∧
      (t.cx 0 0).ctl.kvclip = 1) = true := by decide
/-- A page without an owner is refused with 3. -/
theorem test_kvapp_unowned : sent (exec (.kvappPerform 0 0 0) (kv1 0)) = [(.data, .sc 3)] := by decide
/-- KVMAP of position 70 reads the second header of the table. -/
theorem test_kvmap : pends (exec (.kvmap (mw .z64 .b8)) (fire (tF (.sc (paTok 0x1000)) (.sc 70)))) =
    [.load (List.range' 0x1040 64) []] := by decide
/-- A write set at PAD byte 64 for the list at 0x4000 of 3 headers, in slot 1. -/
def sbF : Firing := tF (.sc 0x4000) (.sc 0x300000040)
def sbS : State := after (exec (.specbeg (ew 63 1)) (poolS sbF))
theorem witness_spec : PendAt sbS 0 0 0 ⟨.specbeg (ew 63 1), sbF, .perform, 0⟩ ∧
    sbS.due ⟨.specbeg (ew 63 1), sbF, .perform, 0⟩ = true ∧ (sbS.cx 0 0).specs.length = 4 ∧ (sbS.core 0).split.pad ≤ 64 ∧ (∀ l ∈ sbS.links, l.failed = false) ∧ sbS.memOk ∧
    (poolS sbF).adopt (.specbeg (ew 63 1)) sbF = none ∧ (poolS sbF).keptOf sbF = none := ⟨⟨by decide, rfl, rfl⟩, by
  and_intros <;> first | decide | (unfold State.memOk; decide)⟩
/-- A slot is opened with its write set at PAD byte 64 (R290). -/
theorem test_specbeg_opens : sent (exec (.specApply 0 0 0) sbS) = [(.data, .sc 0)] ∧
    nextIs (exec (.specApply 0 0 0) sbS) (fun t => (t.cx 0 0).specs.getD 1 ⟨false, 0⟩ = ⟨true, 64⟩) = true := by decide
/-- A list address that is not a multiple of 64 is refused with 2, an open slot with 1 (R290). -/
theorem test_specbeg : sent (exec (.specApply 0 0 0) (after (exec (.specbeg (ew 63 1)) (poolS (tF (.sc 0x4001) (.sc 0x300000040)))))) =
      [(.data, .sc 2)] ∧
    sent (exec (.specApply 0 0 0) (after (exec (.specbeg (ew 63 1)) { poolS sbF with
      cores := [{ tCore with cxs := [{ tCx with specs := tCx.specs.set 1 ⟨true, 64⟩ }] }] }))) = [(.data, .sc 1)] := by decide
/-- One entry for the page at 0x1000, slot 4: its fill becomes 5 (R292). -/
def scF : Firing := tF (.sc 1) (.sc 0)
def ctS (isOpen : Bool) : State :=
  after (exec (.speccmt (ew 63 5)) { poolS scF with
    mem := [⟨padAddr 0 74, 1⟩, ⟨padAddr 0 75, 1⟩, ⟨padAddr 0 129, 0x10⟩, ⟨padAddr 0 134, 0x20⟩, ⟨padAddr 0 135, 0xC0⟩,
      ⟨padAddr 0 136, 4⟩],
    cores := [{ tCore with split := Split.reset, cxs := [{ tCx with specs := (tCx.specs.set 1 ⟨isOpen, 64⟩) }] }] })
theorem witness_speccmt : PendAt (ctS true) 0 0 0 ⟨.speccmt (ew 63 5), scF, .perform, 0⟩ ∧
    (ctS true).due ⟨.speccmt (ew 63 5), scF, .perform, 0⟩ = true ∧ (ctS true).portTakes scF = true ∧
    ((ctS true).core 0).cache = [] ∧ ((ctS true).core 0).late = [] ∧ (∀ l ∈ (ctS true).links, l.failed = false) ∧
    ((ctS true).cx 0 0).specs.length = 4 ∧ (((ctS true).dropPend 0 0 0).specFills 0 64 [0]).toOption = some [(0x100A, 4)] :=
  ⟨⟨by decide, rfl, rfl⟩, by and_intros <;> decide⟩
theorem test_speccmt : sent (exec (.specApply 0 0 0) (ctS true)) = [(.data, .sc 1)] ∧
    nextIs (exec (.specApply 0 0 0) (ctS true)) (fun t => Memory.get t.mem 0x100A = 5 ∧
      (t.cx 0 0).specs.getD 1 ⟨true, 0⟩ = ⟨false, 64⟩) = true ∧
    sent (exec (.specApply 0 0 0) (ctS false)) = [(.data, .sc 0x20000)] := by decide

/-! ## Control registers, traps and images (R94-R99, R338-R350) -/

theorem witness_control : ReadyG (fire (sF 3)) (gi .b64 4) (sF 3) tInst ∧ NoTableRecord (fire (sF 3)) (sF 3) ∧
    tInst.marked = none := ⟨⟨rfl, .inl rfl, dataOnly_of (by decide), by decide⟩, fun _ h => (by cases h), rfl⟩
/-- ctl.id of core 0, context 0, partition 0; ctl.ctagmask; ctl.cycle (R349). -/
theorem test_getc : sent (exec (.getc (gi .b64 1)) (fire (sF 3))) = [(.data, .sc 0)] ∧
    sent (exec (.getc (gi .b64 2)) (fire (sF 3))) = [(.data, .sc (-1))] ∧
    sent (exec (.getc (gi .b64 16)) (fire (sF 3))) = [(.data, .vec 0)] := by decide
theorem test_setc : sent (exec (.setc (gi .b64 4)) (fire (sF 2))) = [(.data, .sc 2)] ∧
    postsOf (exec (.setc (gi .b64 4)) (fire (sF 2))) = [.setc 4 2] := by decide
theorem test_setc_fclr : postsOf (exec (.setcFclr (gi .b64 17)) (fire (sF 2))) = [.fclr] := by decide
/-- The record that marks the first instance: kind and detail. -/
def markOf (o : Out) : Option (Nat × Word) :=
  match o with
  | .next t => ((t.cx 0 0).insts.head?.bind (·.marked)).bind fun n => (t.record 0 0 n).map fun r => (r.kind, r.detail)
  | _ => none
theorem test_trap : markOf (exec (.trap (gi .z64 9)) (fire (sF 2))) = some (12, 0x20009) := by decide
/-- In a handler ERET.skip is an exit; outside it marks the instance. -/
def hCx : Ctx :=
  { tCx with
    insts := [], hInsts := [{ tInst with hdl := true }], ctl := { tCx.ctl with inHandler := true } }
def hS : State :=
  { tS with
    cores := [{ tCore with cxs := [hCx] }], sel := some { tFire none none none with hdl := true } }
theorem test_eret : nextIs (exec (.eret { gw .b64 1 with t0 := .none }) hS) (fun t =>
      (t.cx 0 0).hInsts.map (fun i => i.exit.map fun e => (e.done, e.eret)) = [some (true, some true)]) = true ∧
    markOf (exec (.eret { gw .b64 1 with t0 := .none }) (fire (tFire none none none))) = none := by decide
/-- Outside a handler the instance of an ERET does not commit: it is marked with ILLEGAL (R347, R338). -/
def strayI : Inst := { tInst with exit := some ⟨3, true, none, 0x77, [], none, false, some false⟩ }
def strayS : State := fire (tFire none none none) |>.setCx 0 0 { tCx with insts := [strayI] }
theorem witness_stray : (strayS.cx 0 0).phase = .running ∧ (strayS.cx 0 0).ctl.inHandler = false ∧ strayI.hdl = false ∧
    strayS.commits 0 0 strayI = true ∧ strayI.exit.map (·.eret) = some (some false) ∧ (strayS.cx 0 0).recTab = [] := by decide
theorem test_stray_eret : markOf (exec (.instanceCommit 0 0) strayS) = some (8, 0) := by decide
theorem witness_eret : hS.instOf { tFire none none none with hdl := true } = some { tInst with hdl := true } := by decide

/-- An instance marked with record 7 of kind 12, of an image with or without the handler block 1. -/
def mRec : FRec :=
  ⟨0x77, 0, 12, 0, 51, false, false, false, false, 0, false, 5, 3, 0, 0, 9⟩
def hImg : List Word := tImg.set 1 0x0001000201010200
def trapS (img : List Word) : State :=
  iS { iCx with
    lau := { tCx.lau with image := img }, insts := [{ tInst with marked := some 0x8001 }], recTab := [(1, mRec)] }
theorem witness_trap : ((trapS hImg).cx 0 0).insts.map (·.marked) = [some 0x8001] ∧ (trapS hImg).record 0 0 0x8001 = some mRec ∧
    imgHandler hImg = 1 ∧ imgHandler tImg = 0xFFFF := by decide
theorem test_instance_trap : nextIs (exec (.instanceTrap 0 0) (trapS hImg)) (fun t =>
    let v := t.cx 0 0
    v.ctl.inHandler = true ∧ v.ctl.tcause = 0x8001330C ∧ v.ctl.tseq = 5 ∧ v.ctl.ttag = 0x77 ∧
    v.ctl.tblk = 0xFFFF00030000 ∧ v.hWant = some ⟨1, 0, 0, []⟩ ∧ v.insts = [] ∧ v.nextSeq = 5) = true := by decide
theorem test_instance_trap_fails : nextIs (exec (.instanceTrap 0 0) (trapS tImg)) (fun t => (t.cx 0 0).phase = .failed) = true := by
  decide
/-- A handler instance whose ERET has completed. -/
def retI (skip : Bool) : Inst :=
  { tInst with
    hdl := true, blk := 1, seq := 0, exit := some ⟨0, true, none, 0x77, [], none, false, some skip⟩ }
def retS (skip : Bool) : State :=
  iS { iCx with
    insts := [], recTab := [(1, mRec)], ctl := { tCx.ctl with inHandler := true }, hInsts := [retI skip],
    trapped := some ⟨5, 0, 0x77, [], 0x8001, some ⟨2, true, some 1, 0x78, [], none, false, none⟩⟩ }
theorem witness_return : (retS true).commits 0 0 (retI true) = true := by decide
theorem test_return_replay : nextIs (exec (.instanceCommit 0 0) (retS false)) (fun t =>
    (t.cx 0 0).want = some ⟨0, 0x77, 5, []⟩ ∧ (t.cx 0 0).ctl.inHandler = false ∧ (t.cx 0 0).recTab = []) = true := by decide
theorem test_return_skip : nextIs (exec (.instanceCommit 0 0) (retS true)) (fun t =>
    (t.cx 0 0).want = some ⟨1, 0x78, 6, []⟩) = true := by decide

/-- A whole image of one block with a HALT (R78-R88). -/
def vImg : List Word :=
  [0x000100010D721A6E, 0xFFFF000101000000, 0x0000004000000040, 0x0000007000000040, 0x0000000100000060, 0, 0x180, 0,
   0xB700000400000000, 0, 0x421FFFF800000000, 0, 0x0000000100010101, 0, 0x100, 0x01010000, 0x421FFFF800000000] ++
  List.replicate 31 0
theorem test_check_passes : checkImage vImg = .pass := by decide
/-- A block record without its magic: code 8, block 0, word 0; a second exit that the header does not count: code 15, word 1. -/
theorem test_check_refuses : checkImage (vImg.set 8 0xB600000400000000) = .refuse 8 0 0 ∧
    checkImage (vImg.set 10 0xFF9FFFF800000000) = .refuse 15 0 1 := by decide
/-- The bytes of an image in memory. -/
def memOf (base : Nat) (img : List Word) : Memory :=
  (img.mapIdx fun n w => (List.range 8).filterMap fun k =>
    if (w.toNat >>> (8 * k)) % 256 = 0 then none else some ⟨base + 8 * n + k, BitVec.ofNat 8 (w.toNat >>> (8 * k))⟩).flatten
def cfF (opts : Nat) : Firing := tF (.sc (paTok 0x1000)) (.sc (BitVec.ofNat 64 opts))
def cfS (opts : Nat) (images : List Image) : State :=
  { fire (cfF opts) with mem := memOf 0x1000 vImg, parts := [{ Part.reset with cores := 1, images }] }
theorem test_cfgload_options : sent (exec (.cfgload (gw .b64)) (cfS 4 [])) = [(.data, .sc 20)] ∧
    sent (exec (.cfgload (gw .b64)) (cfS 2 [])) = [(.data, .sc 0x100012)] := by decide
theorem test_cfgload_release : nextIs (exec (.cfgload (gw .b64)) (cfS 2 [⟨0x1000, [], none, []⟩])) (fun t =>
    (t.part 0).images.map (·.rel) = [[⟨0, 0, false, 5⟩]]) = true := by decide
def cfU : State := (cfS 0 []).cacheAcquire 0
def cfVas : List Nat := touched (paTok 0x1000).toNat (imgLength vImg)
theorem witness_cfgload : cfU.imageWords (cfF 0) (paTok 0x1000).toNat = vImg ∧
    runStages (cfU.imageErr 0 (paTok 0x1000).toNat) (checkStages vImg) = .pass ∧
    (cfS 0 []).readAllowed (cfF 0) 0 [] = true ∧ cfU.walkStalls 0 cfVas = false ∧
    (((cfU.fillTlb 0 cfVas).check 0 .load (paTok 0x1000).toNat (imgLength vImg) 1).toOption.map fun l =>
      (l.length, cfU.linkDown 0 l)) = some (384, false) ∧
    (cfU.imageErr 0 (paTok 0x1000).toNat 0).isNone = true ∧ ((cfS 0 []).core 0).cache = [] := by and_intros <;> decide
theorem witness_cfgload_release : (cfS 0 []).partOfCore 0 = some 0 ∧ (cfS 0 []).portTakes (cfF 0) = true ∧
    (cfS 2 [⟨0x1000, [], none, []⟩]).handleBusy 0 0x1000 = false ∧ ((cfS 0 []).part 0).freeHandle.isSome = true := by decide
theorem test_cfgload_installs : nextIs (exec (.cfgload (gw .b64)) (cfS 0 [])) (fun t =>
    (t.part 0).images.map (·.handle) = [0]) = true := by decide


/-! ## Panels, take-in, save and restore (R351-R356) -/

/-- The image with two placement variants: one quad, and one row of two quads. -/
def jImg : List Word := (tImg.set 1 0xFFFF000202010200) ++ [0x0000000000020102, 0]
/-- A context of that image on the quads 0 and 1, or on quad 0. -/
def jCx (two : Bool) : Ctx :=
  { iCx with
    lau := { iCx.lau with image := jImg }, panel := some ⟨0, 0, 1, cond two 2 1, b2n two, 2, false⟩ }
def jS (v : Ctx) (f : Firing) : State :=
  { tS with
    cores := [{ tCore with cxs := [v] }], sel := some f }
theorem jImg_variants : (jCx true).quadsNow = 2 ∧ (jCx true).smaller 1 = some 0 ∧ (jCx true).smaller 0 = none ∧
    (variantRows jImg 1, variantCols jImg 1) = (1, 2) ∧ variantQuads jImg 0 = 1 := by decide
/-- Witness of TakeIns: the oldest instance asks, under each of the four conditions. -/
theorem witness_takein : ReadyE (jS (jCx true) (sF 1)) (ew 63 0) (sF 1) leftOnly ∧ (jS (jCx true) (sF 1)).keptOf (sF 1) = none ∧
    (jS (jCx true) (sF 1)).instOf (sF 1) = some tInst ∧ (jS (jCx true) (sF 1)).oldest (sF 1) = true ∧
    (jCx true).takePending = false :=
  ⟨⟨rfl, .inl rfl, dataOnly_of (by decide)⟩, by and_intros <;> decide⟩
theorem test_takein : sent (exec (.takein (ew 63 0)) (jS (jCx true) (sF 1))) = [(.data, .sc 0x100)] ∧
    sent (exec (.takein (ew 63 0)) (jS (jCx true) (sF 2))) = [(.data, .sc 0x202)] ∧
    sent (exec (.takein (ew 63 0)) (jS (jCx true) (sF 0))) = [(.data, .sc 0x201)] ∧
    sent (exec (.takein (ew 63 0)) (jS { jCx true with takeIn := some ⟨1, 0, true⟩ } (sF 1))) = [(.data, .sc 0x203)] := by decide
theorem test_takein_waits : pends (exec (.takein (ew 63 0)) (jS { jCx true with insts := [{ tInst with seq := 4 }, tInst] } (sF 1))) =
    [.held] := by decide

/-- A context with a take-in to `n` quads, nothing in flight, and the next block wanted. -/
def kCx (n : Nat) (two : Bool := true) : Ctx :=
  { jCx two with
    insts := [], want := some ⟨0, 0x77, 6, []⟩, takeIn := some ⟨n, 0, true⟩, ctl := { (jCx two).ctl with pending := true } }
def kS (n : Nat) (two : Bool := true) : State := jS (kCx n two) (sF 0)
theorem witness_take_in : (kS 1).savedBy 0 0 = false ∧ ((kS 0).discardTokens 0 0).quiescent 0 0 = true ∧
    (kS 0).partOfCore 0 = some 0 ∧ (kCx 0).movable = true := by decide
theorem test_take_in_moves : nextIs (exec (.takeIn 0 0) (kS 1)) (fun t => (t.cx 0 0).panel = some ⟨0, 0, 1, 1, 0, 2, true⟩ ∧
    (t.cx 0 0).takeIn = none ∧ (t.cx 0 0).ctl.pending = false) = true := by decide
theorem test_take_in_saves : nextIs (exec (.takeIn 0 0) (kS 0)) (fun t => (t.cx 0 0).phase = .free ∧
    (t.part 0).pool.map (fun e => (e.core, e.ctx, e.area, e.cx.want.map (·.seq))) = [(0, 0, [], some 6)]) = true := by decide
/-- A take-in of 4,096 cycles ago with an instance in flight. -/
def toS : State :=
  { tS with
    cores := [{ tCore with cxs := [{ kCx 1 with insts := [tInst], want := none }], cycle := 4096 }] }
theorem test_take_in_timeout : nextIs (exec (.takeInTimeout 0 0) toS) (fun t => (t.cx 0 0).insts = [] ∧
    (t.cx 0 0).want = some ⟨0, 0x77, 5, []⟩ ∧ (t.cx 0 0).takeIn = some ⟨1, 0, true⟩) = true := by decide
/-- A panel of one quad that may grow to two. -/
def grS (grows : Option TakeIn) : State := jS { kCx 2 false with takeIn := grows, ctl := iCx.ctl } (sF 0)
theorem witness_growth : (grS none).growTo 0 0 = some ⟨0, 0, 1, 2, 1, 2, false⟩ ∧ ((grS none).cx 0 0).takePending = false := by
  decide
theorem test_growth_begins : nextIs (exec (.panelGrowth 0 0) (grS none)) (fun t =>
    (t.cx 0 0).takeIn = some ⟨2, 0, false⟩ ∧ (t.cx 0 0).ctl.pending = true) = true := by decide
theorem test_growth_moves : nextIs (exec (.panelGrowth 0 0) (grS (some ⟨2, 0, false⟩))) (fun t =>
    (t.cx 0 0).panel = some ⟨0, 0, 1, 2, 1, 2, false⟩ ∧ (t.cx 0 0).takeIn = none) = true := by decide

/-- A privileged context 0 saves context 1, which has nothing in flight. -/
def svF : Firing := tF (.sc (paTok 0x4000)) (.sc 4096)
def svS (y : Ctx) (priv : Bool := true) (f : Firing := svF) : State :=
  { tS with
    cores := [{ tCore with cxs := [{ iCx with ctl := { iCx.ctl with priv } }, y] }], sel := some f }
def svCx : Ctx := { kCx 0 with takeIn := none, ctl := Ctl.reset, slots := [], sks := List.replicate 16 5 }
theorem witness_ctxsave : ReadyE (svS svCx) (ew 63 1 4) svF both ∧ (svS svCx).portTakes svF = true ∧
    ({ svS svCx with cores := [{ tCore with cxs := [tCx, svCx], ctags := tCore.ctags }] }).takeTag svF 4 = .free ∧
    ({ svS svCx with cores := [{ tCore with cxs := [{ tCx with ctl := Ctl.reset }, svCx] }] }).takeTag svF 4 = .noTag :=
  ⟨⟨rfl, .inl rfl, dataOnly_of (by decide)⟩, by decide, by decide, by decide⟩
/-- The status that a CTXSAVE of a context carries. -/
def svStatus (w : EWord) (s : State) : List Nat :=
  match exec (.ctxsave w) s with
  | .next t => (t.core 0).cmds.map (·.status)
  | _ => []
theorem test_ctxsave : svStatus (ew 63 1) (svS svCx) = [0] ∧ svStatus (ew 63 0) (svS svCx) = [2] ∧
    svStatus (ew 63 2) (svS svCx) = [1] ∧ svStatus (ew 63 1) (svS svCx false) = [3] ∧
    svStatus (ew 63 1) (svS { svCx with takeIn := some ⟨0, 0, true⟩ }) = [5] := by decide
theorem test_ctxsave_take_in : nextIs (exec (.ctxsave (ew 63 1)) (svS svCx)) (fun t =>
    (t.cx 0 1).takeIn = some ⟨0, 0, false⟩ ∧ (t.cx 0 1).ctl.pending = true) = true := by decide
def sv1 : State := after (exec (.ctxsave (ew 63 1)) (svS svCx))
def svImg : List Byte := (sv1.discardTokens 0 1).saveImage 0 1 0
theorem witness_ctxsave_completion : (sv1.cmd? 0 0).map (fun m => (m.status, m.orphan, m.f)) = some (0, false, svF) ∧
    sv1.portFull 0 (portOf 1) = false ∧ (sv1.discardTokens 0 1).quiescent 0 1 = true ∧ svImg.length ≤ 4096 := by decide
/-- The fixed parts of an image are 2,048 bytes, the live set of no field and no slot nothing (R354). -/
theorem saveImage_length : svImg.length = 2048 := by decide
theorem test_ctxsave_small : sent (exec (.ctxsaveCompletion 0 0) (after (exec (.ctxsave (ew 63 1))
    (svS svCx true (tF (.sc (paTok 0x4000)) (.sc 2047)))))) = [(.data, .sc 4)] := by decide
theorem witness_ctxrest : ReadyE (svS svCx true (sF (paTok 0x4000))) (ew 63 1) (sF (paTok 0x4000)) leftOnly :=
  ⟨rfl, .inl rfl, dataOnly_of (by decide)⟩
def rest (w : EWord) (s : State) : List (Kind × Val) := sent (exec (.ctxrestCompletion 0 0) (after (exec (.ctxrest w) s)))
theorem test_ctxrest_refused : rest (ew 63 0) (svS svCx true (sF (paTok 0x4000))) = [(.data, .sc 2)] ∧
    rest (ew 63 1) (svS svCx true (sF (paTok 0x4000))) = [(.data, .sc 1)] ∧
    rest (ew 63 1) (svS Ctx.reset false (sF (paTok 0x4000))) = [(.data, .sc 3)] := by decide
def svE : Saved :=
  { id := 0, core := 0, ctx := 1, area := [0x4000], cx := svCx, tags := [(4, ⟨.busy, none, .none, 1⟩)], recs := [], fregs := [],
    cmds := [], frame := [], fifoBytes := [], time := 0 }
/-- A state with that saved context, its image installed and context 1 free. -/
def reS (ms : List Cmd) : State :=
  { svS Ctx.reset with
    parts := [{ Part.reset with cores := 1, images := [⟨0, jImg, none, []⟩], pool := [svE] }],
    cores := [{ tCore with cxs := [{ iCx with ctl := { iCx.ctl with ctagmask := 0, priv := true } }, Ctx.reset], cmds := ms }] }
/-- The image of the saved context names it; it can be restored (R355). -/
theorem witness_restore : (reS []).savedOf 0 svImg = some svE ∧ ((reS []).restoreCtx 0 svE 0 1).isSome = true ∧
    (reS []).roomFor 0 [] = true ∧ (reS []).savedOf 0 (List.replicate 2048 0) = none := by decide
theorem test_restore : (match (reS []).restoreCtx 0 svE 0 1 with
    | some t => ((t.cx 0 1).phase, (t.cx 0 1).want, (t.part 0).pool.length)
    | none => (.free, none, 9)) = (.running, some ⟨0, 0x2000000000000077, 6, []⟩, 0) := by decide
/-- The image of context 1 at 0x4000 (R354), with zeros for all but its header and sk0, without its pool entry, read by context 0. -/
def riS : State :=
  { reS [] with
    parts := [{ Part.reset with cores := 1, images := [⟨0, jImg, none, []⟩] }],
    mem := [⟨0x4000, 0x72⟩, ⟨0x4001, 0x0D⟩, ⟨0x4002, 0x7E⟩, ⟨0x4003, 0x5A⟩, ⟨0x4004, 1⟩, ⟨0x4006, 1⟩, ⟨0x400C, 2⟩, ⟨0x400D, 2⟩,
      ⟨0x4010, 6⟩, ⟨0x4018, 0x77⟩, ⟨0x4100, 5⟩], sel := some (sF (paTok 0x4000)) }
theorem witness_ctxrest_image : bytesNat (Memory.read riS.mem 0x4000 16) 0 4 = 0x5A7E0D72 ∧
    bytesNat (Memory.read riS.mem 0x4000 16) 4 2 = 1 ∧ ((riS.part 0).installed (bytesNat (Memory.read riS.mem 0x4000 16) 8 2)).isSome = true ∧
    imageNeeds jImg svImg = 2048 ∧ imageReads jImg = imgNfields jImg + (inList jImg).length + 2 := by and_intros <;> decide
/-- A NETSEND of the saved context, under context number 8. -/
def svCmd : Cmd := { mkCmd (.netsend (ew 40 0 4)) { sF 0 with ctx := 8 } 40 (some 4) 1 with st := .accepted }
theorem test_saved_command : nextIs (exec (.savedCommandCompletion 0 0 0 2) (reS [svCmd])) (fun t => (t.core 0).cmds = [] ∧
    (t.part 0).pool.map (fun e => e.tags.map fun g => (g.1, g.2.st)) = [[(4, .done)]]) = true := by decide
/-- Context 0 restores context 1 from that image: every premise of SavesAndRestores for it. -/
def ri1 : State := after (exec (.ctxrest (ew 63 1)) riS)
def riV : List Nat := vasIf (paTok 0x4000).toNat 64 2048
theorem witness_ctxrest_read : ((ri1.cmd? 0 0).map fun m => (m.i, m.orphan, m.scope, m.f.ctx)) = some (.ctxrest (ew 63 1), false, 3, 0) ∧
    (ri1.core 0).cache = [] ∧ (ri1.cx 0 1).phase = .free ∧ (ri1.cx 0 0).ctl.priv = true ∧ ri1.walkStalls 0 riV = false ∧
    (((ri1.fillTlb 0 riV).check 0 .island (paTok 0x4000).toNat 2048 64).toOption.map fun l =>
      (l.length, (ri1.fillTlb 0 riV).linkDown 0 l)) = some (2048, false) := by decide
theorem test_ctxrest_image : nextIs (exec (.ctxrestCompletion 0 0) ri1) (fun t => (t.cx 0 1).phase = .running ∧
    (t.cx 0 1).sks = 5 :: List.replicate 15 0 ∧ (t.core 0).cmds = []) = true := by decide +kernel

/-! ## Launch records, dispatch (R55, R358-R371, R395) -/

/-- A lone launch record of one quad (R358). -/
def recBytes (handle quads tags key : Nat) (flags : Nat := 0) : List Byte :=
  natBytes 2 handle ++ natBytes 1 0 ++ natBytes 1 quads ++ natBytes 1 flags ++ natBytes 3 0 ++ natBytes 8 key ++ natBytes 8 tags ++
    List.replicate 104 0
def qQueue (units : List QUnit) : Queue := { Queue.reset with cores := 1, enabled := true, units }
/-- A partition of core 0 and control core 2 with image 0 installed, one queue, and a record in memory. -/
def qS (b : List Byte) (units : List QUnit := []) (f : Firing := sF (paTok 0x1000)) : State :=
  { fire f with
    mem := place 0x1000 b |>.foldl (fun m x => m.put x.1 x.2) [],
    parts := [{ Part.reset with
      cores := 1, owner := 4, images := [⟨0, vImg, none, []⟩], queues := [qQueue units], wdraw := List.replicate 8 0 }] }
/-- Witness of Launches: a record that is accepted, and one for each other status. -/
theorem witness_recStatus : (qS []).recStatus 0 0 false (recBytes 0 1 0xF 9) = 0 ∧
    (qS []).recStatus 0 0 false (recBytes 7 1 0xF 9) = 1 ∧ (qS []).recStatus 0 0 false (recBytes 0 3 0xF 9) = 2 ∧
    (qS []).recStatus 0 0 false (recBytes 0 1 0xF 9 1) = 4 ∧ (qS []).recStatus 0 1 false (recBytes 0 1 0xF 9) = 5 ∧
    (qS [] [⟨List.replicate 256 (recOf (recBytes 0 1 0 0)), 0⟩]).recStatus 0 0 false (recBytes 0 1 0xF 9) = 3 := by decide
theorem witness_launch : ReadyE (qS []) (ew 63 0) (sF (paTok 0x1000)) leftOnly ∧ (qS []).portTakes (sF (paTok 0x1000)) = true ∧
    (qS []).walkStalls 0 (vasIf (paTok 0x1000).toNat 64 128) = false ∧
    (((qS []).fillTlb 0 (vasIf (paTok 0x1000).toNat 64 128)).check 0 .island (paTok 0x1000).toNat 128 64).toOption.map List.length = some 128 ∧
    ((qS []).part 0).releasing 0 = false :=
  ⟨⟨rfl, .inl rfl, dataOnly_of (by decide)⟩, by decide, by decide, by decide, by decide⟩
def lau1 (b : List Byte) : State := after (exec (.launch (ew 63 0)) (qS b))
theorem test_launch : pends (exec (.launch (ew 63 0)) (qS [])) = [.load ((List.range 128).map (0x1000 + ·)) []] := by decide
theorem test_launch_reserve : sent (exec (.launchReserve 0 0 0) (lau1 (recBytes 0 1 0xF 9))) = [(.data, .sc 0)] ∧
    nextIs (exec (.launchReserve 0 0 0) (lau1 (recBytes 0 1 0xF 9))) (fun t =>
      ((t.part 0).queue 0).resv.map (fun r => (r.1.tags, r.1.key, r.2)) = [(0xF, 9, ⟨0, 0, false, 5⟩)]) = true ∧
    sent (exec (.launchReserve 0 0 0) (lau1 (recBytes 7 1 0xF 9))) = [(.data, .sc 1)] := by decide
theorem witness_launch_reserve : (lau1 []).heldBack (sF (paTok 0x1000)) 0 = false ∧
    (lau1 []).linkDown 0 ((List.range 128).map (0x1000 + ·)) = false ∧ (lau1 []).partOfCore 0 = some 0 ∧
    (lau1 []).instOf (sF (paTok 0x1000)) = some tInst ∧ (lau1 []).entryWaits (sF (paTok 0x1000)) = false ∧
    (∀ j < 128, (lau1 []).badIsland 0 (0x1000 + j) = false) ∧ ((lau1 []).core 0).cache = [] := by decide
/-- A LAUNCH that fires after its instance has committed enters its record at once (R365, R368). -/
def lauLeft : State :=
  let s := lau1 (recBytes 0 1 0xF 9)
  s.setCx 0 0 { s.cx 0 0 with insts := [{ tInst with seq := 6 }] }
theorem test_launch_left : lauLeft.instOf (sF (paTok 0x1000)) = none ∧
    nextIs (exec (.launchReserve 0 0 0) lauLeft) (fun t => ((t.part 0).queue 0).resv = [] ∧
      ((t.part 0).queue 0).units.map (fun u => u.recs.map (·.key)) = [[9]]) = true := by decide
theorem witness_qDoor : (qS []).ccOwns 2 0 = true ∧ ((qS []).part 0).queues.length = 1 ∧
    2 < (((qS []).part 0).queue 0).door.length ∧ ((List.range 128).all fun j => (qS []).owned 0 (0x1000 + j)) = true := by decide
theorem test_q_door : nextIs (exec (.qDoor 2 0 0 0x1000) (qS (recBytes 0 1 0xF 9))) (fun t =>
    ((t.part 0).queue 0).door[2]? = some 0 ∧ ((t.part 0).queue 0).units.map (·.recs.length) = [1]) = true := by decide
/-- A context that was launched with key 9, and a queue that holds two records with it and one without. -/
def wdS (f : Firing) : State :=
  let s := qS [] [⟨[recOf (recBytes 0 1 0xF 9)], 0⟩, ⟨[recOf (recBytes 0 1 0xF 8)], 0⟩, ⟨[recOf (recBytes 0 1 0xF 9)], 0⟩] f
  { s with cores := [{ tCore with cxs := [{ tCx with lau := { tCx.lau with key := 9 } }] }] }
theorem witness_withdraw : ReadyE (wdS (sF 9)) (ew 63 0) (sF 9) leftOnly ∧ (wdS (sF 9)).keptOf (sF 9) = none ∧
    (wdS (sF 9)).oldest (sF 9) = true ∧ ((wdS (sF 9)).part 0).pool = [] ∧ (wdS (sF 9)).ccOwns 2 0 = true :=
  ⟨⟨rfl, .inl rfl, dataOnly_of (by decide)⟩, by and_intros <;> decide⟩
theorem test_withdraw : sent (exec (.withdraw (ew 63 0)) (wdS (sF 9))) = [(.data, .sc 0x100000002)] ∧
    sent (exec (.withdraw (ew 63 0)) (wdS (sF 0))) = [(.data, .sc 0)] ∧
    nextIs (exec (.withdraw (ew 63 0)) (wdS (sF 9))) (fun t => (t.cx 0 0).ctl.cancel = true ∧
      ((t.part 0).queue 0).units.map (fun u => u.recs.map (·.key)) = [[8]]) = true := by decide
theorem test_part_wdraw : nextIs (exec (.partWdraw 2 0 9) (wdS (sF 0))) (fun t =>
    (t.part 0).wdraw[2]? = some 0x100000002) = true := by decide
/-- Queue pair 0 is ready to receive and carries network commands for partition 0 (R394). -/
def qNet : State := { wdS (sF 0) with qps := [⟨0, 0x1802, 0, 0, 0, 0⟩] }
def netCmd (op q : Nat) (b : List Byte) : List Byte := natBytes 1 op ++ natBytes 1 q ++ natBytes 6 0 ++ b
/-- The replies on the network: op and value. -/
def replies (o : Out) : List (Nat × Nat) :=
  match o with
  | .next t => t.netTx.map fun m => (bytesNat m.data 0 8, bytesNat m.data 8 8)
  | _ => []
theorem witness_net_command : (qNet.qp 0).commands = true ∧ (qNet.qp 0).part = 0 ∧
    netForm (netCmd 1 0 (recBytes 0 1 0xF 9)) 136 = true ∧ netForm (netCmd 2 0 (natBytes 8 9)) 16 = true ∧
    netForm (netCmd 2 0 []) 16 = false := by decide
theorem test_net_commands : replies (exec (.netLaunch 0 (netCmd 1 0 (recBytes 0 1 0xF 9))) qNet) = [(1, 0)] ∧
    replies (exec (.netLaunch 0 (netCmd 1 0 (recBytes 0 1 0xF 9 1))) qNet) = [(1, 4)] ∧
    replies (exec (.netLaunch 0 (netCmd 1 0 [])) qNet) = [(1, 2)] ∧
    replies (exec (.netWithdraw 0 (netCmd 2 0 (natBytes 8 9))) qNet) = [(2, 0x100000002)] ∧
    replies (exec (.netWithdraw 0 (netCmd 2 0 [])) qNet) = [(2, 2)] ∧
    replies (exec (.netBadOp 0 (netCmd 3 0 [])) qNet) = [(3, 2)] := by decide

/-- The package with a record at the head of queue 0. -/
def dsp : State :=
  { qS [] [⟨[recOf (recBytes 0 1 0xF 9)], 0⟩] with
    cores := List.replicate 72 { Core.reset with elems := List.replicate 64 Elem.reset } }
theorem witness_dispatch : dsp.cores.length = 72 ∧ (dsp.candidates 0).map (fun a => (a.e, a.q)) = [(0, 0)] ∧
    ((dsp.part 0).installed 0).isSome = true ∧ ((dsp.part 0).queue 0).waiting = [] ∧
    (dsp.tryCand 0 [] (.unit 0 ⟨[recOf (recBytes 0 1 0xF 9)], 0⟩)).isSome = true := by decide
theorem test_dispatch : nextIs (exec (.dispatch 0) dsp) (fun t => (t.cx 0 0).phase = .running ∧ (t.cx 0 0).want = some ⟨0, 0, 0, []⟩ ∧
    (t.cx 0 0).ctl.ctagmask = 0xF ∧ (t.cx 0 0).lau.key = 9 ∧ (t.cx 0 0).cgen = 1 ∧
    (t.cx 0 0).panel = some ⟨0, 0, 1, 1, 0, 1, false⟩ ∧ ((t.part 0).queue 0).units = []) = true := by decide
/-- Every context of core 0 is in use, the second may be pre-empted, and the record has priority 1. -/
def pre : State :=
  let r := { recOf (recBytes 0 1 0xF 9) with prio := 1 }
  let v := { tCx with insts := [] }
  { qS [] [⟨[r], 0⟩] with
    cores := [{ tCore with cxs := (List.replicate 8 v).set 1 { v with lau := { v.lau with preempt := true } } }] }
theorem witness_preempt : (pre.candidates 0).length = 1 ∧
    (pre.tryCand 0 [] (.unit 0 ⟨[{ recOf (recBytes 0 1 0xF 9) with prio := 1 }], 0⟩)).isSome = false ∧
    pre.lacksCtx 0 (.unit 0 ⟨[{ recOf (recBytes 0 1 0xF 9) with prio := 1 }], 0⟩) = true ∧
    (pickVictim ((pre.ctxsOn [0]).filter fun e => e.2.2.victim 1)).map (fun e => (e.1, e.2.1)) = some (0, 1) := by decide
theorem test_preempt : nextIs (exec (.dispatch 0) pre) (fun t => (t.cx 0 1).takeIn = some ⟨0, 0, false⟩ ∧
    (t.cx 0 0).takeIn = none) = true := by decide
/-- A saved context of the resume list, whose core has context 1 free. -/
def rsm : State := { reS [] with parts := [{ (reS []).part 0 with pool := [{ svE with area := [] }] }] }
theorem witness_resume : (rsm.candidates 0).length = 1 ∧ (rsm.core 0).freeCtx? = some 1 ∧ (rsm.part 0).coreList = [0] ∧
    (rsm.restoreCtx 0 { svE with area := [] } 0 1).isSome = true := by decide
theorem test_resume : nextIs (exec (.resumeRestore 0) rsm) (fun t => (t.cx 0 1).phase = .running ∧
    (t.cx 0 1).sks = List.replicate 16 5 ∧ (t.part 0).pool = []) = true := by decide

/-! ## The fabric, elements, channels between cores (R42, R53, R59-R64, R334) -/

/-- A state whose fabric holds some tokens. -/
def fbS (l : List Flight) (e : Elem := Elem.reset) (v : Ctx := iCx) : State :=
  { tS with
    cores := [{ tCore with cxs := [v], fabric := l, elems := [Elem.reset, e] }] }
/-- A token of element 0 for instruction 3 of element 1, and one of an element that is not the same way. -/
def flL (v : Word) : Flight := ⟨0, 0, false, 5, .pos 1 3 .left, tTok .data (.sc v), none⟩
def fullE (n m : Nat) : Elem :=
  { Elem.reset with
    store := List.replicate n ⟨0, 9, .left, tTok .data (.sc 0), false, 5, 4, none, false⟩,
    ovf := List.replicate m ⟨0, 9, .left, tTok .data (.sc 0), false, 5, 6, some (0x8000, 0x8040), false⟩ }
/-- Witness of TokenArrivals: a token that may arrive, with an entry free, with the store full, and with both full. -/
theorem witness_arrival : (fbS [flL 7]).core 0 |>.fabric[0]? = some (flL 7) ∧
    (flL 7).out = none ∧ ((fbS [flL 7, flL 8]).core 0 |>.fabric.take 1).any ((fbS [flL 7, flL 8]).goesFirst 0 · (flL 8)) = true ∧
    (fbS [flL 7]).memOk ∧ (fullE 64 0).store.length = 64 ∧ (fullE 64 256).ovf.length = 256 ∧
    ((fbS [flL 7] (fullE 64 0)).core 0).ovfLines = some (0, 64) := by
  unfold State.memOk; and_intros <;> decide
/-- A token that stands in its output slot stays (R40). -/
theorem test_token_in_slot : nextIs (exec (.tokenArrival 0 0) (fbS [{ flL 7 with out := some 0 }])) (fun t =>
    (t.core 0).fabric.length = 1) = true := by decide
theorem test_token_arrival : nextIs (exec (.tokenArrival 0 0) (fbS [flL 7, flL 8] (fullE 2 0))) (fun t =>
    (t.core 0).fabric = [flL 8] ∧ ((t.elem 0 1).store.drop 2) = [⟨0, 3, .left, tTok .data (.sc 7), false, 5, 5, none, false⟩]) = true := by
  decide
/-- The second of two tokens of one way stays. -/
theorem test_token_order : nextIs (exec (.tokenArrival 0 1) (fbS [flL 7, flL 8])) (fun t => (t.core 0).fabric.length = 2) = true := by
  decide
theorem test_token_overflow : nextIs (exec (.tokenArrival 0 0) (fbS [flL 7] (fullE 64 1))) (fun t =>
      (t.elem 0 1).ovf.map (·.base) = [some (0x8000, 0x8040), some (0, 64)] ∧ t.mem.map (·.2) = [7]) = true ∧
    nextIs (exec (.tokenArrival 0 0) (fbS [flL 7] (fullE 64 256))) (fun t => (t.core 0).fabric.length = 1) = true := by decide
def flTo (d : Dest) (k : Kind) (v : Word) : Flight := ⟨0, 0, false, 5, d, tTok k (.sc v), none⟩
theorem test_token_write : nextIs (exec (.tokenArrival 0 0) (fbS [flTo (.write 0) .data 7])) (fun t =>
      (t.cx 0 0).insts.map (·.writes) = [[(0, tTok .data (.sc 7))]]) = true ∧
    nextIs (exec (.tokenArrival 0 0) (fbS [flTo (.chan 3 1000) .fault 0x8002])) (fun t =>
      (t.cx 0 0).insts.map (fun i => (i.marked, i.chans.length)) = [(some 0x8002, 1)]) = true := by decide
/-- ILLEGAL of a word without a valid target marks its instance; kind 8 and the word are in its record (R108). -/
theorem test_illegal : nextIs (exec (.illegal 0xFF9FFFF800000000) (iFire tInst)) (fun t =>
    (t.cx 0 0).insts.map (fun i => (i.marked.bind (t.record 0 0 ·)).map fun r => (r.kind, r.detail, r.index)) =
      [some (8, 0xFF9FFFF800000000, 3)]) = true := by decide
theorem witness_illegal : (iFire tInst).instOf (tFire none none none) = some tInst := by decide

/-- Its target stands where R70 lets it: not the right operand of an ADD with an immediate, nor any of a word of format X. -/
theorem test_illegal_target : illegalTarget tImg (blkAt tImg 0) 0 0 = .left 0 ∧ illegalTarget tImg (blkAt tImg 0) 0 1 = .none ∧
    illegalTarget tImg (blkAt tImg 0) 0x421FFFF800000000 0 = .none := by decide
/-- Context 0 with a reconfiguration that waits on element 1. -/
def rcS (e : Elem) : State := fbS [] { e with reconf := [⟨0, [(2, 0x55)], none⟩] }
theorem test_page_write : nextIs (exec (.managementPageWrite 2 0 1 0 2 0x55) { fbS [] with
    parts := [{ Part.reset with cores := 1, owner := 4 }] }) (fun t => (t.elem 0 1).reconf = [⟨0, [(2, 0x55)], none⟩]) = true ∧
    nextIs (exec (.managementPageWrite 3 0 1 0 2 0x55) { fbS [] with
      parts := [{ Part.reset with cores := 1, owner := 4 }] }) (fun t => (t.elem 0 1).reconf = []) = true := by decide
theorem test_reconfiguration : nextIs (exec (.reconfiguration 0 1 0) (rcS Elem.reset)) (fun t =>
      (t.elem 0 1).reconf = [] ∧ ((t.elem 0 1).pages.getD 0 []).take 4 = [0, 0, 0x55, 0]) = true ∧
    nextIs (exec (.reconfiguration 0 1 0) (rcS (fullE 1 0))) (fun t => (t.elem 0 1).reconf.length = 1) = true := by decide
/-- Context 1 has a HALT of block 0 on element 0, which is ready; context 0, present there, has nothing. -/
def swE : Elem := { Elem.reset with pages := List.replicate 8 [0x00803FF908000001, 0x421FFFF800000000] }
def swS : State :=
  { tS with
    cores := [{ tCore with
      cxs := [{ iCx with insts := [] }, { iCx with panel := some ⟨0, 0, 1, 1, 0, 1, false⟩ }], elems := [swE, Elem.reset] }] }
theorem witness_switch : swS.othersReady 0 0 = [1] ∧ swS.readyOn 0 0 0 = [] := by decide
theorem test_context_switch : nextIs (exec (.elementContextSwitch 0 0) swS) (fun t => (t.elem 0 0).present = 1) = true := by
  decide
def mstS : State := fbS [] { fullE 1 0 with stall := 65536 }
theorem witness_match_stall : (firstEnt (mstS.elem 0 1).all).map (·.slot) = some 9 ∧
    (iCx.strand iCx.ctl.inHandler) = [tInst] ∧ tInst.marked = none ∧ iCx.recTab = [] := by decide
theorem test_match_stall : nextIs (exec (.matchStall 0 1) mstS) (fun t => (t.elem 0 1).stall = 0 ∧
    (t.cx 0 0).insts.map (fun i => (i.marked.bind (t.record 0 0 ·)).map fun r => (r.kind, r.tag, r.index)) =
      [some (11, 0x77, 41)]) = true := by decide
/-- A FIFO with an entry in transit and 40 credits on their way back. -/
def ceS : State := iS { chCx with fifos := [{ chFifo with transit := [(.data, .sc 0xAB)], window := 1, credits := 40 }] }
theorem witness_channel_entry : ((ceS.cx 0 0).fifo 0).isSome = true ∧ ceS.chanStalls 0 0 0 = false := by decide
theorem test_channel_entry_arrival : nextIs (exec (.channelEntryArrival 0 0 0) ceS) (fun t =>
    ((t.cx 0 0).fifo 0).map (fun q => (q.ents, q.transit)) = some ([(.data, false)], []) ∧
    t.mem = [⟨frameAddr 0 0x100, 0xAB⟩]) = true := by decide
theorem test_seam_credit : nextIs (exec (.seamCredit 0 0 0) ceS) (fun t =>
    ((t.cx 0 0).fifo 0).map (fun q => (q.window, q.credits)) = some (33, 8)) = true := by decide

/-! ## Fetch, the bobbin, slots, commit (R36-R39, R47-R53) -/

/-- Context 0 wants block 1 under the tag 0x79 as instance 6, after a call. -/
def ftS : State :=
  { tS with
    cores := [{ tCore with cxs := [{ iCx with want := some ⟨1, 0x79, 6, [0]⟩ }], fetchLast := 7 }] }
theorem witness_fetch : (ftS.core 0).fetchLast = 7 ∧ ftS.fetchable 0 0 = none ∧
    (ftS.setCx 0 0 { ftS.cx 0 0 with insts := [] }).fetchable 0 0 = some ⟨1, 0x79, 6, [0]⟩ := by decide
theorem test_block_fetch : nextIs (exec (.blockFetch 0) (ftS.setCx 0 0 { ftS.cx 0 0 with insts := [] })) (fun t =>
    (t.core 0).fetchLast = 0 ∧ (t.cx 0 0).insts.map (fun i => (i.seq, i.blk, i.tag, i.links)) = [(6, 1, 0x79, [0])] ∧
    (t.cx 0 0).want = none ∧ (t.elem 0 0).reconf.map (fun r => (r.blk, (r.words.map (·.2)).take 2)) =
      [(some 1, [0x421FFFF800000000, 0])]) = true := by decide

/-- An instance whose exit waits for a value of field 1; the next value of the field is 9. -/
def bbE : Exit := ⟨3, false, some 1, 0x0800000000000000, [], some 1, false, none⟩
/-- With `live`, a token of element 0 still carries the value 9. -/
def bbS (wait : Nat) (live : Bool) : State :=
  let v : Ctx := { iCx with insts := [{ tInst with exit := some bbE }], bobNext := [0, 9, 0, 0, 0, 0, 0], bobWait := wait }
  let t : Ent := ⟨0, 3, .left, ⟨setTagField tImg bbE.tag 1 9, .data, .sc 0⟩, false, 4, 0, none, false⟩
  { tS with
    cores := [{ tCore with cxs := [v], elems := [{ Elem.reset with store := if live then [t] else [] }] }] }
theorem witness_bobbin : ((bbS 0 false).cx 0 0).waiter = some ({ tInst with exit := some bbE }, bbE, 1) ∧
    (bbS 0 false).throttles 0 0 1 = false ∧ (bbS 0 true).throttles 0 0 1 = true := by decide
theorem test_bobbin_allocation : nextIs (exec (.bobbinAllocation 0 0) (bbS 0 false)) (fun t =>
      (t.cx 0 0).bobNext.take 3 = [0, 10, 0] ∧ ((t.cx 0 0).want.map fun w => (w.blk, tagField tImg w.tag 1, w.seq)) =
        some (1, 9, 6)) = true ∧
    nextIs (exec (.bobbinAllocation 0 0) (bbS 0 true)) (fun t => (t.cx 0 0).want = none) = true := by decide
theorem test_tag_exhaust : nextIs (exec (.tagExhaust 0 0) (bbS 65536 true)) (fun t =>
      (t.cx 0 0).insts.map (fun i => (i.marked.bind (t.record 0 0 ·)).map fun r => (r.kind, r.detail)) = [some (10, 1)]) = true ∧
    nextIs (exec (.tagExhaust 0 0) (bbS 65535 true)) (fun t => (t.cx 0 0).insts.map (·.marked) = [none]) = true := by decide

/-- A frame at 0x40 whose slot 0 holds the scalar 0xAB. -/
def fsCx (insts : List Inst) : Ctx :=
  { iCx with fp := 0x40, slots := [⟨true, .data, false⟩, ⟨false, .data, false⟩], insts }
def fsS (insts : List Inst) : State := { iS (fsCx insts) with mem := [⟨frameAddr 0 0x40, 0xAB⟩] }
/-- Witness of SlotReads: the slot of the frame, one that an older instance is still to write, one that it has written. -/
theorem witness_slots : (fsS [tInst]).frameRead 0 0 tInst 0 = some (.data, .sc 0xAB) ∧
    (fsS [{ tInst with seq := 4 }, tInst]).frameRead 0 0 tInst 1 = none ∧
    (fsS [{ tInst with seq := 4, writes := [(0, tTok (.stop 0) (.sc 3))] }, tInst]).frameRead 0 0 tInst 1 = some ((.stop 0), .sc 3) ∧
    ((fsS [tInst]).cx 0 0).inst false 5 = some tInst := by decide
theorem test_frame_read : sent (exec (.frameRead 0 0 0 0) (fsS [tInst])) = [(.data, .sc 0xAB)] ∧
    nextIs (exec (.frameRead 0 0 0 0) (fsS [tInst])) (fun t => (t.cx 0 0).insts.map (·.reads) = [[0]]) = true := by decide
/-- The image with slot 0 channel-bound: the head of its FIFO is read. -/
def ciImg : List Word := (tImg.set 6 0x00000028000000C0).set 7 1
def ciS (ents : List (Kind × Bool)) : State :=
  { iS { iCx with lau := { iCx.lau with image := ciImg }, fifos := [{ chFifo with ents }] } with
    mem := [⟨frameAddr 0 0x100, 0xCD⟩] }
theorem witness_channel_read : inList ciImg = [0] ∧ (ciS [(.data, false)]).chanRead 0 0 tInst 0 = some (.data, .sc 0xCD) ∧
    (ciS []).chanRead 0 0 tInst 0 = none ∧
    (ciS []).slotAcquires 0 0 (rdDesc ciImg (blkAt ciImg 0) 0) = false := by decide
theorem test_channel_slot_read : sent (exec (.channelSlotRead 0 0 0 0) (ciS [(.data, false)])) = [(.data, .sc 0xCD)] ∧
    sent (exec (.channelSlotRead 0 0 0 0) (ciS [])) = [] ∧ sent (exec (.frameRead 0 0 0 0) (ciS [(.data, false)])) = [] := by decide
/-- The oldest instance with its write, its read and its exit done. -/
def okI (halt : Bool) : Inst :=
  { tInst with
    reads := [0], writes := [(0, tTok .data (.sc 0x1234))], exit := some ⟨1, true, if halt then none else some 1, 0x77, [], none, halt, none⟩ }
theorem witness_commit : (fsS [okI false]).commits 0 0 (okI false) = true ∧ (fsS [tInst]).commits 0 0 tInst = false ∧
    ((fsS [okI false]).cx 0 0).strand false = [okI false] := by decide
theorem test_commit_writes : nextIs (exec (.instanceCommit 0 0) (fsS [okI false])) (fun t => (t.cx 0 0).insts = [] ∧
    (t.cx 0 0).slots = [⟨true, .data, false⟩, ⟨true, .data, false⟩] ∧
    t.mem = [⟨frameAddr 0 0x40, 0xAB⟩, ⟨frameAddr 0 0x80, 0x34⟩, ⟨frameAddr 0 0x81, 0x12⟩]) = true := by decide
theorem test_commit_halt : nextIs (exec (.instanceCommit 0 0) (fsS [okI true])) (fun t => (t.cx 0 0).phase = .halting) = true := by
  decide
/-- An instance of block 1 with a buffered store and one effect due at its commit. -/
def poI (p : List Post) : Inst :=
  { tInst with
    blk := 1, stores := [⟨3, 0, [(0x1000, 0x5A)], [], [], [], .ctx, false, false, false⟩], post := p,
    exit := some ⟨0, true, some 1, 0x77, [], none, false, none⟩ }
def poS (p : List Post) : State := iS { iCx with insts := [poI p] }
theorem witness_no_fence : (((poS []).words 0 0 (poI [])).all fun w => match w.i with
    | .fence _ => false
    | _ => true) = true := by decide
theorem witness_reads_done : ReadsDone (poS []) 0 0 (poI []) := by
  refine ⟨by decide, fun w hw m hm => ?_⟩
  have := List.all_eq_true.1 witness_no_fence w hw
  rw [hm] at this
  cases this
theorem witness_only_stores : OnlyStores (poS []) 0 0 (poI []) ∧ MayCommit (poS []) 0 0 (poI []) ∧ Settled (poS []) 0 0 (poI []) := by
  refine ⟨⟨⟨witness_reads_done, ?_⟩, rfl, rfl, ?_⟩, ?_, witness_reads_done, ?_, ?_, ?_⟩
    <;> first | decide | (unfold MayCommit; decide)
/-- A store outside HBM and the capacity tier reaches its place at the commit. -/
def poT : Inst := { poI [] with stores := [⟨3, 0, [(padAddr 0 5, 0x5A)], [], [], [], .ctx, false, false, false⟩] }
theorem test_commit_stores : nextIs (exec (.instanceCommit 0 0) (poS [])) (fun t => t.mem = [⟨0x1000, 0x5A⟩] ∧
      (t.core 0).late = [] ∧ t.readStrand 0 0x1000 = 0x5A) = true ∧
    nextIs (exec (.instanceCommit 0 0) (iS { iCx with insts := [poT] })) (fun t =>
      t.mem = [⟨padAddr 0 5, 0x5A⟩] ∧ (t.core 0).late = []) = true := by and_intros <;> decide
theorem test_commit_posts : nextIs (exec (.instanceCommit 0 0) (poS [.setc 6 9])) (fun t => (t.cx 0 0).ctl.hintdrop = 9) = true ∧
    nextIs (exec (.instanceCommit 0 0) (poS [.sk 2 7])) (fun t => (t.cx 0 0).sks.getD 2 0 = 7) = true ∧
    nextIs (exec (.instanceCommit 0 0) (poS [.takeIn 1])) (fun t => (t.cx 0 0).takeIn = some ⟨1, 0, true⟩) = true ∧
    nextIs (exec (.instanceCommit 0 0) (poS [.specfb])) (fun t => (t.cx 0 0).ctl.specfb = 1) = true := by decide
/-- Of the instance before, which has committed, a load, which acquires or not, is still to be performed, and its store releases or
not: an acquire holds either store up, a plain load a release only (R148, R149). -/
def waI (rel : Bool) : Inst :=
  { poI [] with stores := [⟨3, 1, [(0x1000, 0x5A)], [], [], [], .core, rel, false, false⟩] }
def waS (acq rel : Bool) : State :=
  iS { iCx with
    insts := [waI rel],
    pend := [⟨.ld (mw .s32 .b32 (b2n acq)), { tFire none none none with seq := 4 }, .load [0x2000, 0x2001, 0x2002, 0x2003] [], 0⟩] }
theorem witness_commit_waits : MayCommit (waS true false) 0 0 (waI false) ∧ MayCommit (waS false true) 0 0 (waI true) ∧
    (waS true false).acquiresToCome (wholeOf 0 0 (waI false) 1000) 2 = true ∧
    (waS false true).returnsWait (wholeOf 0 0 (waI true) 1000) 2 = true ∧
    (waS false false).returnsWait (wholeOf 0 0 (waI false) 1000) 2 = true := by
  refine ⟨?_, ?_, ?_⟩ <;> first | decide | (unfold MayCommit; decide)
def begun (o : Out) : List Bool :=
  match o with
  | .next t => (t.cx 0 0).insts.map (·.begun)
  | _ => []
theorem test_commit_waits : begun (exec (.instanceCommit 0 0) (waS true false)) = [true] ∧
    begun (exec (.instanceCommit 0 0) (waS false true)) = [true] ∧
    begun (exec (.instanceCommit 0 0) (waS false false)) = [] := by decide

/-! ## Endings, page-ins, resumes, shootdowns (R132, R159, R252, R340-R343, R372, R376, R391) -/

/-- A partition of core 0 whose owner is control core 2. -/
def enS (k : Core) (p : Part := Part.reset) : State :=
  { State.reset with
    cores := [k], parts := [{ p with cores := 1, owner := 4 }] }
def ceCx : Ctx := { iCx with phase := .halting, insts := [], cgen := 3, ctl := { iCx.ctl with ctagmask := 1 } }
def ceCore : Core := { tCore with cxs := [ceCx], ctags := tCore.ctags.set 0 ⟨.done, none, .none, 0⟩, fabric := [flL 1] }
theorem test_context_end : nextIs (exec (.contextEnd 0 0) (enS ceCore)) (fun t => (t.cx 0 0).phase = .free ∧ (t.cx 0 0).cgen = 3 ∧
    (t.core 0).fabric = [] ∧ ((t.core 0).ctag 0).st = .free) = true := by decide
/-- Witness of Endings: a halting context without work left, a resident one, an owner and another control core. -/
theorem witness_endings : ((enS ceCore).cx 0 0).phase = .halting ∧ (ceCore.cmds = [] ∧ ceCx.pend = [] ∧ ceCore.scaleFlights = []) ∧
    (enS ceCore).ccOwns 2 0 = true ∧ (enS ceCore).ccOwns 3 0 = false ∧ (enS ceCore).partOfCore 0 = some 0 ∧
    ((enS ceCore).part 0).resetBusy = false ∧ ((enS ceCore).part 0).pool = [] ∧
    bit ceCx.ctl.ctagmask 0 = true ∧ ceCx.ctl.ctagmask = 1 ∧ ceCore.cxs.length = 1 ∧ (enS tCore).partOfCore 0 = some 0 ∧
    ((enS tCore).cx 0 0).phase = .running ∧ (enS tCore).parts.length = 1 := by and_intros <;> decide
theorem test_part_kill : nextIs (exec (.partKill 2 0 0) (enS { tCore with fabric := [flL 1] })) (fun t => (t.cx 0 0).phase = .killed ∧
      (t.cx 0 0).insts = [] ∧ (t.core 0).fabric = []) = true ∧
    nextIs (exec (.partKill 3 0 0) (enS tCore)) (fun t => (t.cx 0 0).phase = .running ∧ (t.part 0).vlog.length = 1) = true := by
  decide
theorem test_part_reset_kills : nextIs (exec (.partReset 2 0 1) (enS tCore)) (fun t => (t.cx 0 0).phase = .killed ∧
    (t.part 0).resetBusy = true) = true := by decide
theorem test_part_reset_ends : nextIs (exec (.partReset 2 0 1) (enS { tCore with cxs := [], split := ⟨40, 8, 32, 16⟩ }
    { Part.reset with images := [⟨0, [], none, []⟩], lock := true })) (fun t => (t.part 0).resetBusy = false ∧
    (t.part 0).images = [] ∧ (t.part 0).lock = false ∧ (t.core 0).split = ⟨8, 40, 32, 16⟩) = true := by decide

/-- A record of kind 4 (MAJOR fault) in slot 2 of port 0, of context 0. -/
def piR (repair : Bool) (key : Option (Nat × Nat × Nat × Nat)) : RSlot :=
  ⟨0, 2, 0, 1, key, { mRec with kind := 4, addr := 0xABCD, cgen := 3, node := 0, repair }⟩
def piS (repair : Bool) (key : Option (Nat × Nat × Nat × Nat)) (head : Nat := 1) : State :=
  enS { tCore with rbuf := [piR repair key], cxs := [{ iCx with ctl := { iCx.ctl with rpend := 2 } }] }
    { Part.reset with preq := 0x2000, phead := head }
theorem witness_page_in : ((piS false none).core 0).rbuf.find? (fun o => o.port == 0 && o.slot == 2) = some (piR false none) ∧
    (piS false none).partOfCore 0 = some 0 ∧ ((List.range 32).all fun j => (piS false none).inSize (0x2020 + j)) = true ∧
    ((piS false none).part 0).phead + 1 ≠ ((piS false none).part 0).ptail ∧
    ((piS false none 255).part 0).phead + 1 = 256 + ((piS false none 255).part 0).ptail := by and_intros <;> decide
theorem witness_page_in_settled : NoLate (piS false none) ((List.range 32).map (0x2020 + ·)) := by
  intro o ho l hl
  simp only [piS, enS, List.mem_singleton] at ho
  subst ho
  cases hl
/-- A reply: of a record, of none. -/
theorem witness_reply : ((piS false (some (0, 0, 0, 2))).replyTo 0 0 0 3 0 2).isSome = true ∧
    (piS false none).replyTo 0 0 0 3 0 2 = none := by decide
/-- Key: core 0, context 0, incarnation 3, port 0, slot 2, source 1. -/
theorem test_page_in_request : nextIs (exec (.pageInRequest 0 0 2) (piS false none)) (fun t => (t.part 0).phead = 2 ∧
      Memory.read t.mem 0x2020 8 = [0, 0, 3, 0x40, 0, 0x10, 0, 0] ∧ Memory.read t.mem 0x2028 3 = [0xCD, 0xAB, 0]) = true ∧
    nextIs (exec (.pageInRequest 0 0 2) (piS false none 255)) (fun t => t.mem = []) = true := by decide
theorem test_part_preq : nextIs (exec (.partPreq 2 0 0x4000) (piS false none)) (fun t =>
    (t.part 0).preq = 0x4000 ∧ (t.part 0).phead = 0) = true := by decide
/-- A reply for that key: cgen 3 in bits 23:16, slot 2 in bits 33:29, status in bit 40. -/
def rpV (status : Word) : Word := 0x0000000040030000 + status * 0x10000000000
theorem test_part_reply : nextIs (exec (.partReply 2 0 (rpV 1)) (piS false (some (0, 0, 0, 2)))) (fun t =>
      (t.core 0).rbuf.map (fun r => (r.fr.repaired, r.fr.refused)) = [(true, true)]) = true ∧
    nextIs (exec (.partReply 2 0 (rpV 0)) (piS true (some (0, 0, 0, 2)))) (fun t => (t.core 0).rbuf = [] ∧
      (t.cx 0 0).ctl.rpend = 1) = true := by decide
/-- Node 0 is frozen for context 0 by record 2, an access of an LD. -/
def frR : FRec := { mRec with kind := 4, frozen := true, node := 0 }
def frQ : Pend := ⟨.ld (mw .s32 .b32), { mF with elem := 0 }, .frozen 0, 0⟩
def frS (r : FRec) : State :=
  enS { tCore with
    cxs := [{ tCx with pend := [frQ] }], rbuf := [⟨0, 2, 0, 1, none, r⟩], fregs := [⟨0, 0, 2, r, 0⟩], frozen := [(0, 0)] }
theorem witness_resume_node : (frS frR).frozenReg 0 0 0 = some ⟨0, 0, 2, frR, 0⟩ ∧ (frS frR).ccOwnsCore 2 0 = true ∧
    (frS frR).ccOwnsCore 3 0 = false ∧ ((frS frR).cx 0 0).pend.filter (·.frozenAt 0) = [frQ] ∧ frQ.f.core = 0 ∧
    (frS frR).record 0 0 2 = some frR := by decide
/-- Address 0 has no translation yet; a physical-address token needs none. -/
def frOk : FRec := { frR with addr := paTok 0x1000 }
theorem witness_recheck : (frS frR).recheck 0 0 2 frR = false ∧ (frS frOk).record 0 0 2 = some frOk ∧
    (frS frOk).recheck 0 0 2 frOk = true ∧
    ([AKind.load, .store, .atomic, .probe].all fun k => errCode ((frS frR).check 0 k 0 1 1) == some 4) = true ∧
    ([AKind.load, .store, .atomic, .probe].all fun k => errCode ((frS frOk).check 0 k (paTok 0x1000).toNat 1 1) == none) = true := by
  and_intros <;> decide
theorem test_resume_retry : nextIs (exec (.resumeRetry 2 0 0 0) (frS frOk)) (fun t => t.isFrozen 0 0 0 = false ∧ (t.core 0).rbuf = [] ∧
    t.agenda = [.retry 0 0 0] ∧ (t.cx 0 0).pend.map (·.st) = [.held]) = true ∧
    nextIs (exec (.resumeRetry 2 0 0 0) (frS frR)) (fun t => t.isFrozen 0 0 0 = true ∧ t.agenda = []) = true := by
  and_intros <;> decide
/-- A COLL that waits frozen at port 40 takes FAULT as the mark of its completion tag. -/
def frM : Cmd := { mkCmd (.coll (ew 40 3 5)) frQ.f 40 (some 5) 3 with frozen := true }
def frC : State :=
  enS { tCore with
    cxs := [tCx], rbuf := [⟨0, 2, 0, 1, none, frR⟩], fregs := [⟨40, 0, 2, { frR with node := 40 }, 0⟩], frozen := [(40, 0)],
    ctags := tCore.ctags.set 5 ⟨.busy, none, .none, 3⟩, cmds := [frM] }
theorem witness_resume_coll : (frC.frozenReg 0 0 40).isSome = true ∧ frC.ccOwnsCore 2 0 = true ∧ (frC.core 0).cmds = [frM] ∧
    frM.f.ctx = 0 ∧ frM.port = 40 ∧ frM.orphan = false ∧ (frC.core 0).cache = [] ∧ frM.f.core = 0 ∧ (frC.core 0).ctags.length = 64 ∧
    (frC.cx 0 0).pend = [] := by decide
theorem test_resume_coll : nextIs (exec (.resumeTrap 2 0 0 40) frC) (fun t => ((t.core 0).ctag 5).st = .done ∧
    ((t.core 0).ctag 5).mark = .fault 2 ∧ (t.core 0).cmds = [] ∧ (t.core 0).fabric.map (·.tok.val) = [.sc 0]) = true := by decide
theorem test_resume_trap : sent (exec (.resumeTrap 2 0 0 0) (frS frR)) = [(.fault, faultVal 2)] ∧
    nextIs (exec (.resumeTrap 2 0 0 0) (frS frR)) (fun t => (t.cx 0 0).pend = [] ∧ t.isFrozen 0 0 0 = false) = true := by decide

/-- A core with a translation of the page at 0x10000 to 0x50000, and a load that was checked under it. -/
def sdS (h : List Shoot) : State :=
  enS { tCore with
    tlb := [⟨0x10000, 0x10000, 0x50000, true⟩, ⟨0x40000, 0x10000, 0x60000, true⟩],
    cxs := [{ tCx with pend := [⟨.ld (mw .s32 .b32), mF, .load [0x50004] [], 0⟩] }] } { Part.reset with shoots := h }
theorem test_part_shoot : nextIs (exec (.partShoot 2 0 0x12340) (sdS [])) (fun t =>
      (t.part 0).shoots = [⟨0x10000, 0x10000, [0], [], []⟩]) = true ∧
    nextIs (exec (.partShoot 2 0 3) (sdS [])) (fun t => (t.part 0).shoots = [] ∧ (t.part 0).vlog.length = 1) = true := by decide
theorem test_shootdown : nextIs (exec (.shootdown 0) (sdS [⟨0x10000, 0x10000, [0], [], []⟩])) (fun t => (t.core 0).xgen = 1 ∧
    (t.core 0).tlb = [⟨0x40000, 0x10000, 0x60000, true⟩] ∧
    (t.part 0).shoots = [⟨0x10000, 0x10000, [], [(⟨0, 0, false, 5⟩, 3)], [(0, ⟨0x10000, 0x10000, 0x50000, true⟩)]⟩]) = true := by decide
/-- Witness of Shootdowns: no command holds a translation of the page, or a running one does; a next shootdown waits. -/
theorem witness_shootdown : (sdS [⟨0x10000, 0x10000, [0], [], []⟩]).streamHolds 0 0x10000 0x10000 = false ∧
    ((sdS []).core 0).late = [] ∧ ((sdS []).cx 0 0).pend[0]? = some ⟨.ld (mw .s32 .b32), mF, .load [0x50004] [], 0⟩ ∧
    (sdS []).ccOwns 2 0 = true ∧ (sdS []).ccOwns 3 0 = false ∧ (sdS []).cores.length = 1 := by and_intros <;> decide
/-- A CPYFILL to 0x12000 that runs: its core waits with the shootdown. -/
def sdHeld : State :=
  let s := sdS [⟨0x10000, 0x10000, [0], [], []⟩]
  s.setCore 0 { s.core 0 with cmds := ((strm2 (.cpyfill cw) fillD).core 0).cmds.map fun m =>
    { m with f := dF [(8, 8, 0x12000), (20, 4, 64), (24, 2, 1), (26, 2, 2), (37, 1, 1), (40, 8, 0xBEEF)] } }
theorem test_shootdown_waits : sdHeld.streamHolds 0 0x10000 0x10000 = true ∧
    nextIs (exec (.shootdown 0) sdHeld) (fun t => (t.part 0).shoots = [⟨0x10000, 0x10000, [0], [], []⟩]) = true := by
  and_intros <;> decide
theorem test_next_shoot : nextIs (exec (.shootdownComplete 0) (sdS [⟨0x10000, 0x10000, [], [], []⟩, ⟨0x40000, 0x10000, [], [], []⟩]))
    (fun t => (t.part 0).shoots = [⟨0x40000, 0x10000, [0], [], []⟩]) = true := by decide
theorem test_shootdown_complete : nextIs (exec (.shootdownComplete 0) (sdS [⟨0x10000, 0x10000, [], [], []⟩])) (fun t =>
      (t.part 0).shoots = []) = true ∧
    nextIs (exec (.shootdownComplete 0) (sdS [⟨0x10000, 0x10000, [], [(⟨0, 0, false, 5⟩, 3)], []⟩])) (fun t =>
      (t.part 0).shoots.length = 1) = true := by decide
/-- CACHE holds a dirty byte of the page whose translation has gone: it is in memory when the shootdown has ended (R385). -/
def sdDirty : State :=
  let s := sdS [⟨0x10000, 0x10000, [], [], [(0, ⟨0x10000, 0x10000, 0x50000, true⟩)]⟩]
  s.setCore 0 { s.core 0 with cache := [⟨0x50000 / 64, List.replicate 64 7, 0x10, false, []⟩] }
theorem witness_gone : (∀ l ∈ sdDirty.links, l.failed = false) ∧ (sdDirty.part 0).shoots.map (fun h => h.gone.length) = [1] := by decide
theorem test_shootdown_settles : nextIs (exec (.shootdownComplete 0) sdDirty) (fun t => t.mem = [⟨0x50004, 7⟩] ∧
    (t.core 0).cache.all (fun l => l.dirty = 0) = true) = true := by decide

/-! ## Management, memory controllers, links, the device (R244, R322, R382-R401) -/

/-- Partition 0 of core 0 and core 1, partition 1 of core 2; control core 2 owns the first, control core 1 is an
administrator and owns the second. -/
def mgS : State :=
  { State.reset with
    cores := [{ tCore with cxs := [tCx] }, { tCore with cxs := [] }],
    parts := [{ Part.reset with cores := 3, owner := 4 }, { Part.reset with cores := 4, owner := 2 }],
    dev := { Dev.reset with admin := 2 } }
/-- Witness of ManagementRegisters: owners and others, a core that has a context and one that has none, an address
without a register. -/
theorem witness_management : mgS.ccOwns 2 0 = true ∧ mgS.ccOwns 1 0 = false ∧ (mgS.cx 0 0).phase = .running ∧
    (mgS.cx 1 0).phase = .free ∧ regAt 0x300000000080 = none ∧ regAt 0x300001000010 = some (.owner 0) ∧
    region 0x1000 = .hbm ∧ mgS.owned 0 0x1000 = true ∧ mgS.isBad 0x1000 = false := by decide
def coresAfter (o : Out) : Option (BitVec 72) :=
  match o with
  | .next t => some (t.part 0).cores
  | _ => none
theorem test_part_cores : coresAfter (exec (.partCoresWrite 2 0 0 9) mgS) = some 9 ∧
    coresAfter (exec (.partCoresWrite 2 0 1 0x80) mgS) = some 0x800000000000000003 ∧
    coresAfter (exec (.partCoresWrite 2 0 0 5) mgS) = some 3 ∧ coresAfter (exec (.partCoresWrite 2 0 0 2) mgS) = some 3 ∧
    coresAfter (exec (.partCoresWrite 1 0 0 9) mgS) = some 3 := by decide
theorem test_cx_rlim : nextIs (exec (.cxRlim 2 0 0 0x50003) mgS) (fun t => (t.cx 0 0).ctl.rlim = 0x50003) = true ∧
    nextIs (exec (.cxRlim 1 0 0 0x50003) mgS) (fun t => (t.cx 0 0).ctl.rlim = 0) = true := by decide
/-- A limiter of 3 tokens in 5 cycles, 5 cycles after its window began. -/
def rlS (now : Word) : State :=
  { tS with
    cores := [{ tCore with cycle := now, cxs := [{ tCx with ctl := { tCx.ctl with rlim := 0x50003 }, rlimUsed := 3, rlimStart := 7 }] }] }
theorem test_rate_window : nextIs (exec (.rateWindow 0 0) (rlS 12)) (fun t => (t.cx 0 0).rlimUsed = 0 ∧ (t.cx 0 0).rlimStart = 12) = true ∧
    nextIs (exec (.rateWindow 0 0) (rlS 11)) (fun t => (t.cx 0 0).rlimUsed = 3) = true := by decide
/-- A field of partition 0 after a step. -/
def part0 (o : Out) (p : Part → Bool) : Bool := nextIs o fun t => p (t.part 0)
theorem test_register_write : part0 (exec (.registerWrite 2 0x300001000010 0x105) mgS) (·.owner = 5) = true ∧
    part0 (exec (.registerWrite 2 0x300001000018 3) mgS) (·.lock) = true ∧
    part0 (exec (.registerWrite 2 0x300001000030 0x00ABCDEF12345678) mgS) (·.ttb = 0xBCDEF12345600) = true ∧
    part0 (exec (.registerWrite 2 0x300001000070 9) mgS) (·.ptail = 9) = true ∧
    part0 (exec (.registerWrite 2 0x300001000050 9) mgS) (·.flogIdx = 0) = true ∧
    part0 (exec (.registerWrite 2 0x300001000010 0) { mgS with parts := [{ mgS.part 0 with owner := 8 }] }) (·.owner = 8) = true := by
  decide
theorem test_queue_write : part0 (exec (.registerWrite 2 0x300001000150 1) { mgS with
    parts := [{ mgS.part 0 with queues := List.replicate 16 Queue.reset }] }) (fun v => (v.queue 2).enabled) = true := by decide
def cmS : State := { mgS with mem := [⟨0x1000, 0xF0⟩, ⟨0x1001, 0xFF⟩] }
theorem test_control_core : nextIs (exec (.controlCoreAccess 2 0 0x1000 (.add [0x20, 0])) cmS) (fun t =>
      t.mem = [⟨0x1000, 0x10⟩] ∧ t.ccOut[2]? = some [0xF0, 0xFF]) = true ∧
    nextIs (exec (.controlCoreAccess 2 0 0x1000 (.xor [0xFF])) cmS) (fun t => t.mem = [⟨0x1000, 0x0F⟩, ⟨0x1001, 0xFF⟩]) = true ∧
    nextIs (exec (.controlCoreAccess 2 0 0x1000 (.store [7])) cmS) (fun t => t.ccOut[2]? = some []) = true ∧
    nextIs (exec (.controlCoreAccess 1 0 0x1000 (.store [7])) cmS) (fun t => t.mem.length = 2 ∧ (t.part 0).vlog.length = 1) = true := by
  decide

/-- The access of a control core to 0x1000 with the reservation `r` of control core 2. -/
def ccAt (r : Option (Nat × Nat)) (op : CcOp) : Out :=
  execControlCoreAccess 2 0 0x1000 op { cmS with ccResv := cmS.ccResv.set 2 r }
theorem test_control_core_order :
    nextIs (ccAt none (.min [0x10, 0x00])) (fun t => t.mem = cmS.mem) = true ∧
    nextIs (ccAt none (.minu [0x10, 0x00])) (fun t => t.mem = [⟨0x1000, 0x10⟩]) = true ∧
    nextIs (ccAt none (.max [0x10, 0x00])) (fun t => t.mem = [⟨0x1000, 0x10⟩]) = true ∧
    nextIs (ccAt none (.maxu [0x10, 0x00])) (fun t => t.mem = cmS.mem) = true := by and_intros <;> decide
theorem test_control_core_pair :
    nextIs (ccAt none (.lr 2)) (fun t => t.ccOut[2]? = some [0xF0, 0xFF] ∧ t.ccResv[2]? = some (some (0x1000, 2))) = true ∧
    nextIs (ccAt (some (0x1000, 2)) (.sc [1, 2])) (fun t => t.ccOut[2]? = some [0] ∧ t.mem = [⟨0x1000, 1⟩, ⟨0x1001, 2⟩]) = true ∧
    nextIs (ccAt none (.sc [1, 2])) (fun t => t.ccOut[2]? = some [1] ∧ t.mem = cmS.mem) = true ∧
    nextIs (ccAt (some (0x1000, 2)) (.store [7])) (fun t => t.ccResv[2]? = some none) = true := by and_intros <;> decide
/-- A store that follows fence rw,w is a release at PKG of its byte, by no core (R327). -/
theorem test_control_core_release : nextIs (ccAt none (.rel (.store [7]))) (fun t => (0x1000, 3, 2) ∈ t.rels ∧
    t.mem = [⟨0x1000, 7⟩, ⟨0x1001, 0xFF⟩]) = true := by decide
theorem witness_control_core : 2 < cmS.ccOut.length ∧ 2 < cmS.ccResv.length ∧ NoLate cmS [0x1000, 0x1001] := by
  refine ⟨by decide, by decide, fun o ho l hl => ?_⟩
  simp only [cmS, mgS, List.mem_cons, List.not_mem_nil, or_false] at ho
  rcases ho with rfl | rfl <;> cases hl

/-- A memory controller that refreshes by rows, with threshold 2 and patrol scrub, and `n` errors counted for row 5. -/
def mcS (n : Nat) : State :=
  State.reset.setMc 0 { State.reset.mc 0 with cfg := 0x10201, counts := [(5, n)] }
theorem witness_mc : State.reset.mcs.length = 12 ∧ ((mcS 1).mc 0).threshold = 2 ∧ ((mcS 1).mc 0).multiRate = true ∧
    bit ((mcS 1).mc 0).cfg 16 = true ∧ ((mcS 2).mc 0).count 5 = 2 := by decide
theorem test_correctable_error : nextIs (exec (.correctableError 0 5) (mcS 0)) (fun t => (t.mc 0).cecnt = 1 ∧ (t.mc 0).count 5 = 1 ∧
    (t.mc 0).fast64 = []) = true ∧
    nextIs (exec (.correctableError 0 5) (mcS 1)) (fun t => (t.mc 0).count 5 = 2 ∧ (t.mc 0).due = []) = true := by decide
theorem test_patrol_scrub : nextIs (exec (.patrolScrub 0 5 true) (mcS 0)) (fun t => (t.mc 0).cecnt = 1) = true ∧
    nextIs (exec (.patrolScrub 0 5 false) (mcS 0)) (fun t => (t.mc 0).cecnt = 0) = true := by decide
theorem test_uncorrectable_error : nextIs (exec (.uncorrectableError 0x12345) State.reset) (fun t =>
    t.isBad 0x12340 = true ∧ t.isBad 0x12380 = false ∧ (t.mc (stackOf 0x12345)).due.map (·.frame) = [frameOf 0x12345] ∧
    t.mcInterrupt (stackOf 0x12345) = true) = true := by decide
theorem test_window_end : nextIs (exec (.errorWindowEnd 0) (mcS 2)) (fun t => (t.mc 0).counts = []) = true := by decide
theorem test_mc_due : nextIs (exec (.mcDue 3 0 1) (State.reset.setMc 0 { State.reset.mc 0 with due := [⟨4, 4, 1⟩, ⟨7, 7, 2⟩] })) (fun t =>
    (t.mc 0).due = [⟨7, 7, 2⟩] ∧ (t.mc 0).rlog = [⟨4, 4, 1⟩]) = true := by decide
theorem test_mc_cfg : nextIs (exec (.mcCfg 3 0 0x10301) { State.reset with dev := { Dev.reset with stage := 4 } }) (fun t =>
    (t.mc 0).threshold = 3 ∧ (t.mc 0).multiRate = false) = true ∧
    nextIs (exec (.mcCfg 3 0 0x10301) { State.reset with dev := { Dev.reset with stage := 0 } }) (fun t => (t.mc 0).multiRate = true) = true ∧
    nextIs (exec (.refreshRetry 0 3) State.reset) (fun t => t.mem = []) = true ∧
    nextIs (exec (.rowRefresh 0 3) State.reset) (fun t => t.mem = []) = true := by decide

theorem test_link : nextIs (exec (.linkFlitRetry 1) State.reset) (fun t => (t.link 1).retries = 1) = true ∧
    nextIs (exec (.linkFailure 1) State.reset) (fun t => (t.link 1).failed = true ∧
      nextIs (exec (.linkFlitRetry 1) t) (fun u => (u.link 1).retries = 0) = true) = true := by decide
theorem test_qp_cfg : nextIs (exec (.qpCfg 1 5 0x11803) mgS) (fun t => (t.qp 5).cfg = 0x11803) = true ∧
    nextIs (exec (.qpCfg 2 5 0x11803) mgS) (fun t => (t.qp 5).cfg = 0) = true ∧
    nextIs (exec (.qpCfg 1 5 0x11805) mgS) (fun t => (t.qp 5).cfg = 0) = true := by decide
/-- A manifest that cannot be read, one that is malformed. -/
def noManifest : Manifest := ⟨false, true, 9, [], [], [], [], [], [], [([5], [6])]⟩
theorem test_boot_fails : nextIs (exec (.boot noManifest) State.reset) (fun t => (t.dev.stage, t.dev.cause, t.dev.recovery) = (0, 5, true)) = true ∧
    nextIs (exec (.boot { noManifest with readable := true, wellFormed := false }) State.reset) (fun t => t.dev.cause = 6) = true := by
  decide
/-- One manifest is accepted or a signature fails: what the boot leaves is that of its cause. -/
theorem test_boot_version : ({ Dev.reset with arb := [0x3FF, 0, 0, 0] } : Dev).counter 0 = 10 := by decide
theorem witness_boot_accepted (m : Manifest) (hr : m.readable = true) (hw : m.wellFormed = true)
    (he : Manifest.edOk m = true) (hm : Manifest.mlOk m = true) (hv : 0 < m.version) : Dev.reset.bootFault m = none := by
  have h : ((List.range 4).any fun k => decide (m.version < Dev.reset.counter k)) = false := by
    have hz : ∀ k ∈ List.range 4, Dev.reset.counter k = 0 := by decide
    simp only [List.any_eq_false, decide_eq_true_eq]
    intro k hk; rw [hz k hk]; omega
  simp only [Dev.bootFault, hr, hw, he, hm, h]; rfl
/-- A row that the profiling puts into no filter is refreshed every 128 ms (R383). -/
theorem test_profile : ((State.reset.mc 0).profile ([], [])).interval 5 = 128 := by decide
theorem witness_boot : State.reset.dev.stage ≠ 4 ∧ State.reset.dev.recovery = false ∧
    (after (exec (.boot noManifest) State.reset)).dev.recovery = true := by decide
theorem test_recovery_frame : nextIs (exec (.networkRecoveryFrame { noManifest with readable := true, wellFormed := false })
    (after (exec (.boot noManifest) State.reset))) (fun t => t.dev.cause = 6) = true := by decide
theorem test_mg_arb : nextIs (exec (.mgArb 1 2 0x5) { mgS with dev := { mgS.dev with arb := [0, 0, 0x2, 0] } }) (fun t => t.dev.arb = [0, 0, 7, 0]) = true ∧
    nextIs (exec (.mgArb 2 2 0x5) mgS) (fun t => t.dev.arb = mgS.dev.arb) = true := by decide
theorem witness_attest : mgS.ccAdmin 1 = true ∧ mgS.ccReach 1 0x1000 = true := by decide
theorem test_mg_attest : nextIs (exec (.mgAttest 1 0xFF00000000000000) { mgS with dev := { mgS.dev with attErr := true } }) (fun t =>
      t.dev.attAddr = 0 ∧ t.dev.attBusy = true ∧ t.dev.attErr = false) = true ∧
    nextIs (exec (.mgAttest 2 0x1000) mgS) (fun t => t.dev.attBusy = false) = true := by decide
theorem test_mg_reset : nextIs (exec (.mgReset 1 0x0D72) { cmS with dev := { cmS.dev with arb := [1, 2, 3, 4], stage := 4 } }) (fun t =>
    t.mem = [] ∧ t.dev.arb = [1, 2, 3, 4] ∧ t.dev.stage = 0 ∧ (t.cx 0 0).phase = .free) = true := by decide
theorem test_power : nextIs (exec (.powerCapStep 4001) { State.reset with dev := { Dev.reset with mhz := 750 } }) (fun t => t.dev.mhz = 700 ∧ t.dev.capped = true) = true ∧
    nextIs (exec (.powerCapLift 100) { State.reset with dev := { Dev.reset with mhz := 700, capped := true } }) (fun t =>
      t.dev.mhz = 800 ∧ t.dev.capped = false) = true ∧
    nextIs (exec (.thermalStop 105) State.reset) (fun t => t.dev.thermal = true) = true ∧
    nextIs (exec (.thermalStop 100) State.reset) (fun t => t.dev.thermal = false ∧ t.dev.pwTj = 100) = true ∧
    nextIs (exec (.thermalRestart 94) { State.reset with dev := { Dev.reset with thermal := true } }) (fun t => t.dev.thermal = false) = true ∧
    nextIs (exec (.thermalRestart 95) { State.reset with dev := { Dev.reset with thermal := true } }) (fun t => t.dev.thermal = true) = true := by
  decide
/-- RFC 8032, section 7.1, test 1: the empty message. -/
def hexBytes (n v : Nat) : List Byte := (List.range n).map fun k => BitVec.ofNat 8 (v >>> (8 * (n - 1 - k)))
theorem test_ed25519 : ed25519Verifies (hexBytes 32 0xD75A980182B10AB7D54BFED3C964073A0EE172F3DAA62325AF021A68F707511A) []
    (hexBytes 64 0xE5564300C360AC729086E2CC806E828A84877F1EB8E5D974D873E065224901555FB8821590A33BACC61E39701CF9B46BD25BF5F0595BBE24655141438E7A100B) =
    true := by decide +kernel

/-! ## Words of the spec's assembler lines (R67-R77): each decodes to its instruction -/

theorem words_integer_and_moves :
    decodeWord 0x0081412908000008 = .ok (.add ⟨.always, .left 5, .right 9, .s64, 0, true, 0x8⟩) ∧
    decodeWord 0x07804FF988000004 = .ok (.movi ⟨.always, .left 1, .none, .z64, 0, true, 0x4⟩) ∧
    decodeWord 0x07008FF98C68ACF1 = .ok (.movhi ⟨.always, .left 2, .none, .z64, 0, true, 0x468acf1⟩) ∧
    decodeWord 0x02009FF9080002C8 = .ok (.bfext ⟨.always, .right 2, .none, .s64, 0, true, 0x2c8⟩) ∧
    decodeWord 0x02808FF98800C0E0 = .ok (.bfins ⟨.always, .left 2, .none, .z64, 0, true, 0xc0e0⟩) ∧
    decodeWord 0x200160D120000000 = .ok (.cmp ⟨.always, .pred 5, .pred 6, .s64, 2, false, 0x0⟩) ∧
    decodeWord 0x2180AFFA08000001 = .ok (.isstop ⟨.always, .pred 2, .none, .b64, 0, true, 0x1⟩) ∧
    decodeWord 0x2104E29200000000 = .ok (.isbub ⟨.always, .pred 19, .pred 20, .b64, 0, false, 0x0⟩) ∧
    decodeWord 0x2710706200000000 = .ok (.steer ⟨.always, .chan 1, .left 3, .b64, 0, false, 0x0⟩) ∧
    decodeWord 0x261138FA00000000 = .ok (.route ⟨.always, .chan 4, .chan 7, .b64, 0, false, 0x0⟩) ∧
    decodeWord 0xE500CFFA00000000 = .ok (.nop ⟨.always, .left 3, .none, .b64, 0, false, 0x0⟩) ∧
    decodeWord 0x45814FF988000001 = .ok (.tagwin ⟨.always, .left 5, .none, .z64, 0, true, 0x1⟩) := by
  decide
theorem words_exits :
    decodeWord 0x403FFFF8B8000013 = .ok (.br ⟨.onTrue, .plain, .pop, 7, 19⟩) ∧
    decodeWord 0x421FFFF800000000 = .ok (.halt ⟨.always, .plain, .none, 0, 0⟩) ∧
    decodeWord 0x429FFFF8B8000000 = .ok (.ret ⟨.always, .plain, .pop, 7, 0⟩) ∧
    decodeWord 0x411FFFFC48000006 = .ok (.call ⟨.always, .callEntry, .push, 1, 6⟩) := by
  decide
theorem words_float_and_vector :
    decodeWord 0x63003FFA80000000 = .ok (.fma ⟨.always, .write 0, .none, .f32, 0, false, 0x0⟩) ∧
    decodeWord 0x67008FFA8FFFFFFD = .ok (.fscale ⟨.always, .left 2, .none, .f32, 0, true, 0x7fffffd⟩) ∧
    decodeWord 0x62808FFC00000000 = .ok (.flog2 ⟨.always, .left 2, .none, .vf32, 0, false, 0x0⟩) ∧
    decodeWord 0x68030FFC00000000 = .ok (.fsub ⟨.always, .left 12, .none, .vf32, 0, false, 0x0⟩) ∧
    decodeWord 0x8000CFFCC0000000 = .ok (.cvt ⟨.always, .left 3, .none, .vbf16, 4, false, 0x0⟩) ∧
    decodeWord 0x80804FFC10000000 = .ok (.qscale ⟨.always, .left 1, .none, .vf32, 1, false, 0x0⟩) ∧
    decodeWord 0x8300CFFD88000000 = .ok (.vins ⟨.always, .left 3, .none, .vz32, 0, true, 0x0⟩) ∧
    decodeWord 0x87008FFD08000001 = .ok (.vslide ⟨.always, .left 2, .none, .vs32, 0, true, 0x1⟩) ∧
    decodeWord 0x85003FFC00000000 = .ok (.vrsum ⟨.always, .write 0, .none, .vf32, 0, false, 0x0⟩) ∧
    decodeWord 0x81011FFC08000000 = .ok (.vargmax ⟨.always, .right 4, .none, .vf32, 0, true, 0x0⟩) ∧
    decodeWord 0x82803FFD88000001 = .ok (.vextr ⟨.always, .write 0, .none, .vz32, 0, true, 0x1⟩) := by
  decide
theorem words_memory :
    decodeWord 0xA581C03990480004 = .ok (.ld ⟨.always, .left 7, .write 1, .z64, .b32, 1, .core, 0, 0x4⟩) ∧
    decodeWord 0xA81FFFF900480000 = .ok (.st ⟨.always, .none, .none, .s64, .b8, 1, .core, 0, 0x0⟩) ∧
    decodeWord 0xA91FFFFC394A0000 = .ok (.stx ⟨.always, .none, .none, .vf32, .e4m3, 5, .core, 1, 0x0⟩) ∧
    decodeWord 0xA382414198080000 = .ok (.atset ⟨.always, .left 9, .left 10, .z64, .b64, 0, .core, 0, 0x0⟩) ∧
    decodeWord 0xA100CFF998160008 = .ok (.acas ⟨.always, .left 3, .none, .z64, .b64, 0, .die, 3, 0x8⟩) ∧
    decodeWord 0xA500CFFA011C0000 = .ok (.fence ⟨.always, .left 3, .none, .b64, .b8, 4, .pkg, 2, 0x0⟩) ∧
    decodeWord 0xAA0100A180000000 = .ok (.xlat ⟨.always, .left 4, .left 5, .z64, 0, false, 0x0⟩) ∧
    decodeWord 0xA990FFFA00DC0000 = .ok (.widen ⟨.always, .chan 3, .none, .b64, .b8, 3, .pkg, 2, 0x0⟩) := by
  decide
theorem words_barriers_and_tags :
    decodeWord 0xC0829FFFE0000000 = .ok (.baradd ⟨.always, .right 10, .none, 63, 0, 0x0⟩) ∧
    decodeWord 0xC2008FFFE0000005 = .ok (.barwait ⟨.always, .left 2, .none, 63, 0, 0x5⟩) ∧
    decodeWord 0xCC018FFFE0000001 = .ok (.waitany ⟨.always, .left 6, .none, 63, 0, 0x1⟩) ∧
    decodeWord 0xC8810FFFE0000007 = .ok (.poolcut ⟨.always, .left 4, .none, 63, 0, 0x7⟩) ∧
    decodeWord 0xC900CFFFE4800000 = .ok (.poolmove ⟨.always, .left 3, .none, 63, 9, 0x0⟩) ∧
    decodeWord 0xC9808FFFE0000009 = .ok (.poolqry ⟨.always, .left 2, .none, 63, 0, 0x9⟩) := by
  decide
theorem words_engines :
    decodeWord 0xC6814FFC018003B9 = .ok (.mma ⟨.always, .left 5, .none, 32, 3, 0x3b9⟩) ∧
    decodeWord 0xC7014FFC01800CB9 = .ok (.mmas ⟨.always, .left 5, .none, 32, 3, 0xcb9⟩) ∧
    decodeWord 0xC0014FFC018003B9 = .ok (.attsc ⟨.always, .left 5, .none, 32, 3, 0x3b9⟩) ∧
    decodeWord 0xCA1FFFFC00000009 = .ok (.scld ⟨.always, .none, .none, 32, 0, 0x9⟩) ∧
    decodeWord 0xC380CFFC22800099 = .ok (.cpy ⟨.always, .left 3, .none, 33, 5, 0x99⟩) ∧
    decodeWord 0xC400CFFC22800001 = .ok (.cpyfill ⟨.always, .left 3, .none, 33, 5, 0x1⟩) ∧
    decodeWord 0xC49FFFFC23800011 = .ok (.cpyrot ⟨.always, .none, .none, 33, 7, 0x11⟩) ∧
    decodeWord 0xC63FFFFCC0800001 = .ok (.intsect ⟨.onTrue, .none, .none, 38, 1, 0x1⟩) ∧
    decodeWord 0xCA803FFCC0400000 = .ok (.spacc ⟨.always, .write 0, .none, 38, 0, 0x400000⟩) ∧
    decodeWord 0xCB01D12CC1400031 = .ok (.spflush ⟨.always, .right 7, .right 9, 38, 2, 0x400031⟩) ∧
    decodeWord 0xC58140C440000132 = .ok (.gath ⟨.always, .left 5, .left 6, 34, 0, 0x132⟩) ∧
    decodeWord 0xC3008FFD02000003 = .ok (.coll ⟨.always, .left 2, .none, 40, 4, 0x3⟩) ∧
    decodeWord 0xC81FFFFD03000004 = .ok (.netsend ⟨.always, .none, .none, 40, 6, 0x4⟩) ∧
    decodeWord 0xC7810FFD03800004 = .ok (.netrecv ⟨.always, .left 4, .none, 40, 7, 0x4⟩) := by
  decide
theorem words_soft_tokens_and_logs :
    decodeWord 0xE89FFFFA08000000 = .ok (.skset ⟨.always, .none, .none, .b64, 0, true, 0x0⟩) ∧
    decodeWord 0xE81FFFFA08000003 = .ok (.skmix ⟨.always, .none, .none, .b64, 0, true, 0x3⟩) ∧
    decodeWord 0xE7803FFA08000006 = .ok (.skget ⟨.always, .write 0, .none, .b64, 0, true, 0x6⟩) ∧
    decodeWord 0xE0810FFA10000000 = .ok (.collapse ⟨.always, .left 4, .none, .b64, 1, false, 0x0⟩) ∧
    decodeWord 0xE49FFFFA02880080 = .ok (.logrec ⟨.always, .none, .none, .b64, .b8, 10, .core, 0, 0x80⟩) ∧
    decodeWord 0xE5803FFFE0000005 = .ok (.pfxcmp ⟨.always, .write 0, .none, 63, 0, 0x5⟩) ∧
    decodeWord 0xE6007FFA00480080 = .ok (.replay ⟨.always, .write 1, .none, .b64, .b8, 1, .core, 0, 0x80⟩) ∧
    decodeWord 0xE38140C1800A0000 = .ok (.kvmap ⟨.always, .left 5, .left 6, .z64, .b8, 0, .core, 1, 0x0⟩) ∧
    decodeWord 0xE3010FFCB89C0000 = .ok (.kvapp ⟨.always, .left 4, .none, .vbf16, .e4m3, 2, .pkg, 2, 0x0⟩) ∧
    decodeWord 0xEA00CFFFE0000001 = .ok (.specbeg ⟨.always, .left 3, .none, 63, 0, 0x1⟩) ∧
    decodeWord 0xEA814FFFE0000005 = .ok (.speccmt ⟨.always, .left 5, .none, 63, 0, 0x5⟩) ∧
    decodeWord 0xEB011FFC00000000 = .ok (.specres ⟨.always, .right 4, .none, .vf32, 0, false, 0x0⟩) ∧
    decodeWord 0xE900CFFC00000000 = .ok (.smaxinit ⟨.always, .left 3, .none, .vf32, 0, false, 0x0⟩) ∧
    decodeWord 0xE981CFFC00000000 = .ok (.smaxupd ⟨.always, .left 7, .none, .vf32, 0, false, 0x0⟩) ∧
    decodeWord 0xE680CFFD80000000 = .ok (.rng ⟨.always, .left 3, .none, .vz32, 0, false, 0x0⟩) := by
  decide
theorem words_control :
    decodeWord 0xE000CFFA08000000 = .ok (.cfgload ⟨.always, .left 3, .none, .b64, 0, true, 0x0⟩) ∧
    decodeWord 0xE71FFFFA08000004 = .ok (.setc ⟨.always, .none, .none, .b64, 0, true, 0x4⟩) ∧
    decodeWord 0xE2804FFA08000009 = .ok (.getc ⟨.always, .left 1, .none, .b64, 0, true, 0x9⟩) ∧
    decodeWord 0xE21FFFFA00000000 = .ok (.eret ⟨.always, .none, .none, .b64, 0, false, 0x0⟩) ∧
    decodeWord 0xEC1FFFF988000007 = .ok (.trap ⟨.always, .none, .none, .z64, 0, true, 0x7⟩) ∧
    decodeWord 0xEB810FFFE0000000 = .ok (.takein ⟨.always, .left 4, .none, 63, 0, 0x0⟩) ∧
    decodeWord 0xE180CFFFE2000005 = .ok (.ctxsave ⟨.always, .left 3, .none, 63, 4, 0x5⟩) ∧
    decodeWord 0xE100CFFFE2000005 = .ok (.ctxrest ⟨.always, .left 3, .none, 63, 4, 0x5⟩) ∧
    decodeWord 0xE400CFFFE0000002 = .ok (.launch ⟨.always, .left 3, .none, 63, 0, 0x2⟩) ∧
    decodeWord 0xEC80CFFFE0000000 = .ok (.withdraw ⟨.always, .left 3, .none, 63, 0, 0x0⟩) := by
  decide
/-- The words that R107 shows with one field changed are refused, each by its check. -/
theorem words_refused : (decodeWord 0xCC829FFFE0000000).toOption = none ∧ (decodeWord 0xA581C039904E0004).toOption = none ∧
    (decodeWord 0x0081412900000008).toOption = none := by decide
/-- From the bytes, little-endian (R67). -/
theorem word_bytes : decode [0x08, 0, 0, 0x08, 0x29, 0x41, 0x81, 0x00, 9] =
    some (.add ⟨.always, .left 5, .right 9, .s64, 0, true, 8⟩, [9]) := by decide

/-! ## The foundations -/

/-- Witness of DivisionTable. -/
theorem witness_division : RType.s32.isIntV = true ∧ (fire (tF (.sc 7) (.sc 2))).sel = some (tF (.sc 7) (.sc 2)) ∧
    Fires .always (tF (.sc 7) (.sc 2)) ∧ DataOnly (both (tF (.sc 7) (.sc 2))) :=
  ⟨rfl, rfl, .inl rfl, dataOnly_of (by decide)⟩
/-- The most negative number divided by -1 (R111). -/
theorem test_div_overflow : sc2 (.div (gw .s32)) 0x80000000 (-1) = [(.data, .sc 0xFFFFFFFF80000000)] ∧
    sc2 (.rem (gw .s32)) 0x80000000 (-1) = [(.data, .sc 0)] := by decide

/-- Element 0 of core 0 holds the ADD and the HALT of block 0 and a token for the ADD's left operand. -/
def stepS : State :=
  { tS with
    cores := [{ tCore with
      cxs := [{ iCx with panel := some ⟨0, 0, 1, 1, 0, 1, false⟩ }],
      elems := [{ swE with store := [⟨0, 0, .left, tTok .data (.sc 5), false, 5, 0, none, false⟩] }, Elem.reset] }],
    agenda := [.fire 0 0] }
theorem witness_step_fires : (stepS.pick 0 0).map (fun r => (r.seq, r.idx, r.needs, r.what)) =
    some (5, 0, [.left], .ok (.add ⟨.always, .write 0, .none, .s64, 0, true, 1⟩)) ∧
    HasElem stepS 0 0 ∧ stepS.dev.thermal = false :=
  ⟨by decide, ⟨by decide, by decide⟩, rfl⟩
/-- The ADD of 5 and 1 goes to frame write 0. -/
theorem test_step_fires : nextIs (step stepS) (fun t => t.agenda = [] ∧ t.sel = none ∧ (t.elem 0 0).store = [] ∧
    (t.core 0).fabric.map (fun fl => (fl.dest, fl.tok)) = [(.write 0, tTok .data (.sc 6))]) = true := by decide
theorem witness_takeSet : ((stepS.pick 0 0).map fun r => (stepS.takeSet 0 0 r).2.l) = some (some (tTok .data (.sc 5))) := by decide
theorem test_step_event : nextIs (step { stepS with agenda := [.event (.blockFetch 0)] }) (fun t => t.agenda = []) = true ∧
    step { stepS with agenda := [.event (.blockFetch 72)] } = .fault .noSuchUnit := by
  constructor
  · decide
  · rfl
theorem witness_retry : (Instr.blockFetch 0).unitsOk = true ∧ coreStep (.blockFetch 0) = true := by decide
/-- A cycle passes. -/
theorem test_step_cycle : nextIs (step { stepS with agenda := [.cycle 0] }) (fun t => (t.core 0).cycle = 1 ∧ t.agenda = []) = true ∧
    nextIs (step { stepS with agenda := [] }) (fun t => (t.core 0).cycle = 0 ∧ Act.cycle 0 ∈ t.agenda) = true := by
  and_intros <;> decide
/-- A held FENCE runs again: a dirty byte of CACHE is in memory then (R155, R320). -/
theorem test_step_retry : nextIs (step { stepS with
      cores := [{ tCore with
        cxs := [{ iCx with pend := [⟨.fence (fw 2 .die), trg, .held, 0⟩] }],
        cache := [⟨0x1000 / 64, List.replicate 64 7, 1, false, []⟩] }],
      agenda := [.retry 0 0 0] }) (fun t => t.agenda = [] ∧ (t.cx 0 0).pend.all (fun q => q.st != .held) = true ∧
      Memory.get t.mem 0x1000 = 7) = true := by decide
/-- While the core clocks stand a step of a core does nothing (R401). -/
theorem test_step_thermal : nextIs (step { stepS with dev := { stepS.dev with thermal := true }, agenda := [.event (.blockFetch 0)] })
      (fun t => t.agenda = [] ∧ t.cores = stepS.cores) = true ∧
    nextIs (step { stepS with dev := { stepS.dev with thermal := true }, agenda := [.cycle 0] })
      (fun t => t.agenda = [] ∧ t.cores = stepS.cores) = true := by and_intros <;> decide
/-- The order of kinds (R28): FAULT of the lowest slot, CHAFF, the highest STOP, NULL. -/
theorem test_combine : combine [some (tTok .chaff (.sc 0)), some (tTok .fault (.sc 9)), none] = some (.fault, .sc 9) ∧
    combine [some (tTok (.stop 1) (.sc 3)), some (tTok (.stop 2) (.sc 4)), some (tTok .null (.sc 0))] = some (.stop 2, .sc 4) ∧
    combine [some (tTok .data (.sc 3)), some (tTok .null (.sc 0)), none] = some (.null, .sc 0) ∧
    combine [some (tTok .data (.sc 3)), none, none] = none := by decide
theorem test_gate : gate .onTrue (tFire none none (some (tTok .data (.sc 0)))) = .absorb ∧
    gate .onFalse (tFire none none (some (tTok .data (.sc 0)))) = .fire ∧
    gate .onTrue (tFire none none (some (tTok .chaff (.sc 0)))) = .emit .chaff (.sc 0) := by decide
theorem witness_encode : (Instr.add (gw .s32)).wf = true ∧ (Instr.st { mw .s32 .b32 with t0 := .none }).wf = true ∧
    (Instr.baradd (ew 63 0)).wf = true ∧ (Instr.br (xw .plain .none 0 3)).wf = true := by decide
theorem reset_memOk : State.reset.memOk := by unfold State.memOk; decide
theorem test_reset : State.reset.cores.length = 72 ∧ State.reset.agenda = [] ∧ (State.reset.part 7).owner = 1 := by decide
/-- A placed ADD is the next to run. -/
theorem test_place : nextIs (step (State.reset.withFetchWord 64 0x0081412908000008)) (fun t =>
    (t.core 0).fabric.map (·.tok.val) = [.sc 8, .sc 8]) = true := by decide

/-- The states that meet the premises of the statements on what memory reads as have memory in its canonical form. -/
theorem witness_canonical : ∀ s ∈ [strm2 (.cpyfill cw) fillD, cutP (ew 63 0) 0x0C202C08,
    after (exec (.poolmove (ew 63 0)) pmS), mm3, sp1 (ew 38 0x1000) 9, sf1, net1, netR, cl3, kv1 1, sbS, ctS true, sv1,
    fbS [flL 7] (fullE 64 1), ceS, fsS [okI false], piS false none,
    { mgS with dev := { mgS.dev with attBusy := true } }], s.memOk := by
  simp only [List.forall_mem_cons, State.memOk, List.not_mem_nil, false_implies, implies_true, and_true]
  and_intros <;> decide
/-- The core of the firings of XLAT, CFGLOAD and WITHDRAW is one of the package's. -/
theorem witness_core : mF.core < tlbS.cores.length ∧ (cfF 0).core < (cfS 0 []).cores.length ∧
    (sF 9).core < (wdS (sF 9)).cores.length := by decide

end Sys2Proof.Tests
end

section
/-! SUPPORT. What leaves memory as it is: the operations of the state that have no writer of memory in them. Each lemma says
once that `mem` is unchanged, so later proofs do not unfold the operation. -/

namespace Sys2Proof.Machine

@[simp] theorem State.ite_mem {P : Prop} [Decidable P] (s t : State) :
    (if P then s else t).mem = if P then s.mem else t.mem := apply_ite ..

@[simp] theorem foldl_mem {α : Type} (f : State → α → State) (h : ∀ s a, (f s a).mem = s.mem)
    (l : List α) (s : State) : (l.foldl f s).mem = s.mem := by
  induction l generalizing s with
  | nil => rfl
  | cons a l ih => rw [List.foldl_cons, ih, h]

theorem fst_mem_of_eq {α : Type} {p : State × α} {t : State} {a : α} (h : p = (t, a)) : t.mem = p.1.mem := by rw [h]

@[simp] theorem State.tick_mem (s : State) : (s.tick).mem = s.mem := rfl

@[simp] theorem propose_mem (s : State) : (propose s).mem = s.mem := rfl

@[simp] theorem State.takeSet_mem (s : State) (c e : Nat) (r : Ready) : (s.takeSet c e r).1.mem = s.mem := rfl

@[simp] theorem State.leaveSlot_mem (s : State) (c e : Nat) : (s.leaveSlot c e).mem = s.mem := by
  fun_cases State.leaveSlot <;> rfl

@[simp] theorem State.noteLive_mem (s : State) (c x : Nat) : (s.noteLive c x).mem = s.mem := by
  simp [State.noteLive]

@[simp] theorem State.retireValues_mem (s : State) (c x : Nat) : (s.retireValues c x).mem = s.mem := by
  simp [State.retireValues]

@[simp] theorem State.cycle_mem (s : State) (c : Nat) : (s.cycle c).mem = s.mem := by
  simp [State.cycle]

@[simp] theorem State.dropLines_mem (s : State) (c : Nat) (p : CLine → Bool) : (s.dropLines c p).mem = s.mem := rfl

@[simp] theorem State.cachePut_mem (s : State) (c : Nat) (l : List (Nat × Byte)) (dirty : Bool) :
    (s.cachePut c l dirty).mem = s.mem := by
  simp [State.cachePut]

@[simp] theorem State.remember_mem (s : State) (f : Firing) (lo hi : Nat × Nat) (old : List (Nat × Byte)) :
    (s.remember f lo hi old).mem = s.mem := rfl

@[simp] theorem State.loadBytes_mem (s : State) (f : Firing) (place : Nat) (pas : List Nat) :
    (s.loadBytes f place pas).1.mem = s.mem := by
  simp only [State.loadBytes]
  split
  · exact foldl_mem _ (fun _ _ => State.remember_mem ..) ..
  · rfl

@[simp] theorem State.sample_mem (s : State) (c k pa : Nat) : (s.sample c k pa).mem = s.mem := by
  fun_cases State.sample <;> rfl

@[simp] theorem State.addFlight_mem (s : State) (c : Nat) (fl : Flight) : (s.addFlight c fl).mem = s.mem := rfl

@[simp] theorem State.readSend_mem (s : State) (c x : Nat) (i : Inst) (t : Target) (order : Nat) (k : Kind) (v : Val) :
    (s.readSend c x i t order k v).mem = s.mem := by
  fun_cases State.readSend <;> rfl

@[simp] theorem State.readDone_mem (s : State) (c x : Nat) (i : Inst) (d : Nat) (k : Kind) (v : Val) :
    (s.readDone c x i d k v).mem = s.mem := by
  simp [State.readDone]

@[simp] theorem State.freeSlots_mem (s : State) (c x : Nat) (img : List Word) (b : Blk) :
    (s.freeSlots c x img b).mem = s.mem := rfl

@[simp] theorem State.rememberOld_mem (s : State) (f : Firing) (place : Nat) (pas : List Nat) :
    (s.rememberOld f place pas).mem = s.mem := by
  simp [State.rememberOld]

@[simp] theorem State.noteRelease_mem (s : State) (c scope : Nat) (rel : Bool) (l : List (Nat × Byte)) :
    (s.noteRelease c scope rel l).mem = s.mem := by
  simp [State.noteRelease]

@[simp] theorem State.sendBoth_mem (s : State) (f : Firing) (t0 t1 : Target) (a b : Tok) :
    (s.sendBoth f t0 t1 a b).mem = s.mem := by
  simp [State.sendBoth]

@[simp] theorem State.tableRecord_mem (s : State) (c x : Nat) (r : FRec) : (s.tableRecord c x r).1.mem = s.mem := by
  fun_cases State.tableRecord <;> rfl

@[simp] theorem State.noteFault_mem (s : State) (c x num : Nat) (r : FRec) (ord : Nat) :
    (s.noteFault c x num r ord).mem = s.mem := by
  fun_cases State.noteFault <;> rfl

@[simp] theorem State.ctxFault_mem (s : State) (f : Firing) (kind node : Nat) (detail : Word) :
    (s.ctxFault f kind node detail).1.mem = s.mem := by
  simp [State.ctxFault]

@[simp] theorem State.setExit_mem (s : State) (f : Firing) (e : Exit) : (s.setExit f e).mem = s.mem := rfl

@[simp] theorem State.exitFault_mem (s : State) (f : Firing) (kind node : Nat) (detail : Word) :
    (s.exitFault f kind node detail).mem = s.mem := by
  simp [State.exitFault]

@[simp] theorem State.wantNext_mem (s : State) (f : Firing) (e : Exit) : (s.wantNext f e).mem = s.mem := by
  fun_cases State.wantNext <;> rfl

@[simp] theorem State.bobAlloc_mem (s : State) (c x f : Nat) : (s.bobAlloc c x f).1.mem = s.mem := rfl

@[simp] theorem State.nulled_mem (s : State) (f : Firing) (lsid : Nat) (k : Kind) (v : Val) :
    (s.nulled f lsid k v).mem = s.mem := by
  simp [State.nulled]

@[simp] theorem State.emitKept_mem (s : State) (f : Firing) (t0 t1 : Target) (k : Kept) :
    (s.emitKept f t0 t1 k).mem = s.mem := by
  fun_cases State.emitKept <;> simp +zetaDelta

/-- An operation that a replay adopts is changed in place (R165). -/
theorem State.adopt_mem {s t : State} {i : Instr} {f : Firing} (h : s.adopt i f = some t) : t.mem = s.mem := by
  unfold State.adopt at h
  dsimp only at h
  split at h
  · cases h
    rfl
  · cases h

@[simp] theorem State.noteUe_mem (s : State) (pa : Nat) : (s.noteUe pa).mem = s.mem := by
  fun_cases State.noteUe <;> rfl

@[simp] theorem State.logViolation_mem (s : State) (p : Nat) (e : VEnt) : (s.logViolation p e).mem = s.mem := rfl

@[simp] theorem State.portRecord_mem (s : State) (c x port : Nat) (r : FRec) (src : Nat) (ord : Nat) :
    (s.portRecord c x port r src ord).1.mem = s.mem := by
  fun_cases State.portRecord <;> simp +zetaDelta

@[simp] theorem State.accessRecord_mem (s : State) (f : Firing) (port node lsid : Nat) (e : AccErr)
    (sseq : Nat) (k : AKind) (ord : Nat) :
    (s.accessRecord f port node lsid e sseq k ord).1.mem = s.mem := by
  simp only [State.accessRecord, State.portRecord_mem]
  split
  · split <;> simp
  · simp

@[simp] theorem State.accessFails_mem (s : State) (f : Firing) (port node lsid : Nat) (e : AccErr)
    (sseq : Nat) (k : AKind) (ord : Nat) :
    (s.accessFails f port node lsid e sseq k ord).1.mem = s.mem := by
  simp only [State.accessFails]
  split
  · simp
  · split <;> simp

theorem State.accessFails_mem_of_eq {s t : State} {f : Firing} {port node lsid sseq ord : Nat} {e : AccErr} {k : AKind}
    {o : AccOut} (h : s.accessFails f port node lsid e sseq k ord = (t, o)) : t.mem = s.mem := by
  simpa using fst_mem_of_eq h

@[simp] theorem State.relabel_mem (s : State) (c n src : Nat) : (s.relabel c n src).mem = s.mem := rfl

@[simp] theorem State.emitFrom_mem (s : State) (src : Nat) (f : Firing) (t0 t1 : Target) (k : Kind) (v : Val) :
    (s.emitFrom src f t0 t1 k v).mem = s.mem := by
  simp [State.emitFrom]

@[simp] theorem State.emitPort_mem (s : State) (f : Firing) (t0 t1 : Target) (k : Kind) (v : Val) :
    (s.emitPort f t0 t1 k v).mem = s.mem := by
  simp [State.emitPort]

@[simp] theorem State.readFails_mem (s : State) (i : Instr) (f : Firing) (lsid : Nat) (e : AccErr) (k : AKind) :
    (s.readFails i f lsid e k).mem = s.mem := by
  fun_cases State.readFails <;> simp [State.accessFails_mem_of_eq ‹_›]

@[simp] theorem State.llcTake_mem (s : State) (pa : Nat) : (s.llcTake pa).mem = s.mem := by
  fun_cases State.llcTake <;> rfl

@[simp] theorem State.buffer_mem (s : State) (f : Firing) (w : MWord) (b : BStore) : (s.buffer f w b).mem = s.mem := rfl

@[simp] theorem State.writeFails_mem (s : State) (i : Instr) (f : Firing) (lsid : Nat) (e : AccErr) :
    (s.writeFails i f lsid e).mem = s.mem := by
  fun_cases State.writeFails <;> simp [State.accessFails_mem_of_eq ‹_›]

@[simp] theorem storeRun_mem (i : Instr) (w : MWord) (chk : State → Firing → Except AccErr (List Nat))
    (scale : Firing → Nat) (s : State) (f : Firing) :
    (storeRun i w chk scale s f).mem = s.mem := by
  fun_cases storeRun <;> simp

@[simp] theorem State.matEnter_mem (s : State) (c : Nat) : (s.matEnter c).mem = s.mem := rfl

@[simp] theorem State.postClears_mem (s : State) (f : Firing) (ts : List Nat) : (s.postClears f ts).mem = s.mem := by
  simp [State.postClears]

@[simp] theorem State.finishTag_mem (s : State) (c : Nat) (t : Option Nat) (m : Mark) :
    (s.finishTag c t m).mem = s.mem := by
  fun_cases State.finishTag <;> rfl

@[simp] theorem State.emitHeld_mem (s : State) (port : Nat) (f : Firing) (t0 t1 : Target) (ctag : Option Nat)
    (k : Kind) (v : Val) : (s.emitHeld port f t0 t1 ctag k v).mem = s.mem := by
  simp [State.emitHeld]

@[simp] theorem State.takeOrd_mem (s : State) (c : Nat) : (s.takeOrd c).1.mem = s.mem := rfl

/-- The state after a command has its order number, its own or a new one (R249). -/
theorem State.takeOrd_ite_mem {s t : State} {P : Prop} [Decidable P] {c n k : Nat}
    (h : (if P then s.takeOrd c else (s, n)) = (t, k)) : t.mem = s.mem := by
  split at h
  · simpa using fst_mem_of_eq h
  · exact fst_mem_of_eq h

@[simp] theorem State.engineRecord_mem (s : State) (m : Cmd) (status : Nat) :
    (s.engineRecord m status).1.mem = s.mem := by
  simp [State.engineRecord]

@[simp] theorem State.cmdEmit_mem (s : State) (cmd : Cmd) (k : Kind) (v : Val) : (s.cmdEmit cmd k v).mem = s.mem := by
  simp [State.cmdEmit]

@[simp] theorem State.engineFails_mem (s : State) (f : Firing) (node : Nat) (e : AccErr) (sseq : Nat)
    (k : AKind) (ord : Nat) : (s.engineFails f node e sseq k ord).1.mem = s.mem := by
  simp [State.engineFails]

theorem State.engineFails_mem_of_eq {s t : State} {f : Firing} {node sseq ord : Nat} {e : AccErr} {k : AKind} {o : AccOut}
    (h : s.engineFails f node e sseq k ord = (t, o)) : t.mem = s.mem := by
  simpa using fst_mem_of_eq h

@[simp] theorem State.freeTag_mem (s : State) (c : Nat) (t : Option Nat) : (s.freeTag c t).mem = s.mem := by
  fun_cases State.freeTag <;> rfl

@[simp] theorem State.gseqStep_mem (s : State) (f : Firing) (port : Nat) : (s.gseqStep f port).mem = s.mem := rfl

@[simp] theorem gathEnter_mem (s : State) (w : EWord) (f : Firing) (port : Nat) (tag : Option Nat) (pas : List Nat) :
    (gathEnter s w f port tag pas).mem = s.mem := rfl

@[simp] theorem State.addAccepted_mem (s : State) (c : Nat) (m : Cmd) : (s.addAccepted c m).mem = s.mem := rfl

@[simp] theorem State.netFails_mem (s : State) (c : Nat) (f : Firing) (k : AKind) (e : AccErr) :
    (s.netFails c f k e).mem = s.mem := by
  simp only [State.netFails]
  split <;> split <;> simp

@[simp] theorem State.sendNet_mem (s : State) (m : NetMsg) : (s.sendNet m).mem = s.mem := rfl

@[simp] theorem netJoin_mem (s : State) (send : Bool) (c : Nat) (m : Cmd) : (netJoin s send c m).mem = s.mem := by
  simp only [netJoin]
  split <;> split <;> simp

@[simp] theorem cfgRelease_mem (s : State) (w : GWord) (f : Firing) (p : Nat) : (cfgRelease s w f p).mem = s.mem := by
  simp [cfgRelease]

@[simp] theorem State.postFallback_mem (s : State) (f : Firing) : (s.postFallback f).mem = s.mem := by
  simp [State.postFallback]

@[simp] theorem State.postTakeIn_mem (s : State) (f : Firing) : (s.postTakeIn f).mem = s.mem := by
  simp [State.postTakeIn]

@[simp] theorem State.rateTake_mem (s : State) (c x : Nat) : (s.rateTake c x).mem = s.mem := by
  simp [State.rateTake]

@[simp] theorem State.reachInst_mem (s : State) (c : Nat) (fl : Flight) : (s.reachInst c fl).mem = s.mem := by
  simp [State.reachInst]

@[simp] theorem State.refuseWrite_mem (s : State) (p pa : Nat) : (s.refuseWrite p pa).mem = s.mem := rfl

@[simp] theorem State.addReconf_mem (s : State) (c e : Nat) (r : Reconf) : (s.addReconf c e r).mem = s.mem := rfl

@[simp] theorem State.loadBlock_mem (s : State) (c x quad b : Nat) : (s.loadBlock c x quad b).mem = s.mem := by
  simp only [State.loadBlock]
  exact foldl_mem _ (fun _ _ => State.addReconf_mem ..) ..

@[simp] theorem State.fetch_mem (s : State) (c x : Nat) (w : Want) : (s.fetch c x w).mem = s.mem := by
  simp [State.fetch]

@[simp] theorem State.matchStall_mem (s : State) (c x : Nat) (tag : Word) (index : Nat) :
    (s.matchStall c x tag index).mem = s.mem := by
  simp only [State.matchStall]
  split <;> simp

@[simp] theorem State.eretOutside_mem (s : State) (c x : Nat) (i : Inst) (e : Exit) :
    (s.eretOutside c x i e).mem = s.mem := by
  simp [State.eretOutside]

@[simp] theorem State.fifoDrop_mem (s : State) (c x slot : Nat) : (s.fifoDrop c x slot).mem = s.mem := by
  fun_cases State.fifoDrop <;> rfl

@[simp] theorem State.dropEntries_mem (s : State) (c x : Nat) (img : List Word) (b : Blk) :
    (s.dropEntries c x img b).mem = s.mem := by
  simp [State.dropEntries]

@[simp] theorem State.leave_mem (s : State) (c x : Nat) (i : Inst) : (s.leave c x i).mem = s.mem := rfl

@[simp] theorem State.setQueue_mem (s : State) (p q : Nat) (v : Queue) : (s.setQueue p q v).mem = s.mem := rfl

@[simp] theorem State.enterRec_mem (s : State) (p q : Nat) (r : LRec) : (s.enterRec p q r).mem = s.mem := by
  simp [State.enterRec]

@[simp] theorem State.enterReserved_mem (s : State) (p : Nat) (ref : InstRef) :
    (s.enterReserved p ref).mem = s.mem := by
  refine foldl_mem _ (fun t q => ?_) ..
  dsimp only
  split
  · rfl
  · exact (foldl_mem _ (fun _ _ => State.enterRec_mem ..) ..).trans (State.setQueue_mem ..)

@[simp] theorem State.commitImages_mem (s : State) (ref : InstRef) : (s.commitImages ref).mem = s.mem := by
  fun_cases State.commitImages <;> simp

@[simp] theorem State.releaseRec_mem (s : State) (c x num : Nat) : (s.releaseRec c x num).mem = s.mem := by
  simp [State.releaseRec]

@[simp] theorem State.freeDropped_mem (s : State) (c x : Nat) (hdl : Bool) (seqs : List Nat) :
    (s.freeDropped c x hdl seqs).mem = s.mem := foldl_mem _ (fun _ _ => State.setCtag_mem ..) ..

@[simp] theorem State.squash_mem (s : State) (c x : Nat) (hdl : Bool) (p : Inst → Bool) :
    (s.squash c x hdl p).mem = s.mem := by
  simp [State.squash]

@[simp] theorem State.eret_mem (s : State) (c x : Nat) (skip : Bool) : (s.eret c x skip).mem = s.mem := by
  fun_cases State.eret <;> simp +zetaDelta

@[simp] theorem State.commitExit_mem (s : State) (c x : Nat) (e : Exit) : (s.commitExit c x e).mem = s.mem := by
  fun_cases State.commitExit <;> simp

@[simp] theorem State.netReply_mem (s : State) (qp op value : Nat) : (s.netReply qp op value).mem = s.mem := rfl

@[simp] theorem State.answer_mem (s : State) (p q who st : Nat) : (s.answer p q who st).mem = s.mem := by
  simp [State.answer]

@[simp] theorem State.takeRecord_mem (s : State) (p q who : Nat) (b : List Byte) :
    (s.takeRecord p q who b).mem = s.mem := by
  simp [State.takeRecord]

@[simp] theorem State.wakeQueue_mem (s : State) (p q : Nat) : (s.wakeQueue p q).mem = s.mem := by
  simp [State.wakeQueue]

@[simp] theorem State.wakeDoors_mem (s : State) : (s.wakeDoors).mem = s.mem :=
  foldl_mem _ (fun _ _ => foldl_mem _ (fun _ _ => State.wakeQueue_mem ..) ..) ..

@[simp] theorem State.releaseInstRecs_mem (s : State) (c x : Nat) (hdl : Bool) (seqs : List Nat) (keepNum : Option Nat) :
    (s.releaseInstRecs c x hdl seqs keepNum).mem = s.mem := by
  simp [State.releaseInstRecs]

@[simp] theorem State.trap_mem (s : State) (c x : Nat) (i : Inst) : (s.trap c x i).mem = s.mem := by
  simp [State.trap]

@[simp] theorem State.dropFrozen_mem (s : State) (c x : Nat) : (s.dropFrozen c x).mem = s.mem := rfl

@[simp] theorem State.closeChannels_mem (s : State) (c x : Nat) : (s.closeChannels c x).mem = s.mem := rfl

@[simp] theorem State.renameMember_mem (s : State) (old new : Nat × Nat) : (s.renameMember old new).mem = s.mem := rfl

@[simp] theorem State.freeCtx_mem (s : State) (c x : Nat) : (s.freeCtx c x).mem = s.mem := rfl

@[simp] theorem State.orphanCmds_mem (s : State) (c x : Nat) : (s.orphanCmds c x).mem = s.mem := rfl

@[simp] theorem loadEmit_mem (s : State) (q : Pend) (bs : List Byte) : (loadEmit s q bs).mem = s.mem := by
  fun_cases loadEmit <;> simp +zetaDelta

@[simp] theorem State.emitAfter_mem (s : State) (q : Pend) (t0 t1 : Target) (k : Kind) (v : Val) :
    (s.emitAfter q t0 t1 k v).mem = s.mem := by
  simp [State.emitAfter]

@[simp] theorem State.atomicFails_mem (s : State) (q : Pend) (w : MWord) (e : AccErr) :
    (s.atomicFails q w e).mem = s.mem := by
  fun_cases State.atomicFails
  · rfl
  all_goals simp [State.accessFails_mem_of_eq ‹_›]

@[simp] theorem State.letGo_mem (s : State) (c b : Nat) : (s.letGo c b).mem = s.mem := rfl

@[simp] theorem State.emitDue_mem (s : State) (q : Pend) (t0 t1 : Target) (k : Kind) (v : Val) :
    (s.emitDue q t0 t1 k v).mem = s.mem := by
  simp [State.emitDue]

@[simp] theorem State.cutDone_mem (s : State) (q : Pend) (w : EWord) (code : Nat) :
    (s.cutDone q w code).mem = s.mem := by
  simp [State.cutDone]

@[simp] theorem State.finishReads_mem (s : State) (c : Nat) (p : Nat → Bool) : (s.finishReads c p).mem = s.mem := rfl

@[simp] theorem State.beginWrites_mem (s : State) (c job : Nat) (l : List (Nat × Byte)) :
    (s.beginWrites c job l).mem = s.mem := by
  simp [State.beginWrites]

@[simp] theorem State.matLeft_mem (s : State) (c : Nat) (m : Cmd) : (s.matLeft c m).mem = s.mem := rfl

@[simp] theorem State.streamWrites_mem (s : State) (c k : Nat) (m : Cmd) : (s.streamWrites c k m).mem = s.mem := by
  fun_cases State.streamWrites <;> simp +zetaDelta

@[simp] theorem State.spDone_mem (s : State) (q : Pend) (w : EWord) (k : Kind) (v : Val) (mark : Mark) :
    (s.spDone q w k v mark).mem = s.mem := by
  simp [State.spDone]

@[simp] theorem State.spFails_mem (s : State) (q : Pend) (w : EWord) (e : AccErr) : (s.spFails q w e).mem = s.mem := by
  simp only [State.spFails]
  split
  · simp
  · split <;> simp [State.engineFails_mem_of_eq ‹_›]

@[simp] theorem State.rereads_mem (s : State) (pas : List Nat) : (s.rereads pas).mem = s.mem := rfl

@[simp] theorem State.netFill_mem (s : State) (c k : Nat) (m : Cmd) (data : List Byte) (count status : Nat) :
    (s.netFill c k m data count status).mem = s.mem := by
  simp [State.netFill]

@[simp] theorem State.peerFails_mem (s : State) (qp p : Nat) (e : AccErr) : (s.peerFails qp p e).mem = s.mem := by
  simp [State.peerFails]

@[simp] theorem State.replayDone_mem (s : State) (q : Pend) (w : MWord) (st : Nat) (new : Option Vec) :
    (s.replayDone q w st new).mem = s.mem := by
  simp only [State.replayDone, State.emitPort_mem]
  split <;> simp

@[simp] theorem State.setSpec_mem (s : State) (c x k : Nat) (v : Spec) : (s.setSpec c x k v).mem = s.mem := rfl

@[simp] theorem State.replyRecord_mem (s : State) (c : Nat) (r : RSlot) (status : Bool) :
    (s.replyRecord c r status).mem = s.mem := by
  simp [State.replyRecord]

@[simp] theorem State.thaw_mem (s : State) (c x node : Nat) : (s.thaw c x node).mem = s.mem := rfl

@[simp] theorem State.retryNode_mem (s : State) (c x node num : Nat) : (s.retryNode c x node num).mem = s.mem := by
  simp [State.retryNode]

@[simp] theorem State.yieldFault_mem (s : State) (q : Pend) (num : Nat) : (s.yieldFault q num).mem = s.mem := by
  fun_cases State.yieldFault <;> simp

@[simp] theorem State.discard_mem (s : State) (q : Pend) : (s.discard q).mem = s.mem := by
  fun_cases State.discard <;> simp

@[simp] theorem State.discardTokens_mem (s : State) (c x : Nat) : (s.discardTokens c x).mem = s.mem := rfl

@[simp] theorem State.clearPages_mem (s : State) (c x : Nat) (quads : List Nat) :
    (s.clearPages c x quads).mem = s.mem := rfl

@[simp] theorem State.endTakeIn_mem (s : State) (c x : Nat) : (s.endTakeIn c x).mem = s.mem := rfl

@[simp] theorem State.moveFirings_mem (s : State) (c x : Nat) : (s.moveFirings c x).mem = s.mem := rfl

@[simp] theorem State.loadPanel_mem (s : State) (c x : Nat) : (s.loadPanel c x).mem = s.mem := by
  fun_cases State.loadPanel <;> rfl

@[simp] theorem State.movePanel_mem (s : State) (c x : Nat) (p : Panel) : (s.movePanel c x p).mem = s.mem := by
  simp [State.movePanel]

@[simp] theorem State.saveCtx_mem (s : State) (c x : Nat) (area : List Nat) : (s.saveCtx c x area).mem = s.mem := by
  fun_cases State.saveCtx <;> rfl

@[simp] theorem State.adoptCmds_mem (s : State) (c x : Nat) (ms : List Cmd) : (s.adoptCmds c x ms).mem = s.mem := by
  simp [State.adoptCmds]

@[simp] theorem State.refreeze_mem (s : State) (c x : Nat) (nums : List (Nat × Nat)) (rs : List RSlot) :
    (s.refreeze c x nums rs).mem = s.mem := by
  simp [State.refreeze]

@[simp] theorem State.preempt_mem (s : State) (p : Nat) (a : CandAt) : (s.preempt p a).mem = s.mem := by
  fun_cases State.preempt
  · rfl
  · simp
  · rfl
  · exact foldl_mem _ (fun _ _ => foldl_mem _ (fun _ _ => State.beginTakeIn_mem ..) ..) ..

@[simp] theorem State.ringRecord_mem (s : State) (p q who : Nat) (b : List Byte) :
    (s.ringRecord p q who b).mem = s.mem := by
  simp [State.ringRecord]

@[simp] theorem State.refuseDev_mem (s : State) (cc pa : Nat) : (s.refuseDev cc pa).mem = s.mem := rfl

@[simp] theorem State.setQp_mem (s : State) (q : QP) : (s.setQp q).mem = s.mem := rfl

@[simp] theorem State.flushQp_mem (s : State) (qp : Nat) : (s.flushQp qp).mem = s.mem := rfl

@[simp] theorem State.bootWith_mem (s : State) (m : Manifest) : (s.bootWith m).mem = s.mem := by
  fun_cases State.bootWith <;> rfl

@[simp] theorem State.ccGive_mem (s : State) (cc : Nat) (bs : List Byte) : (s.ccGive cc bs).mem = s.mem := rfl

@[simp] theorem reorderDrain_mem (s : State) (w : GWord) (f : Firing) (img : List Word) (fl : Nat) (g : Group) (n : Nat) :
    (reorderDrain s w f img fl g n).1.mem = s.mem := by
  induction n generalizing s g with
  | zero => rfl
  | succ n ih =>
    unfold reorderDrain
    split
    · rfl
    · simp [ih]

@[simp] theorem State.ccCond_mem (s : State) (cc a n : Nat) : (s.ccCond cc a n).2.mem = s.mem := rfl

end Sys2Proof.Machine
end

section
/-! SUPPORT. Memory keeps its canonical form (R15, R320): the operations that write memory or clear it. Everything else
leaves memory as it is, by the lemmas `…_mem`. -/

namespace Sys2Proof.Machine

variable {s : State}

/-! ## Writes and what is built of them -/

@[simp] theorem Memory.wf_ite {P : Prop} [Decidable P] (m n : Memory) :
    (Memory.wf (if P then m else n) = true) ↔ (P → Memory.wf m) ∧ (¬P → Memory.wf n) := by
  split <;> simp [*]

/-- Operations in a row that each keep the form keep it. -/
theorem foldl_wf {α : Type} {f : State → α → State} {l : List α} (hs : Memory.wf s.mem)
    (hf : ∀ t a, Memory.wf t.mem → Memory.wf (f t a).mem) : Memory.wf (l.foldl f s).mem :=
  List.foldlRecOn (motive := fun t => Memory.wf t.mem = true) l f hs fun t ht a _ => hf t a ht

theorem fst_wf_of_eq {α : Type} {p : State × α} {t : State} {a : α} (h : p = (t, a)) (hp : Memory.wf p.1.mem) :
    Memory.wf t.mem := by rwa [fst_mem_of_eq h]

@[simp] theorem State.store_keeps_wf (l : List (Nat × Byte)) (z : List Nat) (hs : Memory.wf s.mem) :
    Memory.wf (s.store l z).mem := State.store_wf s l z hs

/-! ## CACHE and late writes (R320, R321, R325) -/

@[simp] theorem State.writeBack_wf (c : Nat) (p : CLine → Bool) (hs : Memory.wf s.mem) :
    Memory.wf (s.writeBack c p).mem := by
  simp [State.writeBack, hs]

@[simp] theorem State.cacheRelease_wf (c : Nat) (hs : Memory.wf s.mem) : Memory.wf (s.cacheRelease c).mem := by
  simp [State.cacheRelease, hs]

@[simp] theorem State.cacheAcquire_wf (c : Nat) (hs : Memory.wf s.mem) : Memory.wf (s.cacheAcquire c).mem := by
  simp [State.cacheAcquire, hs]

@[simp] theorem State.evictLine_wf (c line : Nat) (hs : Memory.wf s.mem) : Memory.wf (s.evictLine c line).mem := by
  simp [State.evictLine, hs]

@[simp] theorem State.evictHeld_wf (c line : Nat) (hs : Memory.wf s.mem) : Memory.wf (s.evictHeld c line).mem := by
  fun_cases State.evictHeld <;> simp [hs]

@[simp] theorem State.cacheRoom_wf (c line : Nat) (hs : Memory.wf s.mem) : Memory.wf (s.cacheRoom c line).mem := by
  fun_cases State.cacheRoom <;> simp [hs]

@[simp] theorem State.cacheFill_wf (c line : Nat) (hs : Memory.wf s.mem) : Memory.wf (s.cacheFill c line).mem := by
  simp [State.cacheFill, hs]

@[simp] theorem State.storeIsland_wf (c : Nat) (l : List (Nat × Byte)) (zero : List Nat) (hs : Memory.wf s.mem) :
    Memory.wf (s.storeIsland c l zero).mem := by
  simp [State.storeIsland, hs]

@[simp] theorem State.lateOut_wf (c : Nat) (l : Late) (p : Nat → Bool) (hs : Memory.wf s.mem) :
    Memory.wf (s.lateOut c l p).mem := by
  simp [State.lateOut, hs]

@[simp] theorem State.lateWrite_wf (c n : Nat) (p : Nat → Bool) (hs : Memory.wf s.mem) :
    Memory.wf (s.lateWrite c n p).mem := by
  fun_cases State.lateWrite <;> simp [hs]

@[simp] theorem State.settleBytes_wf (pas : List Nat) (hs : Memory.wf s.mem) : Memory.wf (s.settleBytes pas).mem := by
  refine foldl_wf hs fun t c ht => ?_
  dsimp only
  split
  · exact ht
  · exact foldl_wf ht fun u l hu => by simp [hu]

@[simp] theorem State.storeStrand_wf (c scope : Nat) (l : List (Nat × Byte)) (zero : List Nat) (hs : Memory.wf s.mem) :
    Memory.wf (s.storeStrand c scope l zero).mem := by
  unfold State.storeStrand
  split
  · simp [hs]
  · exact foldl_wf (by simp [hs]) fun t x ht => by simp [ht]

@[simp] theorem State.cacheForAtomic_wf (c : Nat) (pas : List Nat) (hs : Memory.wf s.mem) :
    Memory.wf (s.cacheForAtomic c pas).mem :=
  foldl_wf hs fun t pa ht => by simp [ht]

@[simp] theorem State.fillTlb_wf (c : Nat) (vas : List Nat) (hs : Memory.wf s.mem) :
    Memory.wf (s.fillTlb c vas).mem := by
  refine foldl_wf hs fun t va ht => ?_
  dsimp only
  split
  · exact ht
  · split <;> simp [ht]

/-! ## Writes of units and commands (R315, R322, R326) -/

@[simp] theorem State.drain_wf (c n g : Nat) (hs : Memory.wf s.mem) : Memory.wf (s.drain c n g).mem := by
  fun_cases State.drain <;> simp [hs]

@[simp] theorem State.writeMem_wf (l : List (Nat × Byte)) (hs : Memory.wf s.mem) : Memory.wf (s.writeMem l).mem := by
  simp [State.writeMem, hs]

@[simp] theorem State.landWrites_wf (c scope : Nat) (ws : List Late) (hs : Memory.wf s.mem) :
    Memory.wf (s.landWrites c scope ws).mem := by
  have landed (p : Nat → Bool) : Memory.wf (ws.foldl (fun s l => s.lateOut c l p) s).mem :=
    foldl_wf hs fun t l ht => by simp [ht]
  unfold State.landWrites
  dsimp only
  split
  · exact landed _
  · rw [State.setCore_mem, State.cachePut_mem]
    exact State.settleBytes_wf _ (landed _)

@[simp] theorem State.endWrites_wf (c job scope : Nat) (hs : Memory.wf s.mem) :
    Memory.wf (s.endWrites c job scope).mem := by
  simp [State.endWrites, hs]

@[simp] theorem State.writeIsland_wf (c scope : Nat) (l : List (Nat × Byte)) (hs : Memory.wf s.mem) :
    Memory.wf (s.writeIsland c scope l).mem := by
  simp [State.writeIsland, hs]

/-! ## Stores of a strand (R48, R152) -/

@[simp] theorem State.showBytes_wf (f : Firing) (b : BStore) (p : Nat → Bool) (hs : Memory.wf s.mem) :
    Memory.wf (s.showBytes f b p).mem := by
  simp [State.showBytes, hs]

@[simp] theorem State.showStores_wf (f : Firing) (p : BStore → Bool) (hs : Memory.wf s.mem) :
    Memory.wf (s.showStores f p).mem := by
  fun_cases State.showStores
  · exact hs
  · rw [State.modOwn_mem]
    exact foldl_wf hs fun t b ht => foldl_wf ht fun u b hu => by simp [hu]

@[simp] theorem State.showBelow_wf (f : Firing) (lsid : Nat) (rel : Bool) (pas : List Nat) (hs : Memory.wf s.mem) :
    Memory.wf (s.showBelow f lsid rel pas).mem := by
  fun_cases State.showBelow <;> simp +zetaDelta [hs]

/-! ## Loads and fences (R155, R320, R323) -/

@[simp] theorem fenceRun_wf (i : Instr) (w : MWord) (fence : Bool) (f : Firing) (hs : Memory.wf s.mem) :
    Memory.wf (fenceRun s i w fence f).mem := by
  simp [fenceRun, hs]

@[simp] theorem hintRun_wf (i : Instr) (w : MWord) (stay : Bool) (f : Firing) (hs : Memory.wf s.mem) :
    Memory.wf (hintRun s i w stay f).mem := by
  fun_cases hintRun <;> simp +zetaDelta [hs]

@[simp] theorem State.acquireAt_wf (c : Nat) (w : MWord) (hs : Memory.wf s.mem) :
    Memory.wf (s.acquireAt c w).mem := by
  simp [State.acquireAt, hs]

@[simp] theorem State.acquireOf_wf (q : Pend) (pas : List Nat) (hs : Memory.wf s.mem) :
    Memory.wf (s.acquireOf q pas).mem := by
  fun_cases State.acquireOf <;> simp [hs]

@[simp] theorem State.loadPart_wf (core ctx k g : Nat) (hs : Memory.wf s.mem) :
    Memory.wf (s.loadPart core ctx k g).mem := by
  fun_cases State.loadPart
  case case2 hl _ => simp [fst_mem_of_eq hl, hs]
  all_goals exact hs

@[simp] theorem State.allocLines_wf (c : Nat) (pas : List Nat) (hs : Memory.wf s.mem) :
    Memory.wf (s.allocLines c pas).mem :=
  foldl_wf hs fun t pa ht => by simp [ht]

@[simp] theorem State.loadReturns_wf (core : Nat) (q : Pend) (pas : List Nat) (got : List (Nat × Byte))
    (hs : Memory.wf s.mem) : Memory.wf (s.loadReturns core q pas got).mem := by
  simp only [State.loadReturns, State.relabel_mem, loadEmit_mem]
  split <;> simp [hs]

/-! ## Atomics (R151, R152) -/

@[simp] theorem State.atomicStore_wf (c scope : Nat) (rel : Bool) (l : List (Nat × Byte)) (hs : Memory.wf s.mem) :
    Memory.wf (s.atomicStore c scope rel l).mem := by
  simp [State.atomicStore, hs]

@[simp] theorem State.atomicAcquire_wf (c : Nat) (w : MWord) (released : Bool) (hs : Memory.wf s.mem) :
    Memory.wf (s.atomicAcquire c w released).mem := by
  simp [State.atomicAcquire, hs]

@[simp] theorem State.atomicAct_wf (q : Pend) (w : MWord) (pas : List Nat) (hs : Memory.wf s.mem) :
    Memory.wf (s.atomicAct q w pas).mem := by
  fun_cases State.atomicAct with
  | case1 f wide shown released settled old =>
    have hr : Memory.wf released.mem := by simp [released, shown, hs]
    simp [old, settled, hr]
  | case2 f wide shown released settled _ old _ _ x res _ l stored done =>
    have hr : Memory.wf released.mem := by simp [released, shown, hs]
    have ho : Memory.wf old.mem := by simp [old, settled, hr]
    simp [done, stored, ho]

end Sys2Proof.Machine
end

section
/-! SUPPORT. Memory keeps its canonical form, continued: completion tags, engine commands, the pool, channels and the
network. -/

namespace Sys2Proof.Machine

variable {s : State}

theorem getD_wf {o : Option State} {d : State} (ho : ∀ t ∈ o, Memory.wf t.mem) (hd : Memory.wf d.mem) :
    Memory.wf (o.getD d).mem := by
  cases o with
  | none => exact hd
  | some t => exact ho t rfl

/-! ## Overflow entries in FRAME (R61, R62) -/

theorem State.enterElem_wf (c e : Nat) (t : Ent) (hs : Memory.wf s.mem) :
    ∀ u ∈ s.enterElem c e t, Memory.wf u.mem := by
  fun_cases State.enterElem <;> simp +zetaDelta [hs, Memory.putAll_wf]

/-! ## Completion tags (R167, R168) -/

@[simp] theorem State.acquireTags_wf (c : Nat) (ts : List Nat) (hs : Memory.wf s.mem) :
    Memory.wf (s.acquireTags c ts).mem := by
  simp [State.acquireTags, hs]

@[simp] theorem State.report_wf (f : Firing) (t0 t1 : Target) (ts : List Nat) (v : Val) (clr : Bool)
    (hs : Memory.wf s.mem) : Memory.wf (s.report f t0 t1 ts v clr).mem := by
  simp [State.report, hs]

theorem State.waitAllRun_wf (f : Firing) (w : EWord) (hs : Memory.wf s.mem) :
    ∀ t ∈ s.waitAllRun f w, Memory.wf t.mem := by
  fun_cases State.waitAllRun <;> simp [hs]

theorem State.waitAnyRun_wf (f : Firing) (w : EWord) (hs : Memory.wf s.mem) :
    ∀ t ∈ s.waitAnyRun f w, Memory.wf t.mem := by
  fun_cases State.waitAnyRun <;> simp [hs]

@[simp] theorem State.releaseAt_wf (c scope : Nat) (hs : Memory.wf s.mem) : Memory.wf (s.releaseAt c scope).mem := by
  simp [State.releaseAt, hs]

@[simp] theorem State.complete_wf (c : Nat) (m : Cmd) (mark : Mark) (hs : Memory.wf s.mem) :
    Memory.wf (s.complete c m mark).mem := by
  simp [State.complete, hs]

/-- An engine command under R167 keeps the form when what its unit does with it keeps it. -/
theorem issue_wf (i : Instr) (w : EWord) (f : Firing) (scope : Nat) {go : State → Option Nat → State}
    (hs : Memory.wf s.mem) (hgo : ∀ t n, Memory.wf t.mem → Memory.wf (go t n).mem) :
    Memory.wf (issue s i w f scope go).mem := by
  fun_cases issue
  case case1 => exact hgo _ _ hs
  case case5 => exact hgo _ _ (by simpa using hs)
  all_goals simp [hs]

/-! ## Reads of an island (R260, R392) -/

theorem State.fillLoads_wf (c : Nat) (l : List (Nat × Nat)) (hs : Memory.wf s.mem) :
    ∀ t ∈ s.fillLoads c l, Memory.wf t.mem := by
  fun_cases State.fillLoads <;> simp [hs]

theorem State.islandLoads_wf (c : Nat) (l : List (Nat × Nat)) (hs : Memory.wf s.mem) :
    ∀ r ∈ s.islandLoads c l, Memory.wf r.1.mem := by
  fun_cases State.islandLoads
  case case1 => simp
  case case3 => simp
  all_goals simp [State.fillLoads_wf c l hs _ ‹_›]

theorem State.readFibre_wf (c ptr crd val es i : Nat) (hs : Memory.wf s.mem) :
    ∀ r ∈ s.readFibre c ptr crd val es i, Memory.wf r.1.mem := by
  fun_cases State.readFibre
  case case1 => simp
  case case2 => simpa using State.islandLoads_wf c _ hs _ ‹_›
  case case3 => simp
  all_goals
    rename_i offsets _ _ _ _ _ elements
    have ho := State.islandLoads_wf c _ hs _ offsets
    simpa using State.islandLoads_wf c _ ho _ elements

/-! ## The streamer (R237-R243) -/

@[simp] theorem acceptStream_wf (c n : Nat) (m : Cmd) (hs : Memory.wf s.mem) :
    Memory.wf (acceptStream s c n m).mem := by
  fun_cases acceptStream
  all_goals have hm := State.takeOrd_ite_mem ‹_›
  case case1 => simp [hm, hs]
  case case2 => simp +zetaDelta [hm, hs]
  all_goals simp +zetaDelta [State.engineFails_mem_of_eq ‹_›, hm, hs]

@[simp] theorem State.streamEnds_wf (c k : Nat) (m : Cmd) (hs : Memory.wf s.mem) :
    Memory.wf (s.streamEnds c k m).mem := by
  simp [State.streamEnds, hs]

/-! ## The matrix island (R232-R236) -/

@[simp] theorem State.consumedTags_wf (c : Nat) (hs : Memory.wf s.mem) : Memory.wf (s.consumedTags c).mem :=
  foldl_wf hs fun t m ht => by simp [ht]

@[simp] theorem State.matEnd_wf (c n : Nat) (m : Cmd) (k : Kind) (v : Val) (hs : Memory.wf s.mem) :
    Memory.wf (s.matEnd c n m k v).mem := by
  have done : Memory.wf (((s.dropCmd c n).cmdEmit m k v).complete c m .none).mem := by simp [hs]
  simp only [State.matEnd, State.matLeft_mem]
  split <;> simp [done]

/-! ## The pool's transition (R219) -/

@[simp] theorem State.finishWrites_wf (c : Nat) (p : Nat → Bool) (hs : Memory.wf s.mem) :
    Memory.wf (s.finishWrites c p).mem :=
  foldl_wf hs fun t n ht => by simp [ht]

@[simp] theorem State.finishFibres_wf (c : Nat) (p : Nat → Bool) (hs : Memory.wf s.mem) :
    Memory.wf (s.finishFibres c p).mem := by
  simp [State.finishFibres, hs]

@[simp] theorem State.finishAccesses_wf (c : Nat) (old new : Split) (hs : Memory.wf s.mem) :
    Memory.wf (s.finishAccesses c old new).mem :=
  foldl_wf hs fun t d ht => by simp [ht]

@[simp] theorem State.transition_wf (c : Nat) (new : Split) (flush reloc : Bool) (hs : Memory.wf s.mem) :
    Memory.wf (s.transition c new flush reloc).mem := by
  unfold State.transition
  dsimp only
  rw [State.setCore_mem]
  split
  · simp [Memory.clear_wf, hs]
  · rw [State.setCore_mem]
    split
    · exact State.cacheRelease_wf _ (by simp [Memory.clear_wf, hs])
    · simp [Memory.clear_wf, hs]

/-! ## Channels (R53, R333-R335) -/

@[simp] theorem State.fifoPut_wf (c x slot : Nat) (k : Kind) (v : Val) (hs : Memory.wf s.mem) :
    Memory.wf (s.fifoPut c x slot k v).mem := by
  fun_cases State.fifoPut
  · exact hs
  · exact Memory.putAll_wf _ hs

@[simp] theorem State.chanSend_wf (c x ch : Nat) (k : Kind) (v : Val) (hs : Memory.wf s.mem) :
    Memory.wf (s.chanSend c x ch k v).mem := by
  fun_cases State.chanSend <;> simp [hs]

/-! ## Gathers (R255-R257) -/

@[simp] theorem State.gathFails_wf (c : Nat) (m : Cmd) (e : AccErr) (hs : Memory.wf s.mem) :
    Memory.wf (s.gathFails c m e).1.mem := by
  fun_cases State.gathFails <;> simp [State.engineFails_mem_of_eq ‹_›, hs]

@[simp] theorem State.gathTake_wf (c ord : Nat) (m : Cmd) (hs : Memory.wf s.mem) :
    Memory.wf (s.gathTake c ord m).1.mem := by
  fun_cases State.gathTake <;> simp [hs]

@[simp] theorem State.gathIssue_wf (c port block : Nat) (hs : Memory.wf s.mem) :
    Memory.wf (s.gathIssue c port block).mem := by
  unfold State.gathIssue
  rw [State.setCore_mem]
  refine List.foldlRecOn (motive := fun t : State × List Cmd => Memory.wf t.1.mem = true) _ _ hs fun t ht m _ => ?_
  split <;> simp [ht]

theorem State.gathRoom_wf (c port blk : Nat) (hs : Memory.wf s.mem) :
    ∀ t ∈ s.gathRoom c port blk, Memory.wf t.mem := by
  fun_cases State.gathRoom <;> simp +zetaDelta [hs]

@[simp] theorem State.gathAgain_wf (c k : Nat) (m : Cmd) (w : EWord) (hs : Memory.wf s.mem) :
    Memory.wf (s.gathAgain c k m w).mem := by
  fun_cases State.gathAgain
  case case1 => exact hs
  case case4 => simp +zetaDelta [hs]
  case case5 => simpa using State.gathRoom_wf _ _ _ (State.fillTlb_wf _ _ hs) _ ‹_›
  all_goals simpa using fst_wf_of_eq ‹_› (State.gathFails_wf _ _ _ (State.fillTlb_wf _ _ hs))

@[simp] theorem State.gathReturn_wf (c : Nat) (m : Cmd) (hs : Memory.wf s.mem) :
    Memory.wf (s.gathReturn c m).mem := by
  fun_cases State.gathReturn <;> simp +zetaDelta [hs]

/-! ## INTSECT (R258-R260) -/

@[simp] theorem State.isEnds_wf (c n : Nat) (m : Cmd) (w : EWord) (num : Nat) (hs : Memory.wf s.mem) :
    Memory.wf (s.isEnds c n m w num).mem := by
  simp [State.isEnds, hs]

@[simp] theorem isFails_wf (c n : Nat) (m : Cmd) (e : AccErr) (sseq lane next : Nat) (hs : Memory.wf s.mem) :
    Memory.wf (isFails s c n m e sseq lane next).mem := by
  fun_cases isFails
  case case4 => exact hs
  all_goals simp +zetaDelta [State.engineFails_mem_of_eq ‹_›, hs]

@[simp] theorem isMove_wf (c n : Nat) (m : Cmd) (w : EWord) (hs : Memory.wf s.mem) :
    Memory.wf (isMove s c n m w).mem := by
  fun_cases isMove
  case case3 | case8 => exact isFails_wf _ _ _ _ _ _ _ (State.readFibre_wf _ _ _ _ _ _ hs _ ‹_›)
  case case4 | case9 => simpa using State.readFibre_wf _ _ _ _ _ _ hs _ ‹_›
  all_goals simp +zetaDelta [hs]

end Sys2Proof.Machine
end

section
/-! SUPPORT. Memory keeps its canonical form, continued: PAD, collectives and the network, KVAPP, commits, endings, save and
restore, the dispatcher. -/

namespace Sys2Proof.Machine

variable {s : State}

/-! ## PAD and sparse tiles (R261-R263) -/

@[simp] theorem State.padStore_wf (c a : Nat) (bs : List Byte) (hs : Memory.wf s.mem) :
    Memory.wf (s.padStore c a bs).mem := by
  simp [State.padStore, hs]

@[simp] theorem spUpdate_wf (c : Nat) (w : EWord) (x j : Nat) (hs : Memory.wf s.mem) :
    Memory.wf (spUpdate s c w x j).1.mem := by
  fun_cases spUpdate <;> simp +zetaDelta [hs]

@[simp] theorem State.flushFails_wf (c k : Nat) (m : Cmd) (e : AccErr) (hs : Memory.wf s.mem) :
    Memory.wf (s.flushFails c k m e).mem := by
  fun_cases State.flushFails <;> simp [State.engineFails_mem_of_eq ‹_›, hs]

@[simp] theorem State.flushRun_wf (c k : Nat) (m : Cmd) (w : EWord) (hs : Memory.wf s.mem) :
    Memory.wf (s.flushRun c k m w).mem := by
  fun_cases State.flushRun
  case case1 => simp [hs]
  case case2 => exact hs
  all_goals
    have hl := State.fillLoads_wf c _ hs _ ‹_›
    simp +zetaDelta [hl]

/-! ## Collectives and the network (R264-R268) -/

@[simp] theorem State.engineDone_wf (c : Nat) (m : Cmd) (bad : Bool) (status : Nat) (hs : Memory.wf s.mem) :
    Memory.wf (s.engineDone c m bad status).mem := by
  simp [State.engineDone, hs]

@[simp] theorem State.poke_wf (area : List Nat) (off : Nat) (bs : List Byte) (hs : Memory.wf s.mem) :
    Memory.wf (s.poke area off bs).mem := by
  simp [State.poke, hs]

@[simp] theorem State.writeTag_wf (v : Saved) (t : Option Nat) (hs : Memory.wf s.mem) :
    Memory.wf (s.writeTag v t).mem := by
  fun_cases State.writeTag <;> simp [hs]

@[simp] theorem State.savedDone_wf (c : Nat) (m : Cmd) (bad : Bool) (status : Nat) (hs : Memory.wf s.mem) :
    Memory.wf (s.savedDone c m bad status).mem :=
  foldl_wf (by simp [hs]) fun t v ht => by simp [ht]

@[simp] theorem State.portDone_wf (c : Nat) (m : Cmd) (bad : Bool) (status : Nat) (hs : Memory.wf s.mem) :
    Memory.wf (s.portDone c m bad status).mem := by
  simp [State.portDone, hs]

@[simp] theorem collRun_wf (c : Nat) (m : Cmd) (hs : Memory.wf s.mem) : Memory.wf (collRun s c m).mem := by
  unfold collRun
  extract_lets +onlyGivenNames filled
  have hf : Memory.wf filled.mem := State.fillTlb_wf c _ hs
  generalize ho : (if m.ord = 0 then filled.takeOrd c else (filled, m.ord)) = r
  obtain ⟨t, ord⟩ := r
  have ht : Memory.wf t.mem := by rwa [State.takeOrd_ite_mem ho]
  dsimp -zeta only
  extract_lets m fails
  have hfails (e : AccErr) (k : AKind) : Memory.wf (fails e k).mem := by
    simp only [fails]
    split <;> simp [State.engineFails_mem_of_eq ‹_›, ht]
  split
  · exact hfails ..
  · split
    · exact hfails ..
    · simp [ht]

@[simp] theorem collJoin_wf (c : Nat) (m : Cmd) (hs : Memory.wf s.mem) : Memory.wf (collJoin s c m).mem := by
  fun_cases collJoin
  · simp [State.takeOrd_ite_mem ‹_›, hs]
  · simp [hs]

@[simp] theorem collAccept_wf (w : EWord) (f : Firing) (t : Option Nat) (hs : Memory.wf s.mem) :
    Memory.wf (collAccept s w f t).mem := by
  simp [collAccept, hs]

@[simp] theorem netAccept_wf (i : Instr) (w : EWord) (send : Bool) (f : Firing) (t : Option Nat) (hs : Memory.wf s.mem) :
    Memory.wf (netAccept s i w send f t).mem := by
  simp [netAccept, hs]

@[simp] theorem State.netDone_wf (c k : Nat) (m : Cmd) (count status : Nat) (hs : Memory.wf s.mem) :
    Memory.wf (s.netDone c k m count status).mem := by
  simp [State.netDone, hs]

@[simp] theorem State.netEnds_wf (c k : Nat) (m : Cmd) (hs : Memory.wf s.mem) : Memory.wf (s.netEnds c k m).mem := by
  simp [State.netEnds, hs]

/-! ## Logs, KVAPP and speculation (R280, R287, R290-R292) -/

@[simp] theorem logrecRun_wf (w : MWord) (f : Firing) (v : Vec) (hs : Memory.wf s.mem) :
    Memory.wf (logrecRun s w f v).mem := by
  fun_cases logrecRun <;> simp +zetaDelta [hs]

@[simp] theorem State.basteEntry_wf (c W h f : Nat) (hs : Memory.wf s.mem) :
    Memory.wf (s.basteEntry c W h f).mem := by
  simp [State.basteEntry, hs]

@[simp] theorem kvWrite_wf (q : Pend) (w : MWord) (ff : FF) (ea : Nat) (hp ep : List Nat) (h : List Byte) (fill : Nat)
    (hs : Memory.wf s.mem) : Memory.wf (kvWrite s q w ff ea hp ep h fill).mem := by
  unfold kvWrite
  extract_lets f ctl v last flags fix so sc es clips settled ready flags' bast fill' h' elements header entered x y s' r
  have hd : Memory.wf settled.mem := by simp [settled, hs]
  have hr : Memory.wf ready.mem := by simp [ready, hd]
  have hh : Memory.wf header.mem := by simp [header, elements, hr]
  clear_value last bast
  have he : Memory.wf entered.mem := by
    simp only [entered]
    split <;> simp [hh]
  simpa [s'] using he

theorem kvPerform_wf (q : Pend) (w : MWord) (ea : Nat) (hp : List Nat) (hs : Memory.wf s.mem) :
    ∀ t ∈ kvPerform s q w ea hp, Memory.wf t.mem := by
  unfold kvPerform
  extract_lets +onlyGivenNames f c shown released ready
  have hr : Memory.wf ready.mem := by
    have hl : Memory.wf released.mem := by simp [released, shown, hs]
    simp [ready, hl]
  clear_value ready
  have filled (vas : List Nat) : Memory.wf (ready.fillTlb c vas).mem := State.fillTlb_wf c vas hr
  dsimp only
  repeat' split
  all_goals simp [hr, filled]

@[simp] theorem specBegin_wf (w : EWord) (f : Firing) (hs : Memory.wf s.mem) :
    Memory.wf (specBegin s w f).1.mem := by
  fun_cases specBegin
  · exact hs
  · exact hs
  · rw [State.setSpec_mem]
    exact State.padStore_wf _ _ _ hs

theorem specCommit_wf {w : EWord} {f : Firing} {W : Nat} {r : State × Val} (hs : Memory.wf s.mem)
    (h : specCommit s w f W = .ok r) : Memory.wf r.1.mem := by
  revert h
  fun_cases specCommit with
  | case1 => simp
  | case2 c _ _ l _ released ready committed cleared =>
    have hr : Memory.wf released.mem := by simp [released, hs]
    have hc : Memory.wf committed.mem := foldl_wf (by simp [ready, hr]) fun t e ht => by simp [ht]
    rintro ⟨⟩
    simp [cleared, hc]

@[simp] theorem cfgInstall_wf (w : GWord) (f : Firing) (p : Nat) (only : Bool) (hs : Memory.wf s.mem) :
    Memory.wf (cfgInstall s w f p only).mem := by
  fun_cases cfgInstall <;> simp +zetaDelta [hs]

@[simp] theorem State.withdraw_wf (p : Nat) (key : Word) (hs : Memory.wf s.mem) :
    Memory.wf (s.withdraw p key).1.mem := by
  fun_cases State.withdraw
  · exact hs
  · exact foldl_wf (by simp +zetaDelta [hs]) fun t a ht => by simp [ht]

/-! ## Commits (R47, R48, R52) -/

@[simp] theorem State.tryRead_wf (c x : Nat) (i : Inst) (d : Nat) (hs : Memory.wf s.mem) :
    Memory.wf (s.tryRead c x i d).mem := by
  fun_cases State.tryRead <;> simp +zetaDelta [hs]

@[simp] theorem State.setSlot_wf (c x n : Nat) (k : Kind) (val : Val) (hs : Memory.wf s.mem) :
    Memory.wf (s.setSlot c x n k val).mem := Memory.putAll_wf _ hs

@[simp] theorem State.writeSlots_wf (c x : Nat) (img : List Word) (b : Blk) (i : Inst) (hs : Memory.wf s.mem) :
    Memory.wf (s.writeSlots c x img b i).mem :=
  foldl_wf hs fun t w ht => by simp [ht]

theorem State.showAll_wf (f : Firing) (l : List BStore) (hs : Memory.wf s.mem) :
    Memory.wf (s.showAll f l).1.mem := by
  induction l generalizing s with
  | nil => exact hs
  | cons b l ih =>
    unfold State.showAll
    split
    · exact ih (State.showBytes_wf f b _ hs)
    · exact hs

@[simp] theorem State.sendEntries_wf (c x : Nat) (img : List Word) (i : Inst) (hs : Memory.wf s.mem) :
    Memory.wf (s.sendEntries c x img i).mem :=
  foldl_wf (by simp [hs]) fun t e ht => by simp [ht]

@[simp] theorem State.begin_wf (c x : Nat) (i : Inst) (hs : Memory.wf s.mem) : Memory.wf (s.begin_ c x i).mem := by
  unfold State.begin_
  dsimp only
  rw [State.modInst_mem]
  exact State.writeSlots_wf _ _ _ _ _ (by simpa using foldl_wf hs fun t d ht => State.tryRead_wf c x i d ht)

@[simp] theorem State.endCommit_wf (c x : Nat) (i : Inst) (hs : Memory.wf s.mem) :
    Memory.wf (s.endCommit c x i).mem := by
  unfold State.endCommit
  extract_lets img b sent left posted committed exited
  have hp : Memory.wf posted.mem := by simp [posted, left, sent, hs]
  have he : exited.mem = committed.mem := by
    simp only [exited]
    split <;> simp
  simp [he, committed, hp]

@[simp] theorem State.goOn_wf (c x : Nat) (i : Inst) (hs : Memory.wf s.mem) : Memory.wf (s.goOn c x i).mem := by
  have shown := State.showAll_wf (wholeFiring c x i) i.stores hs
  simp [State.goOn, shown]

@[simp] theorem State.commit_wf (c x : Nat) (i : Inst) (hs : Memory.wf s.mem) : Memory.wf (s.commit c x i).mem := by
  simp [State.commit, hs]

@[simp] theorem State.forceCommit_wf (c x : Nat) (hs : Memory.wf s.mem) : Memory.wf (s.forceCommit c x).mem :=
  foldl_wf hs fun _ _ ht => State.endCommit_wf c x _ (foldl_wf ht fun _ b hu => State.showBytes_wf _ b _ hu)

@[simp] theorem State.reveal_wf (c x g : Nat) (hs : Memory.wf s.mem) : Memory.wf (s.reveal c x g).mem := by
  fun_cases State.reveal <;> simp +zetaDelta [hs]

/-! ## Endings (R132, R372, R376) -/

@[simp] theorem State.flushNet_wf (c : Nat) (p : Cmd → Bool) (n : Nat) (hs : Memory.wf s.mem) :
    Memory.wf (s.flushNet c p n).mem := by
  induction n generalizing s with
  | zero => exact hs
  | succ n ih =>
    unfold State.flushNet
    split
    · exact hs
    · split
      · exact ih (by simp [hs])
      · exact hs

@[simp] theorem State.endScales_wf (c x : Nat) (hs : Memory.wf s.mem) : Memory.wf (s.endScales c x).mem := by
  unfold State.endScales
  dsimp only
  rw [State.matEnter_mem]
  exact foldl_wf hs fun t m ht => by simp [ht]

@[simp] theorem State.endWritesOf_wf (c : Nat) (p : Cmd → Bool) (hs : Memory.wf s.mem) :
    Memory.wf (s.endWritesOf c p).mem :=
  foldl_wf hs fun t m ht => by simp [ht]

@[simp] theorem State.kill_wf (c x : Nat) (hs : Memory.wf s.mem) : Memory.wf (s.kill c x).mem := by
  unfold State.kill
  dsimp only
  rw [State.setCx_mem, State.setCore_mem]
  refine State.endWritesOf_wf _ _ (State.flushNet_wf _ _ _ (State.endScales_wf _ _ ?_))
  simp [hs]

@[simp] theorem State.dropSaved_wf (p : Nat) (e : Saved) (hs : Memory.wf s.mem) :
    Memory.wf (s.dropSaved p e).mem := by
  unfold State.dropSaved
  dsimp only
  rw [State.setPart_mem, State.setCore_mem]
  exact State.endWritesOf_wf _ _ (State.flushNet_wf _ _ _ hs)

@[simp] theorem State.landAll_wf (c : Nat) (hs : Memory.wf s.mem) : Memory.wf (s.landAll c).mem :=
  foldl_wf hs fun t n ht => by simp [ht]

@[simp] theorem State.resetCore_wf (c : Nat) (hs : Memory.wf s.mem) : Memory.wf (s.resetCore c).mem :=
  Memory.clear_wf _ _ (State.cacheRelease_wf c (State.landAll_wf c hs))

@[simp] theorem State.finishReset_wf (p : Nat) (hs : Memory.wf s.mem) : Memory.wf (s.finishReset p).mem :=
  foldl_wf hs fun _ c ht => State.resetCore_wf c ht

@[simp] theorem State.tryFinishReset_wf (p : Nat) (hs : Memory.wf s.mem) : Memory.wf (s.tryFinishReset p).mem := by
  simp [State.tryFinishReset, hs]

/-! ## Replies, retries and shootdowns (R30, R343, R391) -/

@[simp] theorem State.replySaved_wf (p : Nat) (e : Saved) (t : Nat × RSlot) (status : Bool) (hs : Memory.wf s.mem) :
    Memory.wf (s.replySaved p e t status).mem := by
  simp [State.replySaved, hs]

@[simp] theorem State.cmdTraps_wf (c num : Nat) (m : Cmd) (hs : Memory.wf s.mem) :
    Memory.wf (s.cmdTraps c num m).mem := by
  simp [State.cmdTraps, hs]

@[simp] theorem State.shootSettle_wf (h : Shoot) (c : Nat) (hs : Memory.wf s.mem) :
    Memory.wf (s.shootSettle h c).mem :=
  State.writeBack_wf _ _ (foldl_wf hs fun t n ht => by simp [ht])

/-! ## Save and restore (R353-R356) -/

@[simp] theorem State.finishSave_wf (c k : Nat) (m : Cmd) (status : Nat) (hs : Memory.wf s.mem) :
    Memory.wf (s.finishSave c k m status).mem := by
  simp [State.finishSave, hs]

@[simp] theorem State.saveFails_wf (c k : Nat) (m : Cmd) (e : AccErr) (kind : AKind) (hs : Memory.wf s.mem) :
    Memory.wf (s.saveFails c k m e kind).mem := by
  fun_cases State.saveFails <;> simp +zetaDelta [State.accessFails_mem_of_eq ‹_›, hs]

@[simp] theorem State.writeImage_wf (c k x : Nat) (m : Cmd) {s0 : State} (hs : Memory.wf s.mem)
    (h0 : Memory.wf s0.mem) : Memory.wf (s.writeImage c k x m s0).mem := by
  have filled (vas : List Nat) : Memory.wf (s.fillTlb c vas).mem := State.fillTlb_wf c vas hs
  fun_cases State.writeImage <;> simp +zetaDelta [hs, h0, filled]

theorem State.readSpan_wf (c a n : Nat) (hs : Memory.wf s.mem) : ∀ r ∈ s.readSpan c a n, Memory.wf r.1.mem := by
  fun_cases State.readSpan <;> simp +zetaDelta [hs]

theorem State.readImage_wf (img : List Word) (c a fuel n : Nat) (hs : Memory.wf s.mem) :
    ∀ r ∈ State.readImage img c a fuel n s, Memory.wf r.1.mem := by
  induction fuel generalizing n s with
  | zero => simp [State.readImage]
  | succ fuel ih =>
    unfold State.readImage
    split
    · have hr := State.readSpan_wf c a n hs _ ‹_›
      split
      · simpa using hr
      · exact ih _ hr
    · exact State.readSpan_wf c a n hs

theorem State.restoreCtx_wf (p : Nat) (e : Saved) (c x : Nat) (hs : Memory.wf s.mem) :
    ∀ t ∈ s.restoreCtx p e c x, Memory.wf t.mem := by
  fun_cases State.restoreCtx
  case case1 => simp
  case case3 => simp
  case case2 =>
    rename_i own landed k entered adopted resident filled u renamed moved
    have hl : Memory.wf landed.mem := foldl_wf hs fun t m ht => by
      split
      · exact State.endWrites_wf _ _ _ ht
      · exact ht
    rintro _ ⟨⟩
    simp [moved, renamed, filled, resident, adopted, entered, Memory.putAll_wf, hl]

@[simp] theorem State.restoreImage_wf (p c k x : Nat) (m : Cmd) (img : List Word) (hs : Memory.wf s.mem) :
    Memory.wf (s.restoreImage p c k x m img).mem := by
  fun_cases State.restoreImage
  case case1 => exact hs
  all_goals have read := State.readImage_wf _ _ _ _ _ hs _ ‹_›
  case case2 => exact State.saveFails_wf _ _ _ _ _ read
  case case3 => exact read
  case case4 =>
    refine State.restoreCtx_wf _ _ _ _ ?_ _ ‹_›
    exact State.finishSave_wf _ _ _ _ read
  case case5 => exact State.finishSave_wf _ _ _ _ read

/-! ## The dispatcher (R362-R366) -/

theorem State.bindOne_wf (p : Nat) (imgs : List (List Word)) (m : Nat) (r : LRec) (c x : Nat) (panel : Panel)
    (hs : Memory.wf s.mem) : ∀ t ∈ s.bindOne p imgs m r c x panel, Memory.wf t.mem := by
  fun_cases State.bindOne
  · simp
  · simp +zetaDelta [Memory.putAll_wf, hs]

theorem bindMembers_wf (p : Nat) (cores : List Nat) (imgs : List (List Word)) (l : List (Nat × LRec))
    (placed : List (Nat × Nat)) (oneCore oneDie : Option Nat) (hs : Memory.wf s.mem) :
    ∀ r ∈ bindMembers p cores imgs l s placed oneCore oneDie, Memory.wf r.1.mem := by
  induction l generalizing s placed oneCore oneDie with
  | nil => simpa [bindMembers] using hs
  | cons member rest ih =>
    intro r hr
    obtain ⟨c, -, hc⟩ := List.exists_of_findSome?_eq_some hr
    dsimp only at hc
    split at hc
    · cases hc
    · split at hc
      · cases hc
      · obtain ⟨panel, -, hp⟩ := List.exists_of_findSome?_eq_some hc
        split at hp
        · cases hp
        · exact ih _ _ _ (State.bindOne_wf _ _ _ _ _ _ _ hs _ ‹_›) _ hp

theorem State.bindUnit_wf (p : Nat) (cores : List Nat) (recs : List LRec) (hs : Memory.wf s.mem) :
    ∀ t ∈ s.bindUnit p cores recs, Memory.wf t.mem := by
  unfold State.bindUnit
  dsimp only
  split
  · simp
  · have bound := bindMembers_wf _ _ _ _ _ _ _ hs _ ‹_›
    rintro _ ⟨⟩
    refine foldl_wf ?_ fun t c ht => State.cacheAcquire_wf c ht
    split
    · exact bound
    · rw [foldl_mem _ fun _ _ => State.setCx_mem ..]
      exact bound

theorem State.tryCand_wf (p : Nat) (reserved : List Nat) (a : Cand) (hs : Memory.wf s.mem) :
    ∀ t ∈ s.tryCand p reserved a, Memory.wf t.mem := by
  fun_cases State.tryCand
  case case1 =>
    simp only [Option.mem_map]
    rintro _ ⟨t, ht, rfl⟩
    simpa using State.bindUnit_wf _ _ _ hs t ht
  case case4 => exact State.restoreCtx_wf _ _ _ _ hs
  all_goals simp

theorem State.firstBound_wf (p : Nat) (reserved : List Nat) (l : List CandAt) (hs : Memory.wf s.mem) :
    ∀ r ∈ s.firstBound p reserved l, Memory.wf r.2.mem := by
  intro r hr
  obtain ⟨a, -, ha⟩ := List.exists_of_findSome?_eq_some hr
  obtain ⟨t, ht, rfl⟩ := Option.map_eq_some_iff.1 ha
  exact State.tryCand_wf _ _ _ hs t ht

theorem State.dispatchStep_wf (p : Nat) (hs : Memory.wf s.mem) : ∀ r ∈ s.dispatchStep p, Memory.wf r.2.mem := by
  fun_cases State.dispatchStep
  case case1 => simp
  case case2 => simpa using State.tryCand_wf _ _ _ hs _ ‹_›
  case case3 => exact State.firstBound_wf _ _ _ hs

@[simp] theorem State.ccWrite_wf (rel : Bool) (op : CcOp) (l : List (Nat × Byte)) (hs : Memory.wf s.mem) :
    Memory.wf (s.ccWrite rel op l).mem := by
  simp [State.ccWrite, hs]

end Sys2Proof.Machine
end

section
/-! SUPPORT. Memory keeps its canonical form through every outcome: the shapes that the instructions' meanings share. -/

namespace Sys2Proof.Machine

variable {s : State}

/-- The state that an outcome leads to, if it leads to one, has memory in its canonical form. -/
def OutMemOk (o : Out) : Prop := ∀ t, o = .next t → Memory.wf t.mem = true

@[simp] theorem outMemOk_next (t : State) : OutMemOk (.next t) ↔ Memory.wf t.mem = true :=
  ⟨fun h => h t rfl, fun h u hu => by cases hu; exact h⟩

@[simp] theorem outMemOk_fault (r : Fault) : OutMemOk (.fault r) := fun _ h => by cases h

@[simp] theorem outMemOk_refused (r : Refusal) : OutMemOk (.refused r) := fun _ h => by cases h

/-! ## The shapes (R28, R29) -/

theorem withSel_memOk {g : Firing → Out} (hs : Memory.wf s.mem) (hg : ∀ f, OutMemOk (g f)) :
    OutMemOk (withSel s g) := by
  fun_cases withSel
  · exact hg _
  · simpa using hs

theorem fireAs_memOk {pm : PMode} {t0 t1 : Target} {ops : Firing → List (Option Tok)} {run : Firing → State}
    (hs : Memory.wf s.mem) (hr : ∀ f, Memory.wf (run f).mem) : OutMemOk (fireAs s pm t0 t1 ops run) := by
  refine withSel_memOk hs fun f => ?_
  split <;> simp [hs, hr]

theorem unG_memOk {w : GWord} {op : Val → Val} (hs : Memory.wf s.mem) : OutMemOk (unG s w op) :=
  fireAs_memOk hs fun f => by simp [hs]

theorem binG_memOk {w : GWord} {op : Val → Val → Val} (hs : Memory.wf s.mem) : OutMemOk (binG s w op) :=
  fireAs_memOk hs fun f => by simp [hs]

theorem passLeft_memOk {w : GWord} (hs : Memory.wf s.mem) : OutMemOk (passLeft s w) := by
  refine withSel_memOk hs fun f => ?_
  split
  · simp [hs]
  · simp [hs]
  · split <;> simp [hs]

theorem predG_memOk {w : GWord} {ops : Firing → List (Option Tok)} {val : Firing → Val} (hs : Memory.wf s.mem) :
    OutMemOk (predG s w ops val) := by
  refine withSel_memOk hs fun f => ?_
  split
  · simp [hs]
  · simp [hs]
  · split <;> simp [hs]

theorem onLeft_memOk {w : GWord} {g : Firing → Tok → State} (hs : Memory.wf s.mem)
    (hg : ∀ f t, Memory.wf (g f t).mem) : OutMemOk (onLeft s w g) := by
  refine withSel_memOk hs fun f => ?_
  split
  · simp [hs]
  · simp [hs]
  · split <;> simp [hs, hg]

theorem kindTest_memOk {w : GWord} {test : Tok → Bool} (hs : Memory.wf s.mem) : OutMemOk (kindTest s w test) :=
  onLeft_memOk hs fun f t => by simp [hs]

theorem retag_memOk {w : GWord} {new : Firing → Tok → Word} (hs : Memory.wf s.mem) : OutMemOk (retag s w new) :=
  onLeft_memOk hs fun f t => by simp [hs]

theorem fireExit_memOk {w : XWord} {halt : Bool} {start : Firing → Inst → Except ExitErr (Option Nat × List Nat)}
    (hs : Memory.wf s.mem) : OutMemOk (fireExit s w halt start) := by
  refine withSel_memOk hs fun f => ?_
  dsimp only
  repeat' split
  all_goals simp [hs]

/-! ## The start of accesses and commands (R146, R153, R167) -/

theorem startAtomic_memOk {i : Instr} {w : MWord} (hs : Memory.wf s.mem) : OutMemOk (startAtomic s i w) := by
  refine withSel_memOk hs fun f => ?_
  dsimp only
  split
  · simp [hs]
  · simp [hs]
  · split
    · simp [hs]
    · split
      · simp [State.adopt_mem ‹_›, hs]
      · split <;> simp [hs]

theorem startLoad_memOk {i : Instr} {w : MWord} {ops : Firing → List (Option Tok)}
    {chk : State → Firing → Except AccErr (List Nat)} {vas : Firing → List Nat} (hs : Memory.wf s.mem) :
    OutMemOk (startLoad s i w ops chk vas) := by
  refine fireAs_memOk hs fun f => ?_
  dsimp only
  split
  · simp [hs]
  · split <;> simp [hs]

theorem startStore_memOk {i : Instr} {w : MWord} {ops : Firing → List (Option Tok)} {vas : Firing → List Nat}
    {run : State → Firing → State} (hs : Memory.wf s.mem)
    (hr : ∀ t f, Memory.wf t.mem → Memory.wf (run t f).mem) : OutMemOk (startStore s i w ops vas run) := by
  refine withSel_memOk hs fun f => ?_
  split
  · simp [hs]
  · simp [hs]
  · split
    · simp [hs]
    · simpa using hr _ f (State.fillTlb_wf _ _ hs)

theorem hint_memOk {i : Instr} {w : MWord} {stay : Bool} (hs : Memory.wf s.mem) : OutMemOk (hint s i w stay) := by
  refine withSel_memOk hs fun f => ?_
  split <;> simp [hs]

theorem startBarrier_memOk {i : Instr} {w : EWord} (hs : Memory.wf s.mem) : OutMemOk (startBarrier s i w) := by
  refine fireAs_memOk hs fun f => ?_
  split
  · simp [hs]
  · exact getD_wf (fun t ht => by rwa [State.adopt_mem ht]) (by simp [hs])

theorem startStream_memOk {i : Instr} {w : EWord} (hs : Memory.wf s.mem) : OutMemOk (startStream s i w) := by
  refine fireAs_memOk hs fun f => ?_
  split
  · simp [hs]
  · exact issue_wf _ _ _ _ hs fun t n ht => by simp [ht]

theorem startMatrix_memOk {i : Instr} {w : EWord} (hs : Memory.wf s.mem) : OutMemOk (startMatrix s i w) := by
  refine fireAs_memOk hs fun f => ?_
  split
  · simp [hs]
  · extract_lets +onlyGivenNames t u
    split
    · split <;> simp +zetaDelta [hs]
    · simp +zetaDelta [hs]

theorem startNet_memOk {i : Instr} {w : EWord} {send : Bool} (hs : Memory.wf s.mem) :
    OutMemOk (startNet s i w send) := by
  refine fireAs_memOk hs fun f => ?_
  split
  · simp [hs]
  · exact issue_wf _ _ _ _ hs fun t n ht => by simp [ht]

end Sys2Proof.Machine
end

section
/-! SUPPORT. Memory keeps its canonical form through every instruction that is not one of those shapes alone. -/

namespace Sys2Proof.Machine

variable {s : State}

theorem execNull_memOk {w : GWord} (hs : Memory.wf s.mem) : OutMemOk (execNull w s) :=
  onLeft_memOk hs fun f t => by split <;> simp [hs]

theorem execTagget_memOk {w : GWord} (hs : Memory.wf s.mem) : OutMemOk (execTagget w s) :=
  fireAs_memOk hs fun f => by simp [hs]

theorem execGetc_memOk {w : GWord} (hs : Memory.wf s.mem) : OutMemOk (execGetc w s) :=
  fireAs_memOk hs fun f => by simp [hs]

theorem execMerge_memOk {w : GWord} (hs : Memory.wf s.mem) : OutMemOk (execMerge w s) := by
  refine withSel_memOk hs fun f => ?_
  dsimp only
  repeat' split
  all_goals simp [hs]

theorem execOrdjoin_memOk {w : GWord} (hs : Memory.wf s.mem) : OutMemOk (execOrdjoin w s) := by
  refine withSel_memOk hs fun f => ?_
  dsimp only
  repeat' split
  all_goals simp [hs]

theorem execRoute_memOk {w : GWord} (hs : Memory.wf s.mem) : OutMemOk (execRoute w s) := by
  refine withSel_memOk hs fun f => ?_
  dsimp only
  repeat' split
  all_goals simp [hs]

theorem execSteer_memOk {w : GWord} (hs : Memory.wf s.mem) : OutMemOk (execSteer w s) := by
  refine withSel_memOk hs fun f => ?_
  dsimp only
  repeat' split
  all_goals simp [hs]

theorem execStop_memOk {w : GWord} (hs : Memory.wf s.mem) : OutMemOk (execStop w s) := by
  refine withSel_memOk hs fun f => ?_
  dsimp only
  repeat' split
  all_goals simp [hs]

theorem execStrip_memOk {w : GWord} (hs : Memory.wf s.mem) : OutMemOk (execStrip w s) := by
  refine withSel_memOk hs fun f => ?_
  dsimp only
  repeat' split
  all_goals simp [hs]

theorem execTagwin_memOk {w : GWord} (hs : Memory.wf s.mem) : OutMemOk (execTagwin w s) := by
  refine withSel_memOk hs fun f => ?_
  split
  · simp [hs]
  · simp [hs]
  · split <;> simp [hs]

theorem execXlat_memOk {w : GWord} (hs : Memory.wf s.mem) : OutMemOk (execXlat w s) := by
  refine fireAs_memOk hs fun f => ?_
  dsimp only
  repeat' split
  all_goals simp [hs]

theorem execCclr_memOk {w : EWord} (hs : Memory.wf s.mem) : OutMemOk (execCclr w s) :=
  fireAs_memOk hs fun f => by simp [hs]

theorem execFfr_memOk {w : EWord} (hs : Memory.wf s.mem) : OutMemOk (execFfr w s) := by
  refine withSel_memOk hs fun f => ?_
  dsimp only
  repeat' split
  all_goals simp [hs]

theorem execPoolqry_memOk {w : EWord} (hs : Memory.wf s.mem) : OutMemOk (execPoolqry w s) :=
  fireAs_memOk hs fun f => by simp [hs]

theorem execCfgload_memOk {w : GWord} (hs : Memory.wf s.mem) : OutMemOk (execCfgload w s) :=
  fireAs_memOk hs fun f => by simp [hs]

theorem execCollapse_memOk {w : GWord} (hs : Memory.wf s.mem) : OutMemOk (execCollapse w s) := by
  refine fireAs_memOk hs fun f => ?_
  dsimp only
  repeat' split
  all_goals simp [hs]

theorem execKvmap_memOk {w : MWord} (hs : Memory.wf s.mem) : OutMemOk (execKvmap w s) := by
  refine fireAs_memOk hs fun f => ?_
  dsimp only
  repeat' split
  all_goals simp [hs]

theorem execLaunch_memOk {w : EWord} (hs : Memory.wf s.mem) : OutMemOk (execLaunch w s) := by
  refine withSel_memOk hs fun f => ?_
  dsimp only
  repeat' split
  all_goals simp [hs]

theorem execLogrec_memOk {w : MWord} (hs : Memory.wf s.mem) : OutMemOk (execLogrec w s) := by
  refine withSel_memOk hs fun f => ?_
  dsimp only
  repeat' split
  all_goals simp [hs]

theorem execPfxcmp_memOk {w : EWord} (hs : Memory.wf s.mem) : OutMemOk (execPfxcmp w s) := by
  refine fireAs_memOk hs fun f => ?_
  dsimp only
  repeat' split
  all_goals simp [hs]

theorem execReplay_memOk {w : MWord} (hs : Memory.wf s.mem) : OutMemOk (execReplay w s) :=
  withSel_memOk hs fun f => by split <;> simp [hs]

theorem execSetc_memOk {w : GWord} (hs : Memory.wf s.mem) : OutMemOk (execSetc w s) :=
  withSel_memOk hs fun f => by split <;> simp [hs]

theorem execSetcFclr_memOk {w : GWord} (hs : Memory.wf s.mem) : OutMemOk (execSetcFclr w s) :=
  withSel_memOk hs fun f => by split <;> simp [hs]

theorem execSkget_memOk {w : GWord} (hs : Memory.wf s.mem) : OutMemOk (execSkget w s) := by
  refine withSel_memOk hs fun f => ?_
  dsimp only
  repeat' split
  all_goals simp [hs]

theorem execSkmix_memOk {w : GWord} (hs : Memory.wf s.mem) : OutMemOk (execSkmix w s) :=
  fireAs_memOk hs fun f => by simp [hs]

theorem execSkset_memOk {w : GWord} (hs : Memory.wf s.mem) : OutMemOk (execSkset w s) := by
  refine fireAs_memOk hs fun f => ?_
  dsimp only
  repeat' split
  all_goals simp [hs]

theorem execSpecres_memOk {w : GWord} (hs : Memory.wf s.mem) : OutMemOk (execSpecres w s) :=
  fireAs_memOk hs fun f => by simp [hs]

theorem execTakein_memOk {w : EWord} (hs : Memory.wf s.mem) : OutMemOk (execTakein w s) := by
  refine fireAs_memOk hs fun f => ?_
  dsimp only
  repeat' split
  all_goals simp [hs]

theorem execTrap_memOk {w : GWord} (hs : Memory.wf s.mem) : OutMemOk (execTrap w s) := by
  refine withSel_memOk hs fun f => ?_
  dsimp only
  repeat' split
  all_goals simp [hs]

theorem execWithdraw_memOk {w : EWord} (hs : Memory.wf s.mem) : OutMemOk (execWithdraw w s) :=
  fireAs_memOk hs fun f => by split <;> simp [hs]

theorem execIllegal_memOk {word : Word} (hs : Memory.wf s.mem) : OutMemOk (execIllegal word s) :=
  withSel_memOk hs fun f => by split <;> simp [hs]

theorem execReorder_memOk {w : GWord} (hs : Memory.wf s.mem) : OutMemOk (execReorder w s) := by
  refine onLeft_memOk hs fun f t => ?_
  dsimp only
  split
  · simp [hs]
  · simpa using getD_wf (State.enterElem_wf _ _ _ hs) hs

theorem execSink_memOk {w : GWord} (hs : Memory.wf s.mem) : OutMemOk (execSink w s) := by
  refine withSel_memOk hs fun f => ?_
  split <;> simp [hs]

theorem execFence_memOk {w : MWord} (hs : Memory.wf s.mem) : OutMemOk (execFence w s) :=
  fireAs_memOk hs fun f => fenceRun_wf _ _ _ f hs

theorem execWiden_memOk {w : MWord} (hs : Memory.wf s.mem) : OutMemOk (execWiden w s) :=
  fireAs_memOk hs fun f => fenceRun_wf _ _ _ f hs

theorem execSt_memOk {w : MWord} (hs : Memory.wf s.mem) : OutMemOk (execSt w s) :=
  startStore_memOk hs fun t f ht => by simpa using ht

theorem execSts_memOk {w : MWord} (hs : Memory.wf s.mem) : OutMemOk (execSts w s) :=
  startStore_memOk hs fun t f ht => by simpa using ht

theorem execStx_memOk {w : MWord} (hs : Memory.wf s.mem) : OutMemOk (execStx w s) :=
  startStore_memOk hs fun t f ht => by simpa using ht

theorem execBarwait_memOk {w : EWord} (hs : Memory.wf s.mem) : OutMemOk (execBarwait w s) := by
  refine withSel_memOk hs fun f => ?_
  split
  · simp [hs]
  · simp [hs]
  · repeat' split
    all_goals simp [hs]

theorem execColl_memOk {w : EWord} (hs : Memory.wf s.mem) : OutMemOk (execColl w s) := by
  refine fireAs_memOk hs fun f => ?_
  split
  · simp [hs]
  · exact issue_wf _ _ _ _ hs fun t n ht => by simp [ht]

theorem execIntsect_memOk {w : EWord} (hs : Memory.wf s.mem) : OutMemOk (execIntsect w s) := by
  refine fireAs_memOk hs fun f => ?_
  dsimp only
  split
  · simp [hs]
  · refine issue_wf _ _ _ _ hs fun t n ht => ?_
    split <;> simp [ht]

theorem execPoolcut_memOk {w : EWord} (hs : Memory.wf s.mem) : OutMemOk (execPoolcut w s) := by
  refine withSel_memOk hs fun f => ?_
  split
  · simp [hs]
  · split <;> simp [hs]
  · split <;> simp [hs]

theorem execPoolmove_memOk {w : EWord} (hs : Memory.wf s.mem) : OutMemOk (execPoolmove w s) := by
  refine fireAs_memOk hs fun f => issue_wf _ _ _ _ hs fun t n ht => ?_
  dsimp only
  split
  · simp [ht]
  · split <;> simp [ht]

theorem execScld_memOk {w : EWord} (hs : Memory.wf s.mem) : OutMemOk (execScld w s) := by
  refine withSel_memOk hs fun f => ?_
  split
  · simp [hs]
  · simp [hs]
  · split
    · simp [hs]
    · rw [outMemOk_next]
      split
      · simp [hs]
      · exact issue_wf _ _ _ _ hs fun t n ht => by simp [ht]

theorem execSpacc_memOk {w : EWord} (hs : Memory.wf s.mem) : OutMemOk (execSpacc w s) := by
  refine fireAs_memOk hs fun f => ?_
  split
  · simp [hs]
  · split
    · simp [hs]
    · rwa [State.adopt_mem ‹_›]
    · split <;> simp [hs]

theorem execSpflush_memOk {w : EWord} (hs : Memory.wf s.mem) : OutMemOk (execSpflush w s) := by
  refine fireAs_memOk hs fun f => ?_
  split
  · simp [hs]
  · exact issue_wf _ _ _ _ hs fun t n ht => by simp [ht]

theorem execWaitall_memOk {w : EWord} (hs : Memory.wf s.mem) : OutMemOk (execWaitall w s) :=
  fireAs_memOk hs fun f => getD_wf (State.waitAllRun_wf f w hs) (by simp [hs])

theorem execWaitany_memOk {w : EWord} (hs : Memory.wf s.mem) : OutMemOk (execWaitany w s) :=
  fireAs_memOk hs fun f => getD_wf (State.waitAnyRun_wf f w hs) (by simp [hs])

theorem execCtxrest_memOk {w : EWord} (hs : Memory.wf s.mem) : OutMemOk (execCtxrest w s) := by
  refine fireAs_memOk hs fun f => ?_
  split
  · simp [hs]
  · exact issue_wf _ _ _ _ hs fun t n ht => by simp [ht]

theorem execCtxsave_memOk {w : EWord} (hs : Memory.wf s.mem) : OutMemOk (execCtxsave w s) := by
  refine fireAs_memOk hs fun f => ?_
  split
  · simp [hs]
  · refine issue_wf _ _ _ _ hs fun t n ht => ?_
    dsimp only
    split <;> simp [ht]

theorem execEret_memOk {w : GWord} (hs : Memory.wf s.mem) : OutMemOk (execEret w s) := by
  refine withSel_memOk hs fun f => ?_
  split
  · simp [hs]
  · simp [hs]
  · simp [hs]
  · split
    · simp [hs]
    · simp [hs]
    · repeat' split
      all_goals simp [hs]

theorem execSmaxupd_memOk {w : GWord} (hs : Memory.wf s.mem) : OutMemOk (execSmaxupd w s) := by
  refine withSel_memOk hs fun f => ?_
  split
  · simp [hs]
  · simp [hs]
  · split <;> simp [hs]
  · simp [hs]

theorem execSpecbeg_memOk {w : EWord} (hs : Memory.wf s.mem) : OutMemOk (execSpecbeg w s) := by
  refine fireAs_memOk hs fun f => ?_
  split
  · simp [hs]
  · exact getD_wf (fun t ht => by rwa [State.adopt_mem ht]) (by simp [hs])

theorem execSpeccmt_memOk {w : EWord} (hs : Memory.wf s.mem) : OutMemOk (execSpeccmt w s) := by
  refine fireAs_memOk hs fun f => ?_
  split
  · simp [hs]
  · exact getD_wf (fun t ht => by rwa [State.adopt_mem ht]) (by simp [hs])

theorem execGath_memOk {w : EWord} (hs : Memory.wf s.mem) : OutMemOk (execGath w s) := by
  refine fireAs_memOk hs fun f => ?_
  dsimp only
  split
  · simp [hs]
  · split
    · split <;> simp [hs]
    · simp [hs]
    · split
      · simp [hs]
      · split
        · split
          · simp [hs]
          · have hroom := State.gathRoom_wf _ _ _ (State.fillTlb_wf _ _ hs) _ ‹_›
            split
            · simpa using hroom
            · split <;> simpa using hroom
        · split
          · split <;> simp [State.engineFails_mem_of_eq ‹_›, hs]
          · split <;> simp [State.engineFails_mem_of_eq ‹_›, hs]
          · simp [State.engineFails_mem_of_eq ‹_›, hs]

end Sys2Proof.Machine
end

section
/-! SUPPORT. Memory keeps its canonical form through every event. -/

namespace Sys2Proof.Machine

variable {s : State}

theorem execManagementPageWrite_memOk {cc core elem ctx slot : Nat} {word : Word} (hs : Memory.wf s.mem) :
    OutMemOk (execManagementPageWrite cc core elem ctx slot word s) := by
  fun_cases execManagementPageWrite <;> simp [hs]

theorem execReconfiguration_memOk {core elem k : Nat} (hs : Memory.wf s.mem) :
    OutMemOk (execReconfiguration core elem k s) := by
  fun_cases execReconfiguration <;> simp [hs]

theorem execElementContextSwitch_memOk {core elem : Nat} (hs : Memory.wf s.mem) :
    OutMemOk (execElementContextSwitch core elem s) := by
  fun_cases execElementContextSwitch <;> simp [hs]

theorem execBlockFetch_memOk {core : Nat} (hs : Memory.wf s.mem) : OutMemOk (execBlockFetch core s) := by
  fun_cases execBlockFetch <;> simp [hs]

theorem execBobbinAllocation_memOk {core ctx : Nat} (hs : Memory.wf s.mem) :
    OutMemOk (execBobbinAllocation core ctx s) := by
  unfold execBobbinAllocation
  dsimp only
  repeat' split
  all_goals simp [hs]

theorem execTagExhaust_memOk {core ctx : Nat} (hs : Memory.wf s.mem) : OutMemOk (execTagExhaust core ctx s) := by
  unfold execTagExhaust
  dsimp only
  repeat' split
  all_goals simp [hs]

theorem execMatchStall_memOk {core elem : Nat} (hs : Memory.wf s.mem) : OutMemOk (execMatchStall core elem s) := by
  fun_cases execMatchStall <;> simp [hs]

theorem execFrameRead_memOk {core ctx n d : Nat} (hs : Memory.wf s.mem) :
    OutMemOk (execFrameRead core ctx n d s) := by
  fun_cases execFrameRead <;> simp [hs]

theorem execChannelSlotRead_memOk {core ctx n d : Nat} (hs : Memory.wf s.mem) :
    OutMemOk (execChannelSlotRead core ctx n d s) := by
  fun_cases execChannelSlotRead <;> simp [hs]

theorem execInstanceCommit_memOk {core ctx : Nat} (hs : Memory.wf s.mem) :
    OutMemOk (execInstanceCommit core ctx s) := by
  fun_cases execInstanceCommit <;> simp [hs]

theorem execInstanceTrap_memOk {core ctx : Nat} (hs : Memory.wf s.mem) : OutMemOk (execInstanceTrap core ctx s) := by
  fun_cases execInstanceTrap <;> simp [hs]

theorem execContextEnd_memOk {core ctx : Nat} (hs : Memory.wf s.mem) : OutMemOk (execContextEnd core ctx s) := by
  fun_cases execContextEnd <;> simp +zetaDelta [hs]

theorem execLoadReturn_memOk {core ctx k : Nat} (hs : Memory.wf s.mem) : OutMemOk (execLoadReturn core ctx k s) := by
  fun_cases execLoadReturn <;> simp [hs]

theorem execPageInRequest_memOk {core port slot : Nat} (hs : Memory.wf s.mem) :
    OutMemOk (execPageInRequest core port slot s) := by
  fun_cases execPageInRequest <;> simp +zetaDelta [hs]

theorem execAtomicPerform_memOk {core ctx k : Nat} (hs : Memory.wf s.mem) :
    OutMemOk (execAtomicPerform core ctx k s) := by
  fun_cases execAtomicPerform <;> simp +zetaDelta [hs]

theorem execShootdown_memOk {core : Nat} (hs : Memory.wf s.mem) : OutMemOk (execShootdown core s) := by
  fun_cases execShootdown <;> simp +zetaDelta [hs]

theorem execBarrierApply_memOk {core ctx k : Nat} (hs : Memory.wf s.mem) :
    OutMemOk (execBarrierApply core ctx k s) := by
  fun_cases execBarrierApply <;> simp +zetaDelta [hs]

theorem execBarwaitRelease_memOk {core ctx k : Nat} (hs : Memory.wf s.mem) :
    OutMemOk (execBarwaitRelease core ctx k s) := by
  fun_cases execBarwaitRelease <;> simp [hs]

theorem execCompletionTagTake_memOk {core ctx k : Nat} (hs : Memory.wf s.mem) :
    OutMemOk (execCompletionTagTake core ctx k s) := by
  fun_cases execCompletionTagTake <;> simp [hs]

theorem execPoolcutApply_memOk {core ctx k : Nat} (hs : Memory.wf s.mem) :
    OutMemOk (execPoolcutApply core ctx k s) := by
  fun_cases execPoolcutApply <;> simp +zetaDelta [hs]

theorem execPoolTransition_memOk {core : Nat} (hs : Memory.wf s.mem) : OutMemOk (execPoolTransition core s) := by
  fun_cases execPoolTransition <;> simp +zetaDelta [hs]

theorem execPoolmoveCompletion_memOk {core k : Nat} (hs : Memory.wf s.mem) :
    OutMemOk (execPoolmoveCompletion core k s) := by
  fun_cases execPoolmoveCompletion <;> simp +zetaDelta [hs]

theorem execMatrixCommandStart_memOk {core k : Nat} (hs : Memory.wf s.mem) :
    OutMemOk (execMatrixCommandStart core k s) := by
  fun_cases execMatrixCommandStart <;> simp [hs]

theorem execConsumedEvent_memOk {core k : Nat} (hs : Memory.wf s.mem) : OutMemOk (execConsumedEvent core k s) := by
  fun_cases execConsumedEvent <;> simp [hs]

theorem execScaleTokenArrival_memOk {core k : Nat} (hs : Memory.wf s.mem) :
    OutMemOk (execScaleTokenArrival core k s) := by
  fun_cases execScaleTokenArrival <;> simp +zetaDelta [hs]

theorem execStreamerAccept_memOk {core : Nat} (hs : Memory.wf s.mem) : OutMemOk (execStreamerAccept core s) := by
  fun_cases execStreamerAccept <;> simp [hs]

theorem execStreamerCompletion_memOk {core k : Nat} (hs : Memory.wf s.mem) :
    OutMemOk (execStreamerCompletion core k s) := by
  fun_cases execStreamerCompletion <;> simp [hs]

theorem execRateWindow_memOk {core ctx : Nat} (hs : Memory.wf s.mem) : OutMemOk (execRateWindow core ctx s) := by
  fun_cases execRateWindow <;> simp [hs]

theorem execGatherEntryIssue_memOk {core k : Nat} (hs : Memory.wf s.mem) :
    OutMemOk (execGatherEntryIssue core k s) := by
  fun_cases execGatherEntryIssue <;> simp [hs]

theorem execIntsectStreamSend_memOk {core k : Nat} (hs : Memory.wf s.mem) :
    OutMemOk (execIntsectStreamSend core k s) := by
  fun_cases execIntsectStreamSend <;> simp [hs]

theorem execSpaccApply_memOk {core ctx k : Nat} (hs : Memory.wf s.mem) : OutMemOk (execSpaccApply core ctx k s) := by
  unfold execSpaccApply
  dsimp only
  repeat' split
  all_goals simp [hs]

theorem execSpflushCompletion_memOk {core k : Nat} (hs : Memory.wf s.mem) :
    OutMemOk (execSpflushCompletion core k s) := by
  fun_cases execSpflushCompletion <;> simp [hs]

theorem execCollCompletion_memOk {core k : Nat} (hs : Memory.wf s.mem) : OutMemOk (execCollCompletion core k s) := by
  fun_cases execCollCompletion <;> simp [hs]

theorem execNetCompletion_memOk {core k status : Nat} {data : List Byte} (hs : Memory.wf s.mem) :
    OutMemOk (execNetCompletion core k status data s) := by
  fun_cases execNetCompletion <;> simp +zetaDelta [hs]

theorem execSendArrival_memOk {qp : Nat} {data : List Byte} (hs : Memory.wf s.mem) :
    OutMemOk (execSendArrival qp data s) := by
  fun_cases execSendArrival <;> simp [hs]

theorem execRdmaWriteArrival_memOk {qp : Nat} {addr : Word} {data : List Byte} (hs : Memory.wf s.mem) :
    OutMemOk (execRdmaWriteArrival qp addr data s) := by
  fun_cases execRdmaWriteArrival <;> simp [hs]

theorem execChannelEntryArrival_memOk {core ctx slot : Nat} (hs : Memory.wf s.mem) :
    OutMemOk (execChannelEntryArrival core ctx slot s) := by
  fun_cases execChannelEntryArrival <;> simp +zetaDelta [hs]

theorem execSeamCredit_memOk {core ctx slot : Nat} (hs : Memory.wf s.mem) :
    OutMemOk (execSeamCredit core ctx slot s) := by
  fun_cases execSeamCredit <;> simp [hs]

theorem execLinkFlitRetry_memOk {link : Nat} (hs : Memory.wf s.mem) : OutMemOk (execLinkFlitRetry link s) := by
  fun_cases execLinkFlitRetry <;> simp [hs]

theorem execLinkFailure_memOk {link : Nat} (hs : Memory.wf s.mem) : OutMemOk (execLinkFailure link s) := by
  fun_cases execLinkFailure
  simp [hs]

theorem execPartReply_memOk {cc part : Nat} {value : Word} (hs : Memory.wf s.mem) :
    OutMemOk (execPartReply cc part value s) := by
  fun_cases execPartReply <;> simp [hs]

theorem execResumeRetry_memOk {cc core ctx node : Nat} (hs : Memory.wf s.mem) :
    OutMemOk (execResumeRetry cc core ctx node s) := by
  fun_cases execResumeRetry <;> simp [hs]

theorem execTakeIn_memOk {core ctx : Nat} (hs : Memory.wf s.mem) : OutMemOk (execTakeIn core ctx s) := by
  fun_cases execTakeIn <;> simp +zetaDelta [hs]

theorem execTakeInTimeout_memOk {core ctx : Nat} (hs : Memory.wf s.mem) :
    OutMemOk (execTakeInTimeout core ctx s) := by
  fun_cases execTakeInTimeout <;> simp +zetaDelta [hs]

theorem execPanelGrowth_memOk {core ctx : Nat} (hs : Memory.wf s.mem) : OutMemOk (execPanelGrowth core ctx s) := by
  fun_cases execPanelGrowth <;> simp [hs]

theorem execCtxsaveCompletion_memOk {core k : Nat} (hs : Memory.wf s.mem) :
    OutMemOk (execCtxsaveCompletion core k s) := by
  fun_cases execCtxsaveCompletion <;> simp +zetaDelta [hs]

theorem execLaunchReserve_memOk {core ctx k : Nat} (hs : Memory.wf s.mem) :
    OutMemOk (execLaunchReserve core ctx k s) := by
  fun_cases execLaunchReserve <;> simp +zetaDelta [hs]

theorem execQDoor_memOk {cc part q : Nat} {addr : Word} (hs : Memory.wf s.mem) :
    OutMemOk (execQDoor cc part q addr s) := by
  fun_cases execQDoor <;> simp [hs]

theorem execPartWdraw_memOk {cc part : Nat} {key : Word} (hs : Memory.wf s.mem) :
    OutMemOk (execPartWdraw cc part key s) := by
  unfold execPartWdraw
  dsimp only
  repeat' split
  all_goals simp [hs]

theorem execPartKill_memOk {cc part : Nat} {value : Word} (hs : Memory.wf s.mem) :
    OutMemOk (execPartKill cc part value s) := by
  fun_cases execPartKill <;> simp [hs]

theorem execPartCoresWrite_memOk {cc part half : Nat} {value : Word} (hs : Memory.wf s.mem) :
    OutMemOk (execPartCoresWrite cc part half value s) := by
  fun_cases execPartCoresWrite <;> simp [hs]

theorem execPartShoot_memOk {cc part : Nat} {value : Word} (hs : Memory.wf s.mem) :
    OutMemOk (execPartShoot cc part value s) := by
  fun_cases execPartShoot <;> simp [hs]

theorem execPartPreq_memOk {cc part : Nat} {value : Word} (hs : Memory.wf s.mem) :
    OutMemOk (execPartPreq cc part value s) := by
  fun_cases execPartPreq <;> simp [hs]

theorem execCxRlim_memOk {cc core ctx : Nat} {value : Word} (hs : Memory.wf s.mem) :
    OutMemOk (execCxRlim cc core ctx value s) := by
  fun_cases execCxRlim <;> simp [hs]

theorem execQpCfg_memOk {cc qp : Nat} {value : Word} (hs : Memory.wf s.mem) : OutMemOk (execQpCfg cc qp value s) := by
  fun_cases execQpCfg <;> simp +zetaDelta [hs]

theorem execNetLaunch_memOk {qp : Nat} {data : List Byte} (hs : Memory.wf s.mem) :
    OutMemOk (execNetLaunch qp data s) := by
  fun_cases execNetLaunch <;> simp [hs]

theorem execNetWithdraw_memOk {qp : Nat} {data : List Byte} (hs : Memory.wf s.mem) :
    OutMemOk (execNetWithdraw qp data s) := by
  unfold execNetWithdraw
  dsimp only
  repeat' split
  all_goals simp [hs]

theorem execNetBadOp_memOk {qp : Nat} {data : List Byte} (hs : Memory.wf s.mem) :
    OutMemOk (execNetBadOp qp data s) := by
  fun_cases execNetBadOp <;> simp [hs]

theorem execRefreshRetry_memOk {stack hint : Nat} (hs : Memory.wf s.mem) :
    OutMemOk (execRefreshRetry stack hint s) := by
  fun_cases execRefreshRetry
  simp [hs]

theorem execRowRefresh_memOk {stack row : Nat} (hs : Memory.wf s.mem) : OutMemOk (execRowRefresh stack row s) := by
  fun_cases execRowRefresh
  simp [hs]

theorem execPatrolScrub_memOk {stack row : Nat} {found : Bool} (hs : Memory.wf s.mem) :
    OutMemOk (execPatrolScrub stack row found s) := by
  fun_cases execPatrolScrub <;> simp [hs]

theorem execCorrectableError_memOk {stack row : Nat} (hs : Memory.wf s.mem) :
    OutMemOk (execCorrectableError stack row s) := by
  fun_cases execCorrectableError
  simp [hs]

theorem execUncorrectableError_memOk {addr : Nat} (hs : Memory.wf s.mem) :
    OutMemOk (execUncorrectableError addr s) := by
  fun_cases execUncorrectableError <;> simp +zetaDelta [hs]

theorem execErrorWindowEnd_memOk {stack : Nat} (hs : Memory.wf s.mem) : OutMemOk (execErrorWindowEnd stack s) := by
  fun_cases execErrorWindowEnd
  simp [hs]

theorem execMcDue_memOk {cc stack : Nat} {value : Word} (hs : Memory.wf s.mem) :
    OutMemOk (execMcDue cc stack value s) := by
  fun_cases execMcDue <;> simp [hs]

theorem execMcCfg_memOk {cc stack : Nat} {value : Word} (hs : Memory.wf s.mem) :
    OutMemOk (execMcCfg cc stack value s) := by
  fun_cases execMcCfg <;> simp [hs]

theorem execBoot_memOk {m : Manifest} (hs : Memory.wf s.mem) : OutMemOk (execBoot m s) := by
  fun_cases execBoot <;> simp [hs]

theorem execNetworkRecoveryFrame_memOk {m : Manifest} (hs : Memory.wf s.mem) :
    OutMemOk (execNetworkRecoveryFrame m s) := by
  fun_cases execNetworkRecoveryFrame <;> simp [hs]

theorem execMgArb_memOk {cc k : Nat} {mask : Word} (hs : Memory.wf s.mem) : OutMemOk (execMgArb cc k mask s) := by
  fun_cases execMgArb <;> simp [hs]

theorem execMgAttest_memOk {cc : Nat} {addr : Word} (hs : Memory.wf s.mem) : OutMemOk (execMgAttest cc addr s) := by
  fun_cases execMgAttest <;> simp [hs]

theorem execAttestComplete_memOk (hs : Memory.wf s.mem) : OutMemOk (execAttestComplete s) := by
  fun_cases execAttestComplete <;> simp [hs]

theorem execPowerCapStep_memOk {now : Nat} (hs : Memory.wf s.mem) : OutMemOk (execPowerCapStep now s) := by
  fun_cases execPowerCapStep <;> simp [hs]

theorem execThermalStop_memOk {tj : Nat} (hs : Memory.wf s.mem) : OutMemOk (execThermalStop tj s) := by
  fun_cases execThermalStop
  simp [hs]

theorem execThermalRestart_memOk {tj : Nat} (hs : Memory.wf s.mem) : OutMemOk (execThermalRestart tj s) := by
  fun_cases execThermalRestart
  simp [hs]

theorem execRdmaReadRequest_memOk {qp : Nat} {addr : Word} {len : Nat} (hs : Memory.wf s.mem) :
    OutMemOk (execRdmaReadRequest qp addr len s) := by
  fun_cases execRdmaReadRequest <;> simp [hs]

theorem execPowerCapLift_memOk {now : Nat} (hs : Memory.wf s.mem) : OutMemOk (execPowerCapLift now s) := by
  fun_cases execPowerCapLift <;> simp [hs]

theorem State.reset_wf : Memory.wf State.reset.mem = true := by decide

theorem execTokenArrival_memOk {core k : Nat} (hs : Memory.wf s.mem) : OutMemOk (execTokenArrival core k s) := by
  unfold execTokenArrival
  dsimp only
  split
  · simp [hs]
  · split
    · simp [hs]
    · split
      · split
        · simp [hs]
        · split
          · rw [outMemOk_next, State.retireValues_mem]
            refine State.enterElem_wf _ _ _ ?_ _ ‹_›
            simp [hs]
          · simp [hs]
      · split <;> simp [hs]

theorem execWaitSatisfied_memOk {core ctx k : Nat} (hs : Memory.wf s.mem) :
    OutMemOk (execWaitSatisfied core ctx k s) := by
  have hd : Memory.wf (s.dropPend core ctx k).mem := by simp [hs]
  fun_cases execWaitSatisfied
  · simpa using getD_wf (State.waitAllRun_wf _ _ hd) hs
  · simpa using getD_wf (State.waitAnyRun_wf _ _ hd) hs
  · simp [hs]
  · simp [hs]

theorem execMatrixCompletion_memOk {core k : Nat} (hs : Memory.wf s.mem) :
    OutMemOk (execMatrixCompletion core k s) := by
  have he (j : Nat) (m : Cmd) (n : Nat) :
      Memory.wf (((s.endWrites core j n).cmdEmit m .data (.sc 0)).complete core m .none).mem := by
    simp [hs]
  fun_cases execMatrixCompletion
  any_goals simp +zetaDelta [hs]
  exact State.consumedTags_wf _ (by simpa using he _ _ _)

theorem execGatherReturn_memOk {core k : Nat} (hs : Memory.wf s.mem) : OutMemOk (execGatherReturn core k s) := by
  fun_cases execGatherReturn
  · simp [hs]
  · exact (outMemOk_next _).mpr (foldl_wf hs fun t o ht => State.gathReturn_wf _ _ ht)
  · simp [hs]

theorem execCollInstance_memOk {part group epoch : Nat} (hs : Memory.wf s.mem) :
    OutMemOk (execCollInstance part group epoch s) := by
  fun_cases execCollInstance
  · simp [hs]
  · simp [hs]
  · exact (outMemOk_next _).mpr (foldl_wf hs fun t o ht => by simp [ht])

theorem execKvappPerform_memOk {core ctx k : Nat} (hs : Memory.wf s.mem) :
    OutMemOk (execKvappPerform core ctx k s) := by
  fun_cases execKvappPerform
  any_goals simp +zetaDelta [hs]
  refine kvPerform_wf _ _ _ _ ?_ _ ‹_›
  simp +zetaDelta [hs]

theorem execSpecApply_memOk {core ctx k : Nat} (hs : Memory.wf s.mem) : OutMemOk (execSpecApply core ctx k s) := by
  have hf (vas : List Nat) : Memory.wf ((s.dropPend core ctx k).fillTlb core vas).mem := by simp [hs]
  fun_cases execSpecApply
  any_goals simp +zetaDelta [hs, hf]
  · exact fst_wf_of_eq ‹_› (specBegin_wf _ _ (by simp [hs]))
  · exact specCommit_wf (hf _) ‹_›

theorem execResumeTrap_memOk {cc core ctx node : Nat} (hs : Memory.wf s.mem) :
    OutMemOk (execResumeTrap cc core ctx node s) := by
  unfold execResumeTrap
  split
  · simp [hs]
  · split
    · simp [hs]
    · dsimp only
      rw [outMemOk_next, State.markInst_mem]
      refine foldl_wf (foldl_wf (foldl_wf (foldl_wf ?_ ?_) ?_) ?_) ?_
      · exact hs
      · exact fun t q ht => by simp [ht]
      · exact fun t q ht => by simp [ht]
      · exact fun t m ht => by simp [ht]
      · exact fun t m ht => State.cmdTraps_wf _ _ _ ht

theorem execCtxrestCompletion_memOk {core k : Nat} (hs : Memory.wf s.mem) :
    OutMemOk (execCtxrestCompletion core k s) := by
  fun_cases execCtxrestCompletion
  any_goals simp [hs]
  all_goals have hr := State.readSpan_wf _ _ _ hs _ ‹_›
  all_goals simp [hr]

theorem execDispatch_memOk {part : Nat} (hs : Memory.wf s.mem) : OutMemOk (execDispatch part s) := by
  fun_cases execDispatch
  any_goals simp +zetaDelta [hs]
  · simpa using State.tryCand_wf _ _ _ hs _ ‹_›
  · have hp (a : CandAt) : Memory.wf (s.preempt part a).mem := by simp [hs]
    exact State.firstBound_wf _ _ _ (hp _) _ ‹_›

theorem execResumeRestore_memOk {part : Nat} (hs : Memory.wf s.mem) : OutMemOk (execResumeRestore part s) := by
  fun_cases execResumeRestore
  any_goals simp [hs]
  simpa using State.dispatchStep_wf _ hs _ ‹_›

theorem execPartReset_memOk {cc part : Nat} {value : Word} (hs : Memory.wf s.mem) :
    OutMemOk (execPartReset cc part value s) := by
  fun_cases execPartReset
  · simp [hs]
  · simp [hs]
  · rw [outMemOk_next, State.wakeDoors_mem]
    refine State.tryFinishReset_wf _ (foldl_wf (foldl_wf hs fun t e ht => State.dropSaved_wf _ _ ht) fun t e ht => ?_)
    split <;> simp [ht]

theorem execShootdownComplete_memOk {part : Nat} (hs : Memory.wf s.mem) :
    OutMemOk (execShootdownComplete part s) := by
  fun_cases execShootdownComplete
  · simp [hs]
  · exact (outMemOk_next _).mpr (foldl_wf hs fun t c ht => State.shootSettle_wf _ _ ht)
  · simp [hs]

theorem execMgReset_memOk {cc : Nat} {value : Word} (hs : Memory.wf s.mem) : OutMemOk (execMgReset cc value s) := by
  fun_cases execMgReset
  · simp [hs]
  · simp [hs]
  · exact (outMemOk_next _).mpr State.reset_wf

end Sys2Proof.Machine
end

section
/-! SUPPORT. Memory keeps its canonical form through the long events and the accesses of the control cores (R389). -/

namespace Sys2Proof.Machine

variable {s : State}

theorem execSavedCommandCompletion_memOk {part n k status : Nat} (hs : Memory.wf s.mem) :
    OutMemOk (execSavedCommandCompletion part n k status s) := by
  fun_cases execSavedCommandCompletion
  · simp [hs]
  · simp [hs]
  · exact execCollCompletion_memOk hs
  · exact execNetCompletion_memOk hs

theorem State.devWrite_memOk {cc pa : Nat} {ok : Bool} {set : Dev → Dev} (hs : Memory.wf s.mem) :
    OutMemOk (s.devWrite cc pa ok set) := by
  fun_cases State.devWrite <;> simp [hs]

theorem State.partWrite_memOk {cc p pa : Nat} {ok : Bool} {set : Part → Part} (hs : Memory.wf s.mem) :
    OutMemOk (s.partWrite cc p pa ok set) := by
  fun_cases State.partWrite <;> simp [hs]

theorem State.queueWrite_memOk {cc p q pa : Nat} {ok : Bool} {set : Queue → Queue} (hs : Memory.wf s.mem) :
    OutMemOk (s.queueWrite cc p q pa ok set) := by
  fun_cases State.queueWrite <;> simp [hs]

theorem State.mcWrite_memOk {cc st pa : Nat} {ok : Bool} {set : MemCtl → MemCtl} (hs : Memory.wf s.mem) :
    OutMemOk (s.mcWrite cc st pa ok set) := by
  fun_cases State.mcWrite <;> simp [hs]

theorem State.qpWrite_memOk {cc n pa : Nat} {ok : Bool} {set : QP → QP} (hs : Memory.wf s.mem) :
    OutMemOk (s.qpWrite cc n pa ok set) := by
  fun_cases State.qpWrite <;> simp [hs]

theorem State.resumeWrite_memOk {cc c x : Nat} {v : Word} (hs : Memory.wf s.mem) :
    OutMemOk (s.resumeWrite cc c x v) := by
  fun_cases State.resumeWrite
  · exact execResumeRetry_memOk hs
  · exact execResumeTrap_memOk hs
  · simp [hs]

/-- A management write runs one of the events of the registers, writes a field of the device's own state, or answers
with an error response. -/
theorem State.writeReg_memOk {cc pa : Nat} {r : Reg} {v : Word} (hs : Memory.wf s.mem) :
    OutMemOk (s.writeReg cc pa r v) := by
  unfold State.writeReg
  cases r with
  | mgId | mgBoot | pwNow | pwTj | pwTrip => simp [hs]
  | flogIdx | vlogIdx | phead | flog | vlog | freg => simp [hs]
  | retire | rlog | link => simp [hs]
  | mgAdmin | pwCap => exact State.devWrite_memOk hs
  | owner | lock | privw | ttb | ptail => exact State.partWrite_memOk hs
  | qCore | qCfg => exact State.queueWrite_memOk hs
  | cecnt | uecnt | scrub => exact State.mcWrite_memOk hs
  | qpRemote | qpGid | qpMac => exact State.qpWrite_memOk hs
  | mgArb => exact execMgArb_memOk hs
  | mgAttest => exact execMgAttest_memOk hs
  | mgReset => exact execMgReset_memOk hs
  | cores => exact execPartCoresWrite_memOk hs
  | reset => exact execPartReset_memOk hs
  | shoot => exact execPartShoot_memOk hs
  | wdraw => exact execPartWdraw_memOk hs
  | kill => exact execPartKill_memOk hs
  | preq => exact execPartPreq_memOk hs
  | reply => exact execPartReply_memOk hs
  | qDoor => exact execQDoor_memOk hs
  | rlim => exact execCxRlim_memOk hs
  | resume => exact State.resumeWrite_memOk hs
  | mcCfg => exact execMcCfg_memOk hs
  | due => exact execMcDue_memOk hs
  | qpCfg => exact execQpCfg_memOk hs

theorem State.ccReg_memOk {cc pa : Nat} {op : CcOp} (hs : Memory.wf s.mem) : OutMemOk (s.ccReg cc pa op) := by
  fun_cases State.ccReg
  case case4 => split <;> simp [hs]
  case case5 =>
    rw [if_neg ‹¬CcOp.isLoad op = true›]
    exact State.writeReg_memOk (by split <;> simp [hs])
  all_goals simp [hs]

theorem execRegisterWrite_memOk {cc : Nat} {addr value : Word} (hs : Memory.wf s.mem) :
    OutMemOk (execRegisterWrite cc addr value s) := by
  fun_cases execRegisterWrite
  · exact State.writeReg_memOk hs
  · simp [hs]

theorem State.ccCond_mem_of_eq {t : State} {cc a n : Nat} {b : Bool} (h : s.ccCond cc a n = (b, t)) :
    t.mem = s.mem := by
  cases h
  rfl

theorem execControlCoreAccess_memOk {cc part : Nat} {addr : Word} {op : CcOp} (hs : Memory.wf s.mem) :
    OutMemOk (execControlCoreAccess cc part addr op s) := by
  unfold execControlCoreAccess
  dsimp only
  split
  · exact State.ccReg_memOk hs
  · split
    · simp [hs]
    · split
      · simp [hs]
      · split
        · split <;> simp [State.ccCond_mem_of_eq ‹_›, hs]
        · simp [hs]
        · split <;> simp [hs]

theorem execReplayPerform_memOk {core ctx k : Nat} (hs : Memory.wf s.mem) :
    OutMemOk (execReplayPerform core ctx k s) := by
  unfold execReplayPerform
  split
  next q hq =>
    split
    · extract_lets f place dst vas t
      split
      · simp [hs]
      · have ht : Memory.wf t.mem := by simp +zetaDelta [hs]
        clear_value t
        split
        · simp [ht]
        · split
          · simp [hs]
          · split
            next u got hu =>
            have hu := fst_wf_of_eq hu (by simp [ht])
            dsimp -zeta only
            extract_lets +onlyGivenNames t r
            have ht : Memory.wf t.mem := by simp +zetaDelta [hu]
            clear_value t r
            split
            · simp [ht]
            · split
              · simp [ht]
              · split
                · simp [ht]
                · extract_lets +onlyGivenNames copies vas u
                  have hu : Memory.wf u.mem := by simp +zetaDelta [ht]
                  clear_value u
                  split
                  · simp [hs]
                  · split
                    · simp [hu]
                    · split
                      · simp [hu]
                      · split
                        · simp [hs]
                        · have hc (sp : List Nat) : Memory.wf (u.acquireOf q sp).mem := by simp [hu]
                          dsimp only
                          split <;> simp [hc]
    · simp [hs]
  · simp [hs]

end Sys2Proof.Machine
end

section
/-! SUPPORT. Every step keeps memory in its canonical form (log 1): the dispatch, the moves of the agenda, the step. -/

namespace Sys2Proof.Machine

variable {s : State}

/-- Whatever instruction or event runs, memory keeps its form. -/
theorem exec_memOk (i : Instr) (hs : Memory.wf s.mem) : OutMemOk (exec i s) := by
  unfold exec
  cases i with
  | abs | bfext | bswap | clz | ctz | movhi | movi | neg | popc | sext | zext | fabs | fexp2 | flog2 | fneg | frcp
  | fround | frsq | fsqrt | qscale | vbcast | viota | vrmax | vrmin | vrsum | vscan | smaxinit =>
    exact unG_memOk hs
  | add | and | andn | bfins | div | lea | max | min | mul | mulh | or | rem | rol | ror | sar | sel | shl | shr
  | sub | xor | fadd | fclamp | fcpsgn | fma | fmax | fmin | fmul | fscale | fsub | cvt | vargmax | vargmin | vextr
  | vins | vselm | vshuf | vslide | vunzip | vzip | rng =>
    exact binG_memOk hs
  | mov | nop => exact passLeft_memOk hs
  | cmp | fcmp | pand | pnot | por | pxor => exact predG_memOk hs
  | isbub | isstop => exact kindTest_memOk hs
  | tagin | taginc | tagout | tagset => exact retag_memOk hs
  | br | bri | call | calli | halt | ret | yield => exact fireExit_memOk hs
  | aadd | aand | acas | afadd | amax | amin | aor | atset | axchg | axor | kvapp => exact startAtomic_memOk hs
  | ld | lds | ldx => exact startLoad_memOk hs
  | pfetch | reside => exact hint_memOk hs
  | baradd | bararr | barinit => exact startBarrier_memOk hs
  | cpy | cpyfill | cpyrot => exact startStream_memOk hs
  | attsc | mma | mmas => exact startMatrix_memOk hs
  | netrecv | netsend => exact startNet_memOk hs
  | merge => exact execMerge_memOk hs
  | null => exact execNull_memOk hs
  | ordjoin => exact execOrdjoin_memOk hs
  | reorder => exact execReorder_memOk hs
  | route => exact execRoute_memOk hs
  | sink => exact execSink_memOk hs
  | steer => exact execSteer_memOk hs
  | stop => exact execStop_memOk hs
  | strip => exact execStrip_memOk hs
  | tagget => exact execTagget_memOk hs
  | tagwin => exact execTagwin_memOk hs
  | fence => exact execFence_memOk hs
  | st => exact execSt_memOk hs
  | sts => exact execSts_memOk hs
  | stx => exact execStx_memOk hs
  | widen => exact execWiden_memOk hs
  | xlat => exact execXlat_memOk hs
  | barwait => exact execBarwait_memOk hs
  | cclr => exact execCclr_memOk hs
  | coll => exact execColl_memOk hs
  | ffr => exact execFfr_memOk hs
  | gath => exact execGath_memOk hs
  | intsect => exact execIntsect_memOk hs
  | poolcut => exact execPoolcut_memOk hs
  | poolmove => exact execPoolmove_memOk hs
  | poolqry => exact execPoolqry_memOk hs
  | scld => exact execScld_memOk hs
  | spacc => exact execSpacc_memOk hs
  | spflush => exact execSpflush_memOk hs
  | waitall => exact execWaitall_memOk hs
  | waitany => exact execWaitany_memOk hs
  | cfgload => exact execCfgload_memOk hs
  | collapse => exact execCollapse_memOk hs
  | ctxrest => exact execCtxrest_memOk hs
  | ctxsave => exact execCtxsave_memOk hs
  | eret => exact execEret_memOk hs
  | getc => exact execGetc_memOk hs
  | kvmap => exact execKvmap_memOk hs
  | launch => exact execLaunch_memOk hs
  | logrec => exact execLogrec_memOk hs
  | pfxcmp => exact execPfxcmp_memOk hs
  | replay => exact execReplay_memOk hs
  | setc => exact execSetc_memOk hs
  | setcFclr => exact execSetcFclr_memOk hs
  | skget => exact execSkget_memOk hs
  | skmix => exact execSkmix_memOk hs
  | skset => exact execSkset_memOk hs
  | smaxupd => exact execSmaxupd_memOk hs
  | specbeg => exact execSpecbeg_memOk hs
  | speccmt => exact execSpeccmt_memOk hs
  | specres => exact execSpecres_memOk hs
  | takein => exact execTakein_memOk hs
  | trap => exact execTrap_memOk hs
  | withdraw => exact execWithdraw_memOk hs
  | tokenArrival => exact execTokenArrival_memOk hs
  | illegal => exact execIllegal_memOk hs
  | managementPageWrite => exact execManagementPageWrite_memOk hs
  | reconfiguration => exact execReconfiguration_memOk hs
  | elementContextSwitch => exact execElementContextSwitch_memOk hs
  | blockFetch => exact execBlockFetch_memOk hs
  | bobbinAllocation => exact execBobbinAllocation_memOk hs
  | tagExhaust => exact execTagExhaust_memOk hs
  | matchStall => exact execMatchStall_memOk hs
  | frameRead => exact execFrameRead_memOk hs
  | channelSlotRead => exact execChannelSlotRead_memOk hs
  | instanceCommit => exact execInstanceCommit_memOk hs
  | instanceTrap => exact execInstanceTrap_memOk hs
  | contextEnd => exact execContextEnd_memOk hs
  | loadReturn => exact execLoadReturn_memOk hs
  | pageInRequest => exact execPageInRequest_memOk hs
  | atomicPerform => exact execAtomicPerform_memOk hs
  | shootdown => exact execShootdown_memOk hs
  | barrierApply => exact execBarrierApply_memOk hs
  | barwaitRelease => exact execBarwaitRelease_memOk hs
  | completionTagTake => exact execCompletionTagTake_memOk hs
  | waitSatisfied => exact execWaitSatisfied_memOk hs
  | poolcutApply => exact execPoolcutApply_memOk hs
  | poolTransition => exact execPoolTransition_memOk hs
  | poolmoveCompletion => exact execPoolmoveCompletion_memOk hs
  | matrixCommandStart => exact execMatrixCommandStart_memOk hs
  | matrixCompletion => exact execMatrixCompletion_memOk hs
  | consumedEvent => exact execConsumedEvent_memOk hs
  | scaleTokenArrival => exact execScaleTokenArrival_memOk hs
  | streamerAccept => exact execStreamerAccept_memOk hs
  | streamerCompletion => exact execStreamerCompletion_memOk hs
  | rateWindow => exact execRateWindow_memOk hs
  | gatherEntryIssue => exact execGatherEntryIssue_memOk hs
  | gatherReturn => exact execGatherReturn_memOk hs
  | intsectStreamSend => exact execIntsectStreamSend_memOk hs
  | spaccApply => exact execSpaccApply_memOk hs
  | spflushCompletion => exact execSpflushCompletion_memOk hs
  | collInstance => exact execCollInstance_memOk hs
  | collCompletion => exact execCollCompletion_memOk hs
  | netCompletion => exact execNetCompletion_memOk hs
  | sendArrival => exact execSendArrival_memOk hs
  | rdmaWriteArrival => exact execRdmaWriteArrival_memOk hs
  | kvappPerform => exact execKvappPerform_memOk hs
  | replayPerform => exact execReplayPerform_memOk hs
  | specApply => exact execSpecApply_memOk hs
  | channelEntryArrival => exact execChannelEntryArrival_memOk hs
  | seamCredit => exact execSeamCredit_memOk hs
  | linkFlitRetry => exact execLinkFlitRetry_memOk hs
  | linkFailure => exact execLinkFailure_memOk hs
  | partReply => exact execPartReply_memOk hs
  | resumeRetry => exact execResumeRetry_memOk hs
  | resumeTrap => exact execResumeTrap_memOk hs
  | takeIn => exact execTakeIn_memOk hs
  | takeInTimeout => exact execTakeInTimeout_memOk hs
  | panelGrowth => exact execPanelGrowth_memOk hs
  | ctxsaveCompletion => exact execCtxsaveCompletion_memOk hs
  | ctxrestCompletion => exact execCtxrestCompletion_memOk hs
  | savedCommandCompletion => exact execSavedCommandCompletion_memOk hs
  | dispatch => exact execDispatch_memOk hs
  | resumeRestore => exact execResumeRestore_memOk hs
  | launchReserve => exact execLaunchReserve_memOk hs
  | qDoor => exact execQDoor_memOk hs
  | partWdraw => exact execPartWdraw_memOk hs
  | partKill => exact execPartKill_memOk hs
  | partReset => exact execPartReset_memOk hs
  | partCoresWrite => exact execPartCoresWrite_memOk hs
  | partShoot => exact execPartShoot_memOk hs
  | shootdownComplete => exact execShootdownComplete_memOk hs
  | partPreq => exact execPartPreq_memOk hs
  | cxRlim => exact execCxRlim_memOk hs
  | qpCfg => exact execQpCfg_memOk hs
  | netLaunch => exact execNetLaunch_memOk hs
  | netWithdraw => exact execNetWithdraw_memOk hs
  | netBadOp => exact execNetBadOp_memOk hs
  | refreshRetry => exact execRefreshRetry_memOk hs
  | rowRefresh => exact execRowRefresh_memOk hs
  | patrolScrub => exact execPatrolScrub_memOk hs
  | correctableError => exact execCorrectableError_memOk hs
  | uncorrectableError => exact execUncorrectableError_memOk hs
  | errorWindowEnd => exact execErrorWindowEnd_memOk hs
  | mcDue => exact execMcDue_memOk hs
  | mcCfg => exact execMcCfg_memOk hs
  | boot => exact execBoot_memOk hs
  | networkRecoveryFrame => exact execNetworkRecoveryFrame_memOk hs
  | mgArb => exact execMgArb_memOk hs
  | mgAttest => exact execMgAttest_memOk hs
  | attestComplete => exact execAttestComplete_memOk hs
  | mgReset => exact execMgReset_memOk hs
  | powerCapStep => exact execPowerCapStep_memOk hs
  | thermalStop => exact execThermalStop_memOk hs
  | thermalRestart => exact execThermalRestart_memOk hs
  | registerWrite => exact execRegisterWrite_memOk hs
  | controlCoreAccess => exact execControlCoreAccess_memOk hs
  | rdmaReadRequest => exact execRdmaReadRequest_memOk hs
  | powerCapLift => exact execPowerCapLift_memOk hs

theorem finish_memOk {o : Out} (ho : OutMemOk o) : OutMemOk (finish o) := by
  cases o with
  | next t => simpa [finish] using ho
  | fault r => simp [finish]
  | refused r => simp [finish]

/-- What a move asks for is a state whose memory is in its canonical form, to run an instruction in or to end in. -/
def PrepMemOk : Prep → Prop
  | .run _ t => Memory.wf t.mem = true
  | .done t => Memory.wf t.mem = true
  | .noUnit => True

theorem prepFire_memOk {c e : Nat} (hs : Memory.wf s.mem) : PrepMemOk (prepFire s c e) := by
  unfold prepFire
  split
  · trivial
  · split
    · exact hs
    · split
      · exact hs
      · dsimp only
        split <;> exact hs

theorem prepRetry_memOk {c x k : Nat} (hs : Memory.wf s.mem) : PrepMemOk (prepRetry s c x k) := by
  fun_cases prepRetry <;> simp [PrepMemOk, hs]

theorem prepare_memOk (a : Act) (hs : Memory.wf s.mem) : PrepMemOk (prepare s a) := by
  unfold prepare
  cases a with
  | fire => exact prepFire_memOk hs
  | retry => exact prepRetry_memOk hs
  | evictLlc => exact hs
  | event =>
    dsimp only
    repeat' split
    all_goals simp [PrepMemOk, hs]
  | leave | cycle | evict | drain | part | sample | reveal =>
    dsimp only
    split <;> simp [PrepMemOk, hs]

theorem step_memOk (hs : Memory.wf s.mem) : OutMemOk (step s) := by
  unfold step
  split
  · simp [hs]
  next a rest h =>
    have hp := prepare_memOk (s := { s with agenda := rest }) a hs
    split <;> rename_i heq <;> rw [heq] at hp
    · exact finish_memOk (exec_memOk _ hp)
    · exact (outMemOk_next _).mpr hp
    · simp

/-- Settles O59: every writer of memory keeps the canonical form, so every step does. -/
theorem memoryStaysCanonical : Obligations.MemoryStaysCanonical := by
  unfold Obligations.MemoryStaysCanonical
  intro s t hs ht
  exact step_memOk hs t ht

end Sys2Proof.Machine
end

section
/-! SUPPORT. The state after reset (O60): its units are all alike. -/

namespace Sys2Proof.Machine

theorem Elem.reset_shaped : Elem.reset.shaped := ⟨rfl, rfl, by decide⟩

theorem Ctx.reset_shaped : Ctx.reset.shaped := ⟨rfl, rfl, rfl⟩

theorem Core.reset_shaped : Core.reset.shaped := by
  refine ⟨rfl, rfl, rfl, rfl, fun v hv => ?_, fun e he => ?_⟩
  · rw [List.eq_of_mem_replicate hv]
    exact Ctx.reset_shaped
  · rw [List.eq_of_mem_replicate he]
    exact Elem.reset_shaped

theorem State.reset_shaped : State.reset.shaped := by
  refine ⟨rfl, rfl, rfl, rfl, rfl, rfl, fun k hk => ?_⟩
  rw [List.eq_of_mem_replicate hk]
  exact Core.reset_shaped

/-- No partition holds a core after reset, so none is held twice. -/
theorem State.reset_coresOnce : State.reset.coresOnce := by
  intro c p q _ _ _ hp
  simp [bit, Part.reset] at hp

theorem Core.reset_barriers {b : Barrier} (hb : b ∈ Core.reset.barriers) : b.count = 0 ∧ b.fired = false := by
  rw [List.eq_of_mem_replicate hb]
  exact ⟨rfl, rfl⟩

theorem Core.reset_ctags {g : Ctag} (hg : g ∈ Core.reset.ctags) : g.st = .free := by
  rw [List.eq_of_mem_replicate hg]

theorem Core.reset_elems {e : Elem} (he : e ∈ Core.reset.elems) : e.present = 0 ∧ e.store = [] ∧ e.ovf = [] := by
  rw [List.eq_of_mem_replicate he]
  exact ⟨rfl, rfl, rfl⟩

theorem Core.reset_cxs {v : Ctx} (hv : v ∈ Core.reset.cxs) : v.phase = .free := by
  rw [List.eq_of_mem_replicate hv]
  rfl

theorem Part.reset_queues {q : Queue} (hq : q ∈ Part.reset.queues) : q.units = [] := by
  rw [List.eq_of_mem_replicate hq]
  rfl

theorem State.reset_parts {p : Part} (hp : p ∈ State.reset.parts) :
    p.images = [] ∧ p.pool = [] ∧ ∀ q ∈ p.queues, q.units = [] := by
  rw [List.eq_of_mem_replicate hp]
  exact ⟨rfl, rfl, fun _ => Part.reset_queues⟩

/-- Placing an instruction leaves memory as it is. -/
theorem State.withFetchWord_mem (s : State) (nbits w : Nat) : (s.withFetchWord nbits w).mem = s.mem := rfl

/-- Settles O60: every unit of a kind holds the same values after reset. -/
theorem resetState : Obligations.ResetState := by
  unfold Obligations.ResetState
  refine ⟨State.reset_wf, State.reset_shaped, State.reset_coresOnce, rfl, fun c _ => ?_, fun p _ => ?_, fun n _ => ?_,
    fun _ => State.reset_parts, rfl, rfl, State.withFetchWord_mem _⟩
  · rw [State.reset_core]
    exact ⟨rfl, fun _ => Core.reset_barriers, fun _ => Core.reset_ctags, rfl, rfl, fun _ => Core.reset_elems,
      fun _ => Core.reset_cxs⟩
  · rw [State.reset_part]
    rfl
  · rw [State.reset_mc]
    rfl

end Sys2Proof.Machine
end

section
/-! SUPPORT. A step runs what the agenda's first move asks for (R57, R58, R401; logs 2, 68, 81, 89). -/

namespace Sys2Proof.Machine

/-! ## A step by what its move prepares -/

theorem unselect_finish (o : Out) : Unselect o (finish o) := by
  refine ⟨?_, ?_, ?_⟩ <;> rintro _ rfl <;> rfl

section
variable {s t : State} {a : Act} {rest : List Act} {i : Instr}

theorem step_of_run (ha : s.agenda = a :: rest) (hp : prepare { s with agenda := rest } a = .run i t) :
    step s = finish (exec i t) := by
  unfold step
  rw [ha]
  dsimp only
  rw [hp]

theorem unselect_step_of_run (ha : s.agenda = a :: rest) (hp : prepare { s with agenda := rest } a = .run i t) :
    Unselect (exec i t) (step s) := by
  rw [step_of_run ha hp]
  exact unselect_finish _

theorem step_of_done (ha : s.agenda = a :: rest) (hp : prepare { s with agenda := rest } a = .done t) :
    step s = .next t := by
  unfold step
  rw [ha]
  dsimp only
  rw [hp]

theorem step_of_noUnit (ha : s.agenda = a :: rest) (hp : prepare { s with agenda := rest } a = .noUnit) :
    step s = .fault .noSuchUnit := by
  unfold step
  rw [ha]
  dsimp only
  rw [hp]

theorem step_of_nil (ha : s.agenda = []) : step s = .next (propose s) := by
  unfold step
  rw [ha]

end

/-! ## What an element picks is decoded from its page (R57, R58, R107) -/

theorem mem_of_pickReady {l : List Ready} {r : Ready} (h : pickReady l = some r) : r ∈ l := by
  induction l generalizing r with
  | nil => cases h
  | cons a l ih =>
    unfold pickReady at h
    split at h
    · cases h
      exact List.mem_cons_self
    next q hq =>
      split at h
      · cases h
        exact List.mem_cons_of_mem _ (ih hq)
      · cases h
        exact List.mem_cons_self

theorem decodeWord_of_wordCheck {img : List Word} {b : Blk} {w : Word} {i : Instr} (h : wordCheck img b w = .ok i) :
    decodeWord w = .ok i := by
  revert h
  fun_cases wordCheck <;> intro h <;> cases h
  assumption

theorem decodeWord_of_elemWord {img : List Word} {b : Blk} {k : Nat} {w : Word} {i : Instr}
    (h : elemWord img b k w = .ok i) : decodeWord w = .ok i := by
  unfold elemWord at h
  split at h
  · cases h
  · split at h
    · cases h
    · exact decodeWord_of_wordCheck h

/-- A ready set carries the handler flag, sequence number and index that it is looked up for, and its instruction is what
the word on the page decodes to. -/
theorem State.readyAt_spec {s : State} {c x e : Nat} {o : Inst} {idx : Nat} {r : Ready}
    (h : s.readyAt c x e o idx = some r) : r.hdl = o.hdl ∧ r.seq = o.seq ∧ r.idx = idx ∧
      ∀ i : Instr, r.what = .ok i → decodeWord (s.pageWord c x o idx) = .ok i := by
  unfold State.readyAt at h
  dsimp only at h
  repeat' split at h
  all_goals cases h
  all_goals refine ⟨rfl, rfl, rfl, fun i hi => ?_⟩
  all_goals cases hi
  all_goals exact decodeWord_of_elemWord ‹_›

theorem State.setsOn_spec {s : State} {c x e : Nat} {r : Ready} (h : r ∈ s.setsOn c x e) :
    ∃ o ∈ (s.cx c x).firing, s.readyAt c x e o r.idx = some r := by
  unfold State.setsOn at h
  dsimp only at h
  split at h
  · cases h
  · obtain ⟨o, ho, hr⟩ := List.mem_flatMap.mp h
    refine ⟨o, ho, ?_⟩
    split at hr
    · cases hr
    · obtain ⟨k, -, hk⟩ := List.mem_filterMap.mp hr
      split at hk
      · obtain ⟨-, -, hidx, -⟩ := State.readyAt_spec hk
        rwa [hidx]
      · cases hk

theorem State.pick_spec {s : State} {c e : Nat} {r : Ready} (h : s.pick c e = some r) :
    ∃ o ∈ (s.cx c (s.elem c e).present).firing, s.readyAt c (s.elem c e).present e o r.idx = some r := by
  unfold State.pick at h
  dsimp only at h
  split at h
  · cases h
  · have hr := mem_of_pickReady h
    unfold State.readyOn at hr
    split at hr
    · cases hr
    · exact State.setsOn_spec hr

/-- What an element picks belongs to one that fires in the present context, and is decoded from the word on its page. -/
theorem State.pick_decodes {s : State} {c e : Nat} {r : Ready} {i : Instr} (h : s.pick c e = some r)
    (hi : r.what = .ok i) :
    ∃ o : Inst, o ∈ (s.cx c (s.elem c e).present).firing ∧ o.hdl = r.hdl ∧ o.seq = r.seq ∧
      decodeWord (s.pageWord c (s.elem c e).present o r.idx) = .ok i := by
  obtain ⟨o, ho, hat⟩ := State.pick_spec h
  obtain ⟨hhdl, hseq, -, hword⟩ := State.readyAt_spec hat
  exact ⟨o, ho, hhdl.symm, hseq.symm, hword i hi⟩

/-! ## Firing -/

theorem elemOk_of_hasElem {s : State} {c e : Nat} (h : HasElem s c e) : elemOk s c e = true := by
  obtain ⟨hc, he⟩ := h
  simp [elemOk, coreOk, hc, he]

section
variable {s : State} {c e : Nat} {r : Ready}

theorem prepFire_of_ok {i : Instr} (he : HasElem s c e) (ht : s.dev.thermal = false) (hr : s.pick c e = some r)
    (hw : r.what = .ok i) :
    prepFire s c e = .run i { (s.takeSet c e r).1 with sel := some (s.takeSet c e r).2 } := by
  simp [prepFire, elemOk_of_hasElem he, ht, hr, hw]

theorem prepFire_of_error {w : Word} (he : HasElem s c e) (ht : s.dev.thermal = false) (hr : s.pick c e = some r)
    (hw : r.what = .error w) :
    prepFire s c e = .run (.illegal w) { (s.takeSet c e r).1 with sel := some (s.takeSet c e r).2 } := by
  simp [prepFire, elemOk_of_hasElem he, ht, hr, hw]

theorem prepFire_of_none (he : HasElem s c e) (ht : s.dev.thermal = false) (hr : s.pick c e = none) :
    prepFire s c e = .done s := by
  simp [prepFire, elemOk_of_hasElem he, ht, hr]

end

/-! ## Retries and events -/

theorem prepRetry_of_held {s : State} {c x k : Nat} {q : Pend} (hc : c < s.cores.length) (hx : x < (s.core c).cxs.length)
    (ht : s.dev.thermal = false) (hq : (s.cx c x).pend[k]? = some q) (hh : q.st = .held) :
    prepRetry s c x k = .run q.i { s.dropPend c x k with sel := some q.f } := by
  simp [prepRetry, ctxOk, coreOk, hc, hx, ht, hq, hh]

section
variable {s : State} {i : Instr}

theorem prepare_event_run (hu : i.unitsOk = true) (ht : coreStep i = true → s.dev.thermal = false) :
    prepare s (.event i) = .run i { s with sel := none } := by
  cases hc : coreStep i <;> simp_all [prepare]

theorem prepare_event_stands (hc : coreStep i = true) (hu : i.unitsOk = true) (ht : s.dev.thermal = true) :
    prepare s (.event i) = .done s := by
  simp [prepare, hc, hu, ht]

theorem prepare_event_noUnit (hu : i.unitsOk = false) : prepare s (.event i) = .noUnit := by
  simp [prepare, hu]

end

/-! ## A cycle of a core changes that core alone (R20) -/

/-- Nothing but the contexts of core `c` differs. -/
def CxsOnly (c : Nat) (s t : State) : Prop := ∃ l : List Ctx, t = s.setCore c { s.core c with cxs := l }

section
variable {s t u : State} {c : Nat}

theorem CxsOnly.refl (s : State) (c : Nat) : CxsOnly c s s := ⟨(s.core c).cxs, (s.setCore_core c).symm⟩

theorem CxsOnly.trans (h : CxsOnly c s t) (h' : CxsOnly c t u) : CxsOnly c s u := by
  obtain ⟨l, rfl⟩ := h
  obtain ⟨l', rfl⟩ := h'
  refine ⟨l', ?_⟩
  rw [State.setCore_setCore]
  by_cases hc : c < s.cores.length
  · rw [State.core_setCore_self _ _ _ hc]
  · simp [State.setCore_absent, Nat.le_of_not_lt hc]

theorem CxsOnly.setCx (s : State) (c x : Nat) (v : Ctx) : CxsOnly c s (s.setCx c x v) := ⟨_, rfl⟩

theorem CxsOnly.foldl {α : Type} {f : State → α → State} (hf : ∀ t a, CxsOnly c t (f t a)) (l : List α)
    (s : State) : CxsOnly c s (l.foldl f s) := by
  induction l generalizing s with
  | nil => exact .refl s c
  | cons a l ih => exact (hf s a).trans (ih _)

theorem cxsOnly_noteLive (s : State) (c x : Nat) : CxsOnly c s (s.noteLive c x) := by
  unfold State.noteLive
  dsimp only
  split
  · exact .refl s c
  · exact .setCx ..

theorem cxsOnly_retireValues (s : State) (c x : Nat) : CxsOnly c s (s.retireValues c x) := by
  refine (cxsOnly_noteLive s c x).trans ?_
  unfold State.retireValues
  dsimp only
  split
  · exact .refl _ c
  · exact .setCx ..

/-- Once values have retired in its contexts, the core ticks. -/
theorem State.cycle_spec (ht : s.dev.thermal = false) :
    ∃ t : State, CxsOnly c s t ∧ s.cycle c = t.setCore c (t.tickCore c (t.core c)) := by
  refine ⟨_, CxsOnly.foldl (fun t x => ?_) (List.range 8) s, by simp only [State.cycle, ht]; rfl⟩
  split
  · exact .refl t c
  · exact cxsOnly_retireValues t c x

theorem State.cycle_of_thermal (ht : s.dev.thermal = true) : s.cycle c = s := by
  simp [State.cycle, ht]

theorem State.cycle_cores_of_thermal (ht : s.dev.thermal = true) : (s.cycle c).cores = s.cores := by
  rw [State.cycle_of_thermal ht]

theorem State.tickCore_cycle (s : State) (c : Nat) (k : Core) : (s.tickCore c k).cycle = k.cycle + 1 := by
  unfold State.tickCore
  split <;> rfl

theorem State.tickCore_fabric (s : State) (c : Nat) (k : Core) : (s.tickCore c k).fabric = k.fabric := by
  unfold State.tickCore
  split <;> rfl

theorem State.tickCore_cmds (s : State) (c : Nat) (k : Core) : (s.tickCore c k).cmds = k.cmds := by
  unfold State.tickCore
  split <;> rfl

/-- A cycle writes one core. -/
theorem State.cycle_eq_setCore (s : State) (c : Nat) : ∃ k : Core, s.cycle c = s.setCore c k := by
  cases ht : s.dev.thermal with
  | true => exact ⟨s.core c, by rw [State.cycle_of_thermal ht, State.setCore_core]⟩
  | false =>
    obtain ⟨t, ⟨l, rfl⟩, h⟩ := State.cycle_spec ht
    exact ⟨_, h.trans (State.setCore_setCore ..)⟩

@[simp] theorem State.cycle_parts (s : State) (c : Nat) : (s.cycle c).parts = s.parts := by
  obtain ⟨k, hk⟩ := s.cycle_eq_setCore c
  rw [hk, State.setCore_parts]

@[simp] theorem State.cycle_agenda (s : State) (c : Nat) : (s.cycle c).agenda = s.agenda := by
  obtain ⟨k, hk⟩ := s.cycle_eq_setCore c
  rw [hk, State.setCore_agenda]

theorem State.getElem?_cycle_ne {d : Nat} (h : d ≠ c) : (s.cycle c).cores[d]? = s.cores[d]? := by
  obtain ⟨k, hk⟩ := s.cycle_eq_setCore c
  simp [hk, State.setCore, List.getElem?_set_ne h.symm]

/-- The counter of the core advances; its fabric and its commands stay. -/
theorem State.core_cycle_self (hc : c < s.cores.length) (ht : s.dev.thermal = false) :
    ((s.cycle c).core c).cycle = (s.core c).cycle + 1 ∧ ((s.cycle c).core c).fabric = (s.core c).fabric ∧
      ((s.cycle c).core c).cmds = (s.core c).cmds := by
  obtain ⟨t, ⟨l, rfl⟩, h⟩ := State.cycle_spec ht
  rw [h, State.core_setCore_self _ _ _ (by simpa using hc), State.core_setCore_self _ _ _ hc]
  exact ⟨State.tickCore_cycle .., State.tickCore_fabric .., State.tickCore_cmds ..⟩

theorem prepare_cycle (hc : c < s.cores.length) : prepare s (.cycle c) = .done (s.cycle c) := by
  simp [prepare, coreOk, hc]

theorem cycle_mem_moves (hc : c < s.cores.length) : Act.cycle c ∈ s.moves := by
  simp [State.moves, hc]

end

/-- Settles O56: what the first move of the agenda prepares decides the step, kind by kind of move. -/
theorem stepRunsDecoded : Obligations.StepRunsDecoded := by
  unfold Obligations.StepRunsDecoded
  refine ⟨fun s rest c e ha he ht => ⟨fun r hr => ⟨fun i hi => ⟨?_, ?_⟩, fun w hw => ?_⟩, fun hn => ?_⟩,
    fun s rest i ha => ⟨fun hu ht => ?_, fun hc hu ht => ?_, fun hu => ?_⟩,
    fun s rest c x k q ha hc hx ht hq hh => ?_, fun s rest c ha hc => ?_, fun s ha => ?_⟩
  · exact unselect_step_of_run ha (prepFire_of_ok he ht hr hi)
  · exact State.pick_decodes hr hi
  · exact unselect_step_of_run ha (prepFire_of_error he ht hr hw)
  · exact step_of_done ha (prepFire_of_none he ht hn)
  · exact unselect_step_of_run ha (prepare_event_run hu ht)
  · exact step_of_done ha (prepare_event_stands hc hu ht)
  · exact step_of_noUnit ha (prepare_event_noUnit hu)
  · exact unselect_step_of_run ha (prepRetry_of_held hc hx ht hq hh)
  · exact ⟨State.cycle { s with agenda := rest } c, step_of_done ha (prepare_cycle hc), State.cycle_mem ..,
      State.cycle_parts .., State.cycle_agenda .., State.core_cycle_self (s := { s with agenda := rest }) hc,
      State.cycle_cores_of_thermal (s := { s with agenda := rest }),
      fun d => State.getElem?_cycle_ne⟩
  · exact ⟨propose s, step_of_nil ha, rfl, rfl, rfl, rfl, fun c hc => cycle_mem_moves (s := s.tick) hc⟩

end Sys2Proof.Machine
end

section
/-! SUPPORT. The encoder and the decoder of instruction words agree (R67-R75, R107). -/

namespace Sys2Proof

/-! ## Codes of the fields -/

@[simp] theorem PMode.ofCode?_code (p : PMode) : PMode.ofCode? p.code = some p := by cases p <;> rfl
@[simp] theorem RType.ofNat?_code (t : RType) : RType.ofNat? t.code = some t := by cases t <;> rfl
@[simp] theorem Fmt.ofNat?_code (f : Fmt) : Fmt.ofNat? f.code = some f := by cases f <;> rfl
@[simp] theorem Scope.ofCode?_code (c : Scope) : Scope.ofCode? c.code = some c := by cases c <;> rfl
@[simp] theorem BlkKind.ofCode_code (k : BlkKind) : BlkKind.ofCode k.code = k := by cases k <;> rfl
@[simp] theorem Action.ofCode?_code (a : Action) : Action.ofCode? a.code = some a := by cases a <;> rfl

theorem PMode.code_lt (p : PMode) : p.code < 4 := by cases p <;> decide
theorem RType.code_lt (t : RType) : t.code < 16 := by cases t <;> decide
theorem Fmt.code_lt (f : Fmt) : f.code < 16 := by cases f <;> decide
theorem Scope.code_lt (c : Scope) : c.code < 8 := by cases c <;> decide
theorem BlkKind.code_lt (k : BlkKind) : k.code < 4 := by cases k <;> decide
theorem Action.code_lt (a : Action) : a.code < 8 := by cases a <;> decide

theorem PMode.code_of_ofCode? {n : Nat} {p : PMode} (h : PMode.ofCode? n = some p) : p.code = n := by
  revert h
  fun_cases PMode.ofCode? <;> intro h <;> cases h <;> rfl

theorem RType.code_of_ofNat? {n : Nat} {t : RType} (h : RType.ofNat? n = some t) : t.code = n := by
  revert h
  fun_cases RType.ofNat? <;> intro h <;> cases h <;> rfl

theorem Fmt.code_of_ofNat? {n : Nat} {f : Fmt} (h : Fmt.ofNat? n = some f) : f.code = n := by
  revert h
  fun_cases Fmt.ofNat? <;> intro h <;> cases h <;> rfl

theorem Scope.code_of_ofCode? {n : Nat} {c : Scope} (h : Scope.ofCode? n = some c) : c.code = n := by
  revert h
  fun_cases Scope.ofCode? <;> intro h <;> cases h <;> rfl

theorem Action.code_of_ofCode? {n : Nat} {a : Action} (h : Action.ofCode? n = some a) : a.code = n := by
  revert h
  fun_cases Action.ofCode? <;> intro h <;> cases h <;> rfl

theorem BlkKind.code_ofCode {n : Nat} (h : n < 4) : (BlkKind.ofCode n).code = n := by
  interval_cases n <;> rfl

/-! ## Targets (R69) -/

theorem Target.code_lt (t : Target) : t.code < 512 := by
  cases t with
  | none => decide
  | left i | right i | pred i | write i | chan i =>
    have := i.isLt
    simp only [Target.code]
    omega

section
variable (i : Nat)

/-- The slot selects the kind of target at index `i`. -/
theorem Target.ofCode?_left : Target.ofCode? (4 * i) = some (.left (BitVec.ofNat 7 i)) := by
  rw [Target.ofCode?, show 4 * i / 4 = i by omega, show 4 * i % 4 = 0 by omega]
  rfl

theorem Target.ofCode?_right : Target.ofCode? (4 * i + 1) = some (.right (BitVec.ofNat 7 i)) := by
  rw [Target.ofCode?, show (4 * i + 1) / 4 = i by omega, show (4 * i + 1) % 4 = 1 by omega]
  rfl

theorem Target.ofCode?_pred : Target.ofCode? (4 * i + 2) = some (.pred (BitVec.ofNat 7 i)) := by
  rw [Target.ofCode?, show (4 * i + 2) / 4 = i by omega, show (4 * i + 2) % 4 = 2 by omega]
  rfl

theorem Target.ofCode?_out : Target.ofCode? (4 * i + 3) =
    if i < 32 then some (.write (BitVec.ofNat 5 i)) else if i < 64 then Option.none
    else if i < 127 then some (.chan (BitVec.ofNat 6 (i - 64))) else some .none := by
  rw [Target.ofCode?, show (4 * i + 3) / 4 = i by omega, show (4 * i + 3) % 4 = 3 by omega]
  rfl

end

/-- Every target but channel 63 is read back from its code. -/
theorem Target.ofCode?_code {t : Target} (h : t.canonical = true) : Target.ofCode? t.code = some t := by
  cases t with
  | none => rfl
  | left i => simp [Target.code, Target.ofCode?_left]
  | right i => simp [Target.code, Target.ofCode?_right]
  | pred i => simp [Target.code, Target.ofCode?_pred]
  | write k => simp [Target.code, Target.ofCode?_out, k.isLt]
  | chan c =>
    have hne : c ≠ 63 := by simpa [Target.canonical] using h
    have hlt : c.toNat < 63 := by bv_omega
    simp [Target.code, Target.ofCode?_out, show ¬ 64 + c.toNat < 32 by omega, show 64 + c.toNat < 127 by omega]

/-- A field that names a target is that target's code. -/
theorem Target.code_of_ofCode? {c : Nat} {t : Target} (hc : c < 512) (h : Target.ofCode? c = some t) : t.code = c := by
  obtain ⟨i, r, hr, rfl⟩ : ∃ i r, r < 4 ∧ c = 4 * i + r := ⟨c / 4, c % 4, by omega, by omega⟩
  interval_cases r
  · cases (Target.ofCode?_left i).symm.trans h
    simp only [Target.code, BitVec.toNat_ofNat]
    omega
  · cases (Target.ofCode?_right i).symm.trans h
    simp only [Target.code, BitVec.toNat_ofNat]
    omega
  · cases (Target.ofCode?_pred i).symm.trans h
    simp only [Target.code, BitVec.toNat_ofNat]
    omega
  · rw [Target.ofCode?_out] at h
    split_ifs at h <;> cases h <;> simp only [Target.code, BitVec.toNat_ofNat] <;> omega

/-! ## A word as its head and its operation field (R67) -/

/-- The word with these head fields and an operation field of 35 bits. -/
def packWord (op : Nat) (pm : PMode) (t0 t1 low : Nat) : Word := BitVec.ofNat 64 (encodeHead op pm t0 t1 + low)

theorem bits_lt {n : Nat} (x : BitVec n) (hi lo : Nat) : bits x hi lo < 2 ^ (hi + 1 - lo) := Nat.mod_lt _ (Nat.two_pow_pos _)

/-- A bit is the field of that one bit. -/
theorem toNat_bit {n : Nat} (x : BitVec n) (i : Nat) : (bit x i).toNat = bits x i i := by
  rw [bit, bits, Nat.testBit, Nat.add_sub_cancel_left, pow_one, Nat.one_and_eq_mod_two]
  rcases Nat.mod_two_eq_zero_or_one (x.toNat >>> i) with h | h <;> simp [h]

theorem bit_eq_of_bits {n : Nat} {x : BitVec n} {i : Nat} {b : Bool} (h : bits x i i = b.toNat) : bit x i = b := by
  have hn : (bit x i).toNat = b.toNat := (toNat_bit x i).trans h
  revert hn
  cases bit x i <;> cases b <;> decide

section
variable {op t0 t1 low : Nat} {pm : PMode} (hop : op < 512) (h0 : t0 < 512) (h1 : t1 < 512) (hl : low < 2 ^ 35)
include hop h0 h1 hl

theorem toNat_packWord : (packWord op pm t0 t1 low).toNat = encodeHead op pm t0 t1 + low := by
  have := pm.code_lt
  rw [packWord, BitVec.toNat_ofNat, encodeHead]
  omega

theorem bits_packWord_op : bits (packWord op pm t0 t1 low) 63 55 = op := by
  have := pm.code_lt
  rw [bits, toNat_packWord hop h0 h1 hl, Nat.shiftRight_eq_div_pow, encodeHead]
  omega

theorem bits_packWord_pm : bits (packWord op pm t0 t1 low) 54 53 = pm.code := by
  have := pm.code_lt
  rw [bits, toNat_packWord hop h0 h1 hl, Nat.shiftRight_eq_div_pow, encodeHead]
  omega

theorem bits_packWord_t0 : bits (packWord op pm t0 t1 low) 52 44 = t0 := by
  rw [bits, toNat_packWord hop h0 h1 hl, Nat.shiftRight_eq_div_pow, encodeHead]
  omega

theorem bits_packWord_t1 : bits (packWord op pm t0 t1 low) 43 35 = t1 := by
  rw [bits, toNat_packWord hop h0 h1 hl, Nat.shiftRight_eq_div_pow, encodeHead]
  omega

theorem bits_packWord_targets : bits (packWord op pm t0 t1 low) 52 35 = t0 * 2 ^ 9 + t1 := by
  rw [bits, toNat_packWord hop h0 h1 hl, Nat.shiftRight_eq_div_pow, encodeHead]
  omega

theorem bits_packWord_low : bits (packWord op pm t0 t1 low) 34 0 = low := by
  rw [bits, toNat_packWord hop h0 h1 hl, Nat.shiftRight_eq_div_pow, encodeHead]
  omega

end

/-- A field of the operation field. -/
theorem bits_of_low {w : Word} {hi lo : Nat} (h : hi ≤ 34) : bits w hi lo = bits w 34 0 / 2 ^ lo % 2 ^ (hi + 1 - lo) := by
  rcases Nat.lt_or_ge hi lo with hlo | hlo
  · simp [bits, Nat.sub_eq_zero_of_le hlo, Nat.mod_one]
  · have hd : 2 ^ (hi + 1) ∣ 2 ^ 35 := pow_dvd_pow 2 (by omega)
    simp only [bits, Nat.shiftRight_eq_div_pow, pow_zero, Nat.div_one, ← Nat.mod_mul_right_div_self _ (2 ^ lo)]
    rw [← pow_add, show lo + (hi + 1 - lo) = hi + 1 by omega, Nat.mod_mod_of_dvd _ hd]

/-- Every word is its head fields and its operation field. -/
theorem packWord_bits (w : Word) {pm : PMode} (h : pm.code = bits w 54 53) :
    packWord (bits w 63 55) pm (bits w 52 44) (bits w 43 35) (bits w 34 0) = w := by
  refine BitVec.eq_of_toNat_eq ?_
  have := w.isLt
  rw [packWord, encodeHead, BitVec.toNat_ofNat, h]
  simp only [bits, Nat.shiftRight_eq_div_pow]
  omega

/-! ## Operation fields (R71, R72, R74, R75) -/

/-- The operation field of format G. -/
def GWord.low (w : GWord) : Nat := w.ty.code * 2 ^ 31 + w.mode.toNat * 2 ^ 28 + w.imm.toNat * 2 ^ 27 + w.value.toNat

/-- The operation field of format M. -/
def MWord.low (w : MWord) : Nat :=
  w.ty.code * 2 ^ 31 + w.fmt.code * 2 ^ 27 + w.lsid.toNat * 2 ^ 22 + w.scope.code * 2 ^ 19 + w.order.toNat * 2 ^ 17 +
    w.offset.toNat

/-- The operation field of format E. -/
def EWord.low (w : EWord) : Nat := w.port.toNat * 2 ^ 29 + w.ctag.toNat * 2 ^ 23 + w.mods.toNat

/-- The operation field of format X. -/
def XWord.low (w : XWord) : Nat :=
  w.kind.code * 2 ^ 33 + w.action.code * 2 ^ 30 + w.field.toNat * 2 ^ 27 + w.target.toNat

theorem GWord.low_lt (w : GWord) : w.low < 2 ^ 35 := by
  have := w.ty.code_lt
  have := w.imm.toNat_lt
  unfold GWord.low
  omega

theorem MWord.low_lt (w : MWord) : w.low < 2 ^ 35 := by
  have := w.ty.code_lt
  have := w.fmt.code_lt
  have := w.scope.code_lt
  unfold MWord.low
  omega

theorem EWord.low_lt (w : EWord) : w.low < 2 ^ 35 := by
  unfold EWord.low
  omega

theorem XWord.low_lt (w : XWord) : w.low < 2 ^ 35 := by
  have := w.kind.code_lt
  have := w.action.code_lt
  unfold XWord.low
  omega

section
variable {i : Instr}

theorem encode_g {w : GWord} (h : i.form = .g w) : encode i = packWord i.opcode w.pm w.t0.code w.t1.code w.low := by
  simp only [encode, h, packWord, GWord.low, Nat.add_assoc]

theorem encode_m {w : MWord} (h : i.form = .m w) : encode i = packWord i.opcode w.pm w.t0.code w.t1.code w.low := by
  simp only [encode, h, packWord, MWord.low, Nat.add_assoc]

theorem encode_e {w : EWord} (h : i.form = .e w) : encode i = packWord i.opcode w.pm w.t0.code w.t1.code w.low := by
  simp only [encode, h, packWord, EWord.low, Nat.add_assoc]

theorem encode_x {w : XWord} (h : i.form = .x w) : encode i = packWord i.opcode w.pm 0x1FF 0x1FF w.low := by
  simp only [encode, h, packWord, XWord.low, Nat.add_assoc]

/-! ## Opcodes and constructors (R68, R100, R101, R349) -/

theorem Instr.opcode_lt (i : Instr) : i.opcode < 512 := by
  unfold Instr.opcode
  split <;> decide

theorem mkSetc_form (w : GWord) : (mkSetc w).form = .g w ∧ (mkSetc w).opcode = 0x1CE := by
  unfold mkSetc
  split <;> exact ⟨rfl, rfl⟩

theorem form_of_gBuild {op : Nat} {mk : GWord → Instr} (h : gBuild op = some mk) (w : GWord) :
    (mk w).form = .g w ∧ (mk w).opcode = op := by
  revert h
  fun_cases gBuild
  case case97 => intro h; cases h; exact mkSetc_form w
  all_goals intro h
  all_goals cases h
  all_goals exact ⟨rfl, rfl⟩

theorem form_of_mBuild {op : Nat} {mk : MWord → Instr} (h : mBuild op = some mk) (w : MWord) :
    (mk w).form = .m w ∧ (mk w).opcode = op := by
  revert h
  fun_cases mBuild <;> intro h <;> cases h <;> exact ⟨rfl, rfl⟩

theorem form_of_eBuild {op : Nat} {mk : EWord → Instr} (h : eBuild op = some mk) (w : EWord) :
    (mk w).form = .e w ∧ (mk w).opcode = op := by
  revert h
  fun_cases eBuild <;> intro h <;> cases h <;> exact ⟨rfl, rfl⟩

theorem form_of_xBuild {op : Nat} {mk : XWord → Instr} (h : xBuild op = some mk) (w : XWord) :
    (mk w).form = .x w ∧ (mk w).opcode = op := by
  revert h
  fun_cases xBuild <;> intro h <;> cases h <;> exact ⟨rfl, rfl⟩

theorem codeOk_setc (w : GWord) :
    (Instr.setc w).codeOk = (gAccept w (· == .b64) 1 (some true) && [4, 6, 7, 8].contains w.value.toNat) := rfl

theorem codeOk_setcFclr (w : GWord) :
    (Instr.setcFclr w).codeOk = (gAccept w (· == .b64) 1 (some true) && w.value == 17) := rfl

/-- SETC of register 17 is the row SETC_FCLR alone. -/
theorem mkSetc_of_setc {w : GWord} (h : (Instr.setc w).codeOk = true) : mkSetc w = .setc w := by
  refine if_neg fun hv => ?_
  rw [codeOk_setc, beq_iff_eq.mp hv] at h
  simp at h

theorem mkSetc_of_setcFclr {w : GWord} (h : (Instr.setcFclr w).codeOk = true) : mkSetc w = .setcFclr w := by
  rw [codeOk_setcFclr, Bool.and_eq_true] at h
  exact if_pos h.2

theorem gBuild_opcode {w : GWord} (h : i.form = .g w) (hc : i.codeOk = true) :
    ∃ mk, gBuild i.opcode = some mk ∧ mk w = i := by
  cases i
  case setc => cases h; exact ⟨mkSetc, rfl, mkSetc_of_setc hc⟩
  case setcFclr => cases h; exact ⟨mkSetc, rfl, mkSetc_of_setcFclr hc⟩
  all_goals cases h <;> exact ⟨_, rfl, rfl⟩

theorem mBuild_opcode {w : MWord} (h : i.form = .m w) :
    gBuild i.opcode = none ∧ ∃ mk, mBuild i.opcode = some mk ∧ mk w = i := by
  cases i <;> cases h <;> exact ⟨rfl, _, rfl, rfl⟩

theorem eBuild_opcode {w : EWord} (h : i.form = .e w) :
    gBuild i.opcode = none ∧ mBuild i.opcode = none ∧ ∃ mk, eBuild i.opcode = some mk ∧ mk w = i := by
  cases i <;> cases h <;> exact ⟨rfl, rfl, _, rfl, rfl⟩

theorem xBuild_opcode {w : XWord} (h : i.form = .x w) :
    gBuild i.opcode = none ∧ mBuild i.opcode = none ∧ eBuild i.opcode = none ∧
      ∃ mk, xBuild i.opcode = some mk ∧ mk w = i := by
  cases i <;> cases h <;> exact ⟨rfl, rfl, rfl, _, rfl, rfl⟩

end

/-! ## Dispatch over the formats (R68) -/

section
variable {w : Word} {i : Instr}

theorem decodeWord_g {mk : GWord → Instr} (h : gBuild (bits w 63 55) = some mk) : decodeWord w = decodeG mk w := by
  simp [decodeWord, h]

theorem decodeWord_m {mk : MWord → Instr} (hg : gBuild (bits w 63 55) = none) (h : mBuild (bits w 63 55) = some mk) :
    decodeWord w = decodeM mk w := by
  simp [decodeWord, hg, h]

theorem decodeWord_e {mk : EWord → Instr} (hg : gBuild (bits w 63 55) = none) (hm : mBuild (bits w 63 55) = none)
    (h : eBuild (bits w 63 55) = some mk) : decodeWord w = decodeE mk w := by
  simp [decodeWord, hg, hm, h]

theorem decodeWord_x {mk : XWord → Instr} (hg : gBuild (bits w 63 55) = none) (hm : mBuild (bits w 63 55) = none)
    (he : eBuild (bits w 63 55) = none) (h : xBuild (bits w 63 55) = some mk) : decodeWord w = decodeX mk w := by
  simp [decodeWord, hg, hm, he, h]

/-- A word that decodes is of the format whose table holds its opcode. -/
theorem decodeWord_cases (h : decodeWord w = .ok i) :
    (∃ mk, gBuild (bits w 63 55) = some mk ∧ decodeG mk w = .ok i) ∨
    (∃ mk, mBuild (bits w 63 55) = some mk ∧ decodeM mk w = .ok i) ∨
    (∃ mk, eBuild (bits w 63 55) = some mk ∧ decodeE mk w = .ok i) ∨
    (∃ mk, xBuild (bits w 63 55) = some mk ∧ decodeX mk w = .ok i) := by
  revert h
  fun_cases decodeWord <;> intro h
  · exact .inl ⟨_, ‹_›, h⟩
  · exact .inr (.inl ⟨_, ‹_›, h⟩)
  · exact .inr (.inr (.inl ⟨_, ‹_›, h⟩))
  · exact .inr (.inr (.inr ⟨_, ‹_›, h⟩))
  · cases h

/-! ## Steps 2 to 4 of R107 -/

theorem finishDecode_ok {j : Instr} {tbad : Bool} : finishDecode j tbad = .ok i ↔
    j = i ∧ tbad = false ∧ i.codeOk = true ∧ i.bitsOk = true ∧ i.targetsOk = true := by
  unfold finishDecode
  constructor
  · intro h
    split_ifs at h with hc hb ht
    cases h
    simp_all
  · rintro ⟨rfl, rfl, hc, hb, ht⟩
    simp [hc, hb, ht]

theorem Instr.wf_iff : i.wf = true ↔
    i.isWord = true ∧ i.codeOk = true ∧ i.bitsOk = true ∧ i.targetsOk = true := by
  simp [Instr.wf, and_assoc]

theorem targetsOf_eq {t0 t1 : Target} (h0 : Target.ofCode? (bits w 52 44) = some t0)
    (h1 : Target.ofCode? (bits w 43 35) = some t1) : targetsOf w = (t0, t1, false) := by
  simp [targetsOf, h0, h1]

/-- Target fields without a reserved index hold the codes of their targets. -/
theorem targetsOf_code {t0 t1 : Target} (h : targetsOf w = (t0, t1, false)) :
    t0.code = bits w 52 44 ∧ t1.code = bits w 43 35 := by
  have hsome := congrArg (·.2.2) h
  simp only [targetsOf, Bool.or_eq_false_iff, Option.isNone_eq_false_iff, Option.isSome_iff_exists] at hsome
  obtain ⟨⟨u0, h0⟩, ⟨u1, h1⟩⟩ := hsome
  cases (targetsOf_eq h0 h1).symm.trans h
  exact ⟨Target.code_of_ofCode? (bits_lt w 52 44) h0, Target.code_of_ofCode? (bits_lt w 43 35) h1⟩

end

/-! ## Decoding a format whose fields are known -/

section
variable {w : Word} {pm : PMode} {t0 t1 : Target} {tbad : Bool} (hp : PMode.ofCode? (bits w 54 53) = some pm)
include hp

theorem decodeG_of {mk : GWord → Instr} {ty : RType} (hty : RType.ofNat? (bits w 34 31) = some ty)
    (ht : targetsOf w = (t0, t1, tbad)) :
    decodeG mk w =
      finishDecode (mk ⟨pm, t0, t1, ty, BitVec.ofNat 3 (bits w 30 28), bit w 27, BitVec.ofNat 27 (bits w 26 0)⟩) tbad := by
  unfold decodeG
  rw [hp, hty, ht]

theorem decodeM_of {mk : MWord → Instr} {ty : RType} {fmt : Fmt} {scope : Scope}
    (hty : RType.ofNat? (bits w 34 31) = some ty) (hfmt : Fmt.ofNat? (bits w 30 27) = some fmt)
    (hsc : Scope.ofCode? (bits w 21 19) = some scope) (ht : targetsOf w = (t0, t1, tbad)) :
    decodeM mk w = finishDecode (mk ⟨pm, t0, t1, ty, fmt, BitVec.ofNat 5 (bits w 26 22), scope,
      BitVec.ofNat 2 (bits w 18 17), BitVec.ofNat 17 (bits w 16 0)⟩) tbad := by
  unfold decodeM
  rw [hp, hty, hfmt, hsc, ht]

theorem decodeE_of {mk : EWord → Instr} (ht : targetsOf w = (t0, t1, tbad)) :
    decodeE mk w = finishDecode (mk ⟨pm, t0, t1, BitVec.ofNat 6 (bits w 34 29), BitVec.ofNat 6 (bits w 28 23),
      BitVec.ofNat 23 (bits w 22 0)⟩) tbad := by
  unfold decodeE
  rw [hp, ht]

theorem decodeX_of {mk : XWord → Instr} {action : Action} (ha : Action.ofCode? (bits w 32 30) = some action) :
    decodeX mk w = finishDecode (mk ⟨pm, BlkKind.ofCode (bits w 34 33), action, BitVec.ofNat 3 (bits w 29 27),
      BitVec.ofNat 27 (bits w 26 0)⟩) (bits w 52 35 != 0x3FFFF) := by
  unfold decodeX
  rw [hp, ha]

end

/-! ## Encoding, then decoding -/

section
variable {i : Instr}

theorem canonical_of_targetsOk_g {v : GWord} (h : i.form = .g v) (ht : i.targetsOk = true) :
    v.t0.canonical = true ∧ v.t1.canonical = true := by
  simp only [Instr.targetsOk, h, Bool.and_eq_true] at ht
  exact ht.1

theorem canonical_of_targetsOk_m {v : MWord} (h : i.form = .m v) (ht : i.targetsOk = true) :
    v.t0.canonical = true ∧ v.t1.canonical = true := by
  simp only [Instr.targetsOk, h, Bool.and_eq_true] at ht
  exact ht.1

theorem canonical_of_targetsOk_e {v : EWord} (h : i.form = .e v) (ht : i.targetsOk = true) :
    v.t0.canonical = true ∧ v.t1.canonical = true := by
  simpa only [Instr.targetsOk, h, Bool.and_eq_true] using ht

end

/-! ### The fields of an operation field -/

section
variable {w : Word}

theorem fields_g {v : GWord} (hl : bits w 34 0 = v.low) : bits w 34 31 = v.ty.code ∧ bits w 30 28 = v.mode.toNat ∧
    bits w 27 27 = v.imm.toNat ∧ bits w 26 0 = v.value.toNat := by
  have := v.ty.code_lt
  have := v.imm.toNat_lt
  refine ⟨?_, ?_, ?_, ?_⟩
  all_goals rw [bits_of_low (by decide), hl, GWord.low]
  all_goals omega

theorem fields_m {v : MWord} (hl : bits w 34 0 = v.low) : bits w 34 31 = v.ty.code ∧ bits w 30 27 = v.fmt.code ∧
    bits w 26 22 = v.lsid.toNat ∧ bits w 21 19 = v.scope.code ∧ bits w 18 17 = v.order.toNat ∧
    bits w 16 0 = v.offset.toNat := by
  have := v.ty.code_lt
  have := v.fmt.code_lt
  have := v.scope.code_lt
  refine ⟨?_, ?_, ?_, ?_, ?_, ?_⟩
  all_goals rw [bits_of_low (by decide), hl, MWord.low]
  all_goals omega

theorem fields_e {v : EWord} (hl : bits w 34 0 = v.low) :
    bits w 34 29 = v.port.toNat ∧ bits w 28 23 = v.ctag.toNat ∧ bits w 22 0 = v.mods.toNat := by
  refine ⟨?_, ?_, ?_⟩
  all_goals rw [bits_of_low (by decide), hl, EWord.low]
  all_goals omega

theorem fields_x {v : XWord} (hl : bits w 34 0 = v.low) : bits w 34 33 = v.kind.code ∧ bits w 32 30 = v.action.code ∧
    bits w 29 27 = v.field.toNat ∧ bits w 26 0 = v.target.toNat := by
  have := v.kind.code_lt
  have := v.action.code_lt
  refine ⟨?_, ?_, ?_, ?_⟩
  all_goals rw [bits_of_low (by decide), hl, XWord.low]
  all_goals omega

/-! ### A word with the fields of an instruction decodes to it -/

theorem decodeG_of_low (mk : GWord → Instr) {v : GWord} (hp : bits w 54 53 = v.pm.code)
    (ht : targetsOf w = (v.t0, v.t1, false)) (hl : bits w 34 0 = v.low) : decodeG mk w = finishDecode (mk v) false := by
  obtain ⟨hty, hmode, himm, hvalue⟩ := fields_g hl
  rw [decodeG_of (hp ▸ PMode.ofCode?_code _) (hty ▸ RType.ofNat?_code _) ht, hmode, bit_eq_of_bits himm, hvalue]
  simp only [BitVec.ofNat_toNat, BitVec.setWidth_eq]

theorem decodeM_of_low (mk : MWord → Instr) {v : MWord} (hp : bits w 54 53 = v.pm.code)
    (ht : targetsOf w = (v.t0, v.t1, false)) (hl : bits w 34 0 = v.low) : decodeM mk w = finishDecode (mk v) false := by
  obtain ⟨hty, hfmt, hlsid, hscope, horder, hoffset⟩ := fields_m hl
  rw [decodeM_of (hp ▸ PMode.ofCode?_code _) (hty ▸ RType.ofNat?_code _) (hfmt ▸ Fmt.ofNat?_code _)
    (hscope ▸ Scope.ofCode?_code _) ht, hlsid, horder, hoffset]
  simp only [BitVec.ofNat_toNat, BitVec.setWidth_eq]

theorem decodeE_of_low (mk : EWord → Instr) {v : EWord} (hp : bits w 54 53 = v.pm.code)
    (ht : targetsOf w = (v.t0, v.t1, false)) (hl : bits w 34 0 = v.low) : decodeE mk w = finishDecode (mk v) false := by
  obtain ⟨hport, hctag, hmods⟩ := fields_e hl
  rw [decodeE_of (hp ▸ PMode.ofCode?_code _) ht, hport, hctag, hmods]
  simp only [BitVec.ofNat_toNat, BitVec.setWidth_eq]

theorem decodeX_of_low (mk : XWord → Instr) {v : XWord} (hp : bits w 54 53 = v.pm.code)
    (ht : bits w 52 35 = 0x3FFFF) (hl : bits w 34 0 = v.low) : decodeX mk w = finishDecode (mk v) false := by
  obtain ⟨hkind, haction, hfield, htarget⟩ := fields_x hl
  rw [decodeX_of (hp ▸ PMode.ofCode?_code _) (haction ▸ Action.ofCode?_code _), hkind, hfield, htarget, ht]
  simp only [BitVec.ofNat_toNat, BitVec.setWidth_eq, BlkKind.ofCode_code]
  rfl

end

/-- What a packed word with codes of targets holds below its opcode. -/
theorem head_packWord {op : Nat} (hop : op < 512) {pm : PMode} {t0 t1 : Target} {low : Nat} (hl : low < 2 ^ 35)
    (h0 : t0.canonical = true) (h1 : t1.canonical = true) :
    let w := packWord op pm t0.code t1.code low
    bits w 54 53 = pm.code ∧ targetsOf w = (t0, t1, false) ∧ bits w 34 0 = low := by
  refine ⟨bits_packWord_pm hop t0.code_lt t1.code_lt hl, targetsOf_eq ?_ ?_, bits_packWord_low hop t0.code_lt t1.code_lt hl⟩
  · rw [bits_packWord_t0 hop t0.code_lt t1.code_lt hl, Target.ofCode?_code h0]
  · rw [bits_packWord_t1 hop t0.code_lt t1.code_lt hl, Target.ofCode?_code h1]

section
variable {i : Instr}

/-- The opcode of an instruction's word. -/
theorem bits_encode_op (h : i.isWord = true) : bits (encode i) 63 55 = i.opcode := by
  cases hf : i.form with
  | g v => rw [encode_g hf, bits_packWord_op i.opcode_lt v.t0.code_lt v.t1.code_lt v.low_lt]
  | m v => rw [encode_m hf, bits_packWord_op i.opcode_lt v.t0.code_lt v.t1.code_lt v.low_lt]
  | e v => rw [encode_e hf, bits_packWord_op i.opcode_lt v.t0.code_lt v.t1.code_lt v.low_lt]
  | x v => rw [encode_x hf, bits_packWord_op i.opcode_lt (by decide) (by decide) v.low_lt]
  | step => simp [Instr.isWord, hf] at h

/-- The word of a well-formed instruction decodes to it. -/
theorem decodeWord_encode (h : i.wf = true) : decodeWord (encode i) = .ok i := by
  obtain ⟨hword, hcode, hbits, htargets⟩ := Instr.wf_iff.mp h
  have hop := bits_encode_op hword
  have fin : finishDecode i false = .ok i := finishDecode_ok.mpr ⟨rfl, rfl, hcode, hbits, htargets⟩
  cases hf : i.form with
  | g v =>
    obtain ⟨mk, hg, hmk⟩ := gBuild_opcode hf hcode
    obtain ⟨h0, h1⟩ := canonical_of_targetsOk_g hf htargets
    obtain ⟨hpm, ht, hl⟩ := head_packWord i.opcode_lt (pm := v.pm) v.low_lt h0 h1
    rw [decodeWord_g (hop ▸ hg), encode_g hf, decodeG_of_low mk hpm ht hl, hmk, fin]
  | m v =>
    obtain ⟨hg, mk, hm, hmk⟩ := mBuild_opcode hf
    obtain ⟨h0, h1⟩ := canonical_of_targetsOk_m hf htargets
    obtain ⟨hpm, ht, hl⟩ := head_packWord i.opcode_lt (pm := v.pm) v.low_lt h0 h1
    rw [decodeWord_m (hop ▸ hg) (hop ▸ hm), encode_m hf, decodeM_of_low mk hpm ht hl, hmk, fin]
  | e v =>
    obtain ⟨hg, hm, mk, he, hmk⟩ := eBuild_opcode hf
    obtain ⟨h0, h1⟩ := canonical_of_targetsOk_e hf htargets
    obtain ⟨hpm, ht, hl⟩ := head_packWord i.opcode_lt (pm := v.pm) v.low_lt h0 h1
    rw [decodeWord_e (hop ▸ hg) (hop ▸ hm) (hop ▸ he), encode_e hf, decodeE_of_low mk hpm ht hl, hmk, fin]
  | x v =>
    obtain ⟨hg, hm, he, mk, hx, hmk⟩ := xBuild_opcode hf
    have h1FF : 0x1FF < 512 := by decide
    rw [decodeWord_x (hop ▸ hg) (hop ▸ hm) (hop ▸ he) (hop ▸ hx), encode_x hf,
      decodeX_of_low mk (bits_packWord_pm i.opcode_lt h1FF h1FF v.low_lt)
        (bits_packWord_targets i.opcode_lt h1FF h1FF v.low_lt) (bits_packWord_low i.opcode_lt h1FF h1FF v.low_lt), hmk, fin]
  | step => simp [Instr.isWord, hf] at hword

theorem decodeWord_of_encode {w : Word} (h : i.wf = true) (hw : encode i = w) : decodeWord w = .ok i :=
  hw ▸ decodeWord_encode h

end

/-! ## Decoding, then encoding -/

section
variable {w : Word} {i : Instr}

/-- What a decoded format G word is made of. -/
theorem decodeG_ok {mk : GWord → Instr} (h : decodeG mk w = .ok i) : ∃ v : GWord, finishDecode (mk v) false = .ok i ∧
    v.pm.code = bits w 54 53 ∧ v.t0.code = bits w 52 44 ∧ v.t1.code = bits w 43 35 ∧ v.low = bits w 34 0 := by
  unfold decodeG at h
  split at h
  next pm ty hp hty =>
    rcases ht : targetsOf w with ⟨t0, t1, tbad⟩
    rw [ht] at h
    obtain ⟨-, rfl, -⟩ := finishDecode_ok.mp h
    obtain ⟨h0, h1⟩ := targetsOf_code ht
    refine ⟨_, h, PMode.code_of_ofCode? hp, h0, h1, ?_⟩
    simp only [GWord.low, toNat_bit, RType.code_of_ofNat? hty, BitVec.toNat_ofNat]
    simp only [bits, Nat.shiftRight_eq_div_pow]
    omega
  · cases h

theorem decodeM_ok {mk : MWord → Instr} (h : decodeM mk w = .ok i) : ∃ v : MWord, finishDecode (mk v) false = .ok i ∧
    v.pm.code = bits w 54 53 ∧ v.t0.code = bits w 52 44 ∧ v.t1.code = bits w 43 35 ∧ v.low = bits w 34 0 := by
  unfold decodeM at h
  split at h
  next pm ty fmt scope hp hty hfmt hsc =>
    rcases ht : targetsOf w with ⟨t0, t1, tbad⟩
    rw [ht] at h
    obtain ⟨-, rfl, -⟩ := finishDecode_ok.mp h
    obtain ⟨h0, h1⟩ := targetsOf_code ht
    refine ⟨_, h, PMode.code_of_ofCode? hp, h0, h1, ?_⟩
    simp only [MWord.low, RType.code_of_ofNat? hty, Fmt.code_of_ofNat? hfmt, Scope.code_of_ofCode? hsc,
      BitVec.toNat_ofNat]
    simp only [bits, Nat.shiftRight_eq_div_pow]
    omega
  · cases h

theorem decodeE_ok {mk : EWord → Instr} (h : decodeE mk w = .ok i) : ∃ v : EWord, finishDecode (mk v) false = .ok i ∧
    v.pm.code = bits w 54 53 ∧ v.t0.code = bits w 52 44 ∧ v.t1.code = bits w 43 35 ∧ v.low = bits w 34 0 := by
  unfold decodeE at h
  split at h
  next pm hp =>
    rcases ht : targetsOf w with ⟨t0, t1, tbad⟩
    rw [ht] at h
    obtain ⟨-, rfl, -⟩ := finishDecode_ok.mp h
    obtain ⟨h0, h1⟩ := targetsOf_code ht
    refine ⟨_, h, PMode.code_of_ofCode? hp, h0, h1, ?_⟩
    simp only [EWord.low, BitVec.toNat_ofNat]
    simp only [bits, Nat.shiftRight_eq_div_pow]
    omega
  · cases h

/-- Both target fields of a decoded format X word are those of no target (R70). -/
theorem decodeX_ok {mk : XWord → Instr} (h : decodeX mk w = .ok i) : ∃ v : XWord, finishDecode (mk v) false = .ok i ∧
    v.pm.code = bits w 54 53 ∧ bits w 52 44 = 0x1FF ∧ bits w 43 35 = 0x1FF ∧ v.low = bits w 34 0 := by
  unfold decodeX at h
  split at h
  next pm action hp ha =>
    obtain ⟨-, hbad, -⟩ := finishDecode_ok.mp h
    rw [hbad] at h
    have ht : bits w 52 35 = 0x3FFFF := by simpa using hbad
    refine ⟨_, h, PMode.code_of_ofCode? hp, ?_, ?_, ?_⟩
    · simp only [bits, Nat.shiftRight_eq_div_pow] at ht ⊢
      omega
    · simp only [bits, Nat.shiftRight_eq_div_pow] at ht ⊢
      omega
    · simp only [XWord.low, BlkKind.code_ofCode (bits_lt w 34 33), Action.code_of_ofCode? ha, BitVec.toNat_ofNat]
      simp only [bits, Nat.shiftRight_eq_div_pow]
      omega
  · cases h

/-- A word that decodes is the word of a well-formed instruction. -/
theorem encode_of_decodeWord (h : decodeWord w = .ok i) : i.wf = true ∧ encode i = w := by
  have wf_of {j : Instr} (hfin : finishDecode j false = .ok i) (hj : j.form ≠ .step) : j = i ∧ i.wf = true := by
    obtain ⟨rfl, -, hc, hb, ht⟩ := finishDecode_ok.mp hfin
    exact ⟨rfl, Instr.wf_iff.mpr ⟨bne_iff_ne.mpr hj, hc, hb, ht⟩⟩
  rcases decodeWord_cases h with ⟨mk, hb, h⟩ | ⟨mk, hb, h⟩ | ⟨mk, hb, h⟩ | ⟨mk, hb, h⟩
  · obtain ⟨v, hfin, hp, h0, h1, hl⟩ := decodeG_ok h
    obtain ⟨hform, hop⟩ := form_of_gBuild hb v
    obtain ⟨rfl, hwf⟩ := wf_of hfin (by simp [hform])
    exact ⟨hwf, by rw [encode_g hform, hop, h0, h1, hl, packWord_bits w hp]⟩
  · obtain ⟨v, hfin, hp, h0, h1, hl⟩ := decodeM_ok h
    obtain ⟨hform, hop⟩ := form_of_mBuild hb v
    obtain ⟨rfl, hwf⟩ := wf_of hfin (by simp [hform])
    exact ⟨hwf, by rw [encode_m hform, hop, h0, h1, hl, packWord_bits w hp]⟩
  · obtain ⟨v, hfin, hp, h0, h1, hl⟩ := decodeE_ok h
    obtain ⟨hform, hop⟩ := form_of_eBuild hb v
    obtain ⟨rfl, hwf⟩ := wf_of hfin (by simp [hform])
    exact ⟨hwf, by rw [encode_e hform, hop, h0, h1, hl, packWord_bits w hp]⟩
  · obtain ⟨v, hfin, hp, h0, h1, hl⟩ := decodeX_ok h
    obtain ⟨hform, hop⟩ := form_of_xBuild hb v
    obtain ⟨rfl, hwf⟩ := wf_of hfin (by simp [hform])
    exact ⟨hwf, by simpa only [encode_x hform, hop, hl, h0, h1] using packWord_bits w hp⟩

end

/-! ## The bytes of a word (R2) -/

/-- The bytes of a word, read back, are the word. -/
theorem bytesToNat_wordBytes (w : Word) : bytesToNat (wordBytes w) = w.toNat := by
  have := w.isLt
  simp only [wordBytes, List.range_succ, List.range_zero, List.nil_append, List.cons_append, List.map_cons,
    List.map_nil, bytesToNat, BitVec.toNat_ofNat, Nat.shiftRight_eq_div_pow]
  omega

/-- Decoding the bytes of a word decodes the word. -/
theorem decode_wordBytes {w : Word} {i : Instr} (h : decodeWord w = .ok i) : decode (wordBytes w) = some (i, []) := by
  have hlen : (wordBytes w).length = 8 := by simp [wordBytes]
  have hw : BitVec.ofNat 64 (bytesToNat ((wordBytes w).take 8)) = w := by
    rw [List.take_of_length_le hlen.le, bytesToNat_wordBytes, BitVec.ofNat_toNat, BitVec.setWidth_eq]
  simp [decode, hlen, hw, h, List.drop_of_length_le]

/-- Settles O58: the fields of a packed word are those that it was packed from, and each format's table of opcodes gives
back the constructor. -/
theorem decodeEncode : Obligations.DecodeEncode := by
  unfold Obligations.DecodeEncode
  exact ⟨fun i h => ⟨decodeWord_encode h, decode_wordBytes (decodeWord_encode h)⟩, fun w i => encode_of_decodeWord⟩

/-- Settles O57: each word is the one that the encoder gives for its instruction. -/
theorem decodeWords : Obligations.DecodeWords := by
  unfold Obligations.DecodeWords
  refine ⟨?_, ?_, ?_, ?_, ?_, ?_, ?_⟩
  all_goals exact decodeWord_of_encode (by decide) (by decide)

end Sys2Proof
end

section
/-! SUPPORT. What the check of an image decides (R94-R97; logs 46, 93). -/

namespace Sys2Proof.Machine

/-! ## How a check ends (R96) -/

/-- No condition of a visited word is broken. -/
def Visit.Ok (v : Visit) : Prop := ∀ k ∈ v.checks, k.bad = false

/-- Every condition of a visited word refuses with a code of the image (R97). -/
def Visit.CodesIn (v : Visit) : Prop := ∀ k ∈ v.checks, 1 ≤ k.code ∧ k.code ≤ 16

section
variable {fail : Nat → Option Bar}

theorem runChecks_pass {blk wrd : Nat} {ks : List Check} (h : runChecks fail blk wrd ks = .pass) :
    ∀ k ∈ ks, k.bad = false := by
  induction ks with
  | nil => simp
  | cons k ks ih =>
    rw [runChecks] at h
    split at h
    · cases h
    · split_ifs at h with hb
      exact List.forall_mem_cons.mpr ⟨by simpa using hb, ih h⟩

theorem runVisits_pass {vs : List Visit} (h : runVisits fail vs = .pass) : ∀ v ∈ vs, v.Ok := by
  induction vs with
  | nil => simp
  | cons v vs ih =>
    rw [runVisits] at h
    split at h
    · cases h
    · split at h
      · exact List.forall_mem_cons.mpr ⟨runChecks_pass ‹_›, ih h⟩
      · next hn => exact absurd h hn

/-- A check that passes has visited every word of every stage and found no condition broken. -/
theorem runStages_pass {gs : List (Unit → List Visit)} (h : runStages fail gs = .pass) :
    ∀ g ∈ gs, ∀ v ∈ g (), v.Ok := by
  induction gs with
  | nil => simp
  | cons g gs ih =>
    rw [runStages] at h
    split at h
    · exact List.forall_mem_cons.mpr ⟨runVisits_pass ‹_›, ih h⟩
    · next hn => exact absurd h hn

theorem runChecks_refuse {blk wrd code b w : Nat} {ks : List Check} (h : runChecks fail blk wrd ks = .refuse code b w) :
    ∃ k ∈ ks, k.code = code := by
  induction ks with
  | nil => cases h
  | cons k ks ih =>
    rw [runChecks] at h
    split at h
    · cases h
    · split_ifs at h with hb
      · cases h
        exact ⟨k, List.mem_cons_self, rfl⟩
      · obtain ⟨k', hk, hc⟩ := ih h
        exact ⟨k', List.mem_cons_of_mem _ hk, hc⟩

theorem runVisits_refuse {code b w : Nat} {vs : List Visit} (h : runVisits fail vs = .refuse code b w) :
    ∃ v ∈ vs, ∃ k ∈ v.checks, k.code = code := by
  induction vs with
  | nil => cases h
  | cons v vs ih =>
    rw [runVisits] at h
    split at h
    · cases h
    · split at h
      · obtain ⟨v', hv, hk⟩ := ih h
        exact ⟨v', List.mem_cons_of_mem _ hv, hk⟩
      · exact ⟨v, List.mem_cons_self, runChecks_refuse h⟩

/-- A check refuses with the code of one of its conditions. -/
theorem runStages_refuse {code b w : Nat} {gs : List (Unit → List Visit)} (h : runStages fail gs = .refuse code b w) :
    ∃ g ∈ gs, ∃ v ∈ g (), ∃ k ∈ v.checks, k.code = code := by
  induction gs with
  | nil => cases h
  | cons g gs ih =>
    rw [runStages] at h
    split at h
    · obtain ⟨g', hg, hv⟩ := ih h
      exact ⟨g', List.mem_cons_of_mem _ hg, hv⟩
    · exact ⟨g, List.mem_cons_self, runVisits_refuse h⟩

end

/-! ## The stages (R96) -/

/-- A property of every visit of every stage. -/
structure AllVisits (img : List Word) (P : Visit → Prop) : Prop where
  header : ∀ v ∈ headerVisits img, P v
  tags : ∀ v ∈ tagVisits img, P v
  chans : ∀ v ∈ chanVisits img, P v
  inList : ∀ v ∈ inListVisits img, P v
  recHead : ∀ k < imgNblocks img, ∀ v ∈ recHead img k, P v
  recDescs : ∀ k < imgNblocks img, ∀ v ∈ recDescs img k, P v
  recInstrs : ∀ k < imgNblocks img, ∀ v ∈ recInstrs img k, P v
  first : P (firstVisit img)
  pats : ∀ k < (imgPats img).length, ∀ v ∈ patVisits img k, P v
  variants : ∀ k < imgNvariants img, ∀ v ∈ variantVisits img k, P v

theorem forall_checkStages {img : List Word} {P : Visit → Prop} :
    (∀ g ∈ checkStages img, ∀ v ∈ g (), P v) ↔ AllVisits img P := by
  constructor
  · intro h
    simp only [checkStages, List.forall_mem_append, List.forall_mem_cons, List.mem_flatMap, List.mem_map,
      List.mem_range] at h
    obtain ⟨⟨⟨⟨⟨hh, ht, hc, hi, -⟩, hr⟩, hf, -⟩, hp⟩, hv⟩ := h
    have hrec (k : Nat) (hk : k < imgNblocks img) := fun g hg => hr g ⟨k, hk, hg⟩
    simp only [List.forall_mem_cons] at hrec
    exact ⟨hh, ht, hc, hi, fun k hk => (hrec k hk).1, fun k hk => (hrec k hk).2.1, fun k hk => (hrec k hk).2.2.1,
      hf.1, fun k hk => hp _ ⟨k, hk, rfl⟩, fun k hk => hv _ ⟨k, hk, rfl⟩⟩
  · intro h
    simp only [checkStages, List.forall_mem_append, List.forall_mem_cons, List.mem_flatMap, List.mem_map,
      List.mem_range]
    refine ⟨⟨⟨⟨⟨h.header, h.tags, h.chans, h.inList, by simp⟩, ?_⟩, by simpa using h.first, by simp⟩, ?_⟩, ?_⟩
    · rintro g ⟨k, hk, hg⟩
      revert g
      simpa using ⟨h.recHead k hk, h.recDescs k hk, h.recInstrs k hk⟩
    · rintro g ⟨k, hk, rfl⟩
      exact h.pats k hk
    · rintro g ⟨k, hk, rfl⟩
      exact h.variants k hk

/-! ## What the conditions say where none is broken -/

section
variable {img : List Word}

@[simp] theorem Visit.ok_outside (n : Nat) (l : List Check) : (outside n l).Ok ↔ ∀ k ∈ l, k.bad = false := Iff.rfl

@[simp] theorem own_bad (code : Nat) (b : Bool) : (own code b).bad = b := rfl

/-- Header fields (R83). -/
theorem header_meets (h : ∀ v ∈ headerVisits img, v.Ok) :
    imgNat img 0 4 = 0x0D721A6E ∧ imgNat img 4 2 = 1 ∧ 1 ≤ imgNblocks img ∧ imgNblocks img ≤ 4096 ∧ imgScope img ≤ 4 ∧
      imgNfields img ≤ 7 ∧ imgNchannels img ≤ 63 ∧ 1 ≤ imgNvariants img ∧ imgNvariants img ≤ 5 ∧ 1 ≤ imgNslots img ∧
      imgNslots img ≤ 256 ∧ 64 ≤ imgLength img ∧ imgLength img ≤ 2 ^ 24 := by
  simp only [headerVisits, List.forall_mem_cons, Visit.ok_outside, own_bad, Bool.or_eq_false_iff, bne_eq_false_iff_eq,
    decide_eq_false_iff_not, Nat.not_lt, beq_eq_false_iff_ne] at h
  obtain ⟨⟨⟨⟨⟨hmagic, hver⟩, hn0⟩, hn⟩, -⟩, ⟨⟨⟨⟨⟨⟨hf, hc⟩, hv0⟩, hv⟩, hs0⟩, hs⟩, -, hscope, -⟩, -, -, -, -,
    ⟨⟨hl0, hl⟩, -⟩, -⟩ := h
  refine ⟨hmagic, hver, ?_, hn, hscope, hf, hc, ?_, hv, ?_, hs, hl0, hl⟩ <;> omega

/-- Tag fields (R32, R84). -/
theorem tags_meet (h : ∀ v ∈ tagVisits img, v.Ok) (f : Nat) (hf : f < imgNfields img) :
    1 ≤ fieldWidth img f ∧ ((List.range (f + 1)).map (fieldWidth img)).sum ≤ 58 := by
  have hv := h _ (List.mem_map_of_mem (List.mem_range.mpr hf))
  simp only [Visit.ok_outside, List.forall_mem_cons, own_bad, Bool.or_eq_false_iff, decide_eq_false_iff_not, Nat.not_lt,
    beq_eq_false_iff_ne] at hv
  obtain ⟨⟨⟨⟨hw, hsum⟩, -⟩, -⟩, -⟩ := hv
  exact ⟨Nat.pos_of_ne_zero hw, hsum⟩

/-- Channel entries (R85). -/
theorem channels_meet (h : ∀ v ∈ chanVisits img, v.Ok) (k : Nat) (hk : k < imgNchannels img) :
    let e := chanEnt img k
    e.chan ≤ 62 ∧ 1 ≤ e.depth ∧ e.depth ≤ 4096 ∧ e.dscope ≤ 4 ∧ (e.flags.testBit 0 = false → e.dscope = imgScope img) ∧
      (if e.flags.testBit 1 then e.depth = e.qblock else e.qblock = 0) ∧
      ∀ j : Nat, j < k → (chanEnt img j).chan ≠ e.chan ∧
        ¬ ((chanEnt img j).dimage = e.dimage ∧ (chanEnt img j).dslot = e.dslot) := by
  intro e
  have hv (v : Visit) (hm : v ∈ _) := h v (List.mem_flatMap_of_mem (List.mem_range.mpr hk) hm)
  simp only [List.forall_mem_cons, Visit.ok_outside, List.forall_mem_append, own_bad, Bool.or_eq_false_iff,
    Bool.and_eq_false_iff, decide_eq_false_iff_not, Nat.not_lt, Nat.not_le, beq_eq_false_iff_ne, bne_eq_false_iff_eq,
    List.any_eq_false, List.forall_mem_map, List.mem_range] at hv
  obtain ⟨⟨⟨⟨hds, -⟩, hw⟩, hq, ⟨⟨⟨⟨⟨hchan, hdup⟩, hd0⟩, hd⟩, -⟩, hqb⟩, -⟩, ⟨⟨-, htwin⟩, -⟩, -⟩ := hv
  refine ⟨hchan, Nat.pos_of_ne_zero hd0, hd, hds, fun hf => ?_, ?_,
    fun j hj => ⟨by simpa using hdup j hj, by simpa using htwin j hj⟩⟩
  · rw [hf] at hw
    simpa using hw
  · split
    next hb => simpa [e, hb] using hq
    next hb => simpa [e, hb] using hqb

/-- The in-list (R86). -/
theorem inList_meets (h : ∀ v ∈ inListVisits img, v.Ok) (k : Nat) (hk : k < imgNinch img) :
    imgByte img (imgInoff img + k) < imgNslots img ∧
      (k ≠ 0 → imgByte img (imgInoff img + (k - 1)) < imgByte img (imgInoff img + k)) := by
  have hv := h _ (List.mem_map_of_mem (List.mem_range.mpr (show k / 8 < (imgNinch img + 15) / 16 * 2 by omega)))
  simp only [Visit.ok_outside, List.forall_mem_cons, own_bad, List.any_eq_false, List.mem_range] at hv
  have hb := hv.1 (k % 8) (Nat.mod_lt _ (by decide))
  rw [Nat.div_add_mod, if_neg (by omega)] at hb
  simp only [Bool.or_eq_true, Bool.and_eq_true, decide_eq_true_eq, bne_iff_ne, not_or, Nat.not_le, not_and] at hb
  exact hb

/-- Some record is the first (R96). -/
theorem first_meets (h : (firstVisit img).Ok) : ∃ k, k < imgNblocks img ∧ (blkAt img k).first = true := by
  have hv := h _ (List.mem_singleton_self _)
  simpa only [own_bad, Bool.not_eq_false', List.any_eq_true, List.mem_range] using hv

/-- Placement variants (R88). -/
theorem variants_meet {v : Nat} (h : ∀ a ∈ variantVisits img v, a.Ok) :
    shapeOf (variantQuads img v) = some (variantRows img v, variantCols img v) ∧
      (∀ u : Nat, u < v → variantQuads img u ≠ variantQuads img v) ∧
      ∀ k : Nat, k < imgNblocks img → variantQuadOf img v k < variantQuads img v := by
  simp only [variantVisits, List.forall_mem_cons, Visit.ok_outside, own_bad, Bool.or_eq_false_iff, bne_eq_false_iff_eq,
    List.any_eq_false, List.mem_range, beq_iff_eq, List.forall_mem_map] at h
  obtain ⟨⟨⟨⟨⟨⟨hshape, hdup⟩, -⟩, -⟩, -⟩, -⟩, hquads⟩ := h
  refine ⟨hshape, hdup, fun k hk => ?_⟩
  have hb := (hquads (k / 8) (by unfold variantSize; omega)).1 (k % 8) (Nat.mod_lt _ (by decide))
  rw [Nat.div_add_mod, if_neg (by omega)] at hb
  simpa using hb

/-- The header words of a block record (R79, R80). -/
theorem recHead_meets {k : Nat} (h : ∀ v ∈ recHead img k, v.Ok) :
    let b := blkAt img k
    b.magic = 0xB7 ∧ b.blockno = k ∧ b.nreads ≤ 32 ∧ b.nwrites ≤ 32 ∧ b.off + b.size ≤ imgLength img ∧
      b.smask = wantedMask img b ∧ b.nexits = wantedExits img b ∧ b.nchan = wantedChans img b ∧
      ∀ j : Nat, j < k → ¬ (b.first = true ∧ (blkAt img j).first = true) := by
  intro b
  unfold recHead at h
  dsimp only at h
  split at h
  · simp [Visit.Ok] at h
  · simp only [List.forall_mem_cons, Visit.Ok, own_bad, List.forall_mem_append, Bool.or_eq_false_iff, bne_eq_false_iff_eq,
      decide_eq_false_iff_not, Nat.not_lt, Bool.and_eq_false_imp, List.any_eq_false, List.mem_range] at h
    obtain ⟨⟨⟨⟨⟨⟨⟨⟨hmagic, hr⟩, hw⟩, -⟩, hno⟩, hpast⟩, hfirst⟩, -⟩, ⟨⟨-, -⟩, hmask, ⟨hexits, hchan⟩, -⟩, -⟩ := h
    exact ⟨hmagic, hno, hr, hw, hpast, hmask, hexits.symm, hchan, fun j hj hb => hfirst hb.1 j hj hb.2⟩

/-! ## The words of a record (R107) -/

/-- The codes of R97 by which a word itself is refused. -/
theorem DecodeError.code_mem (e : DecodeError) : e.code ∈ [9, 10, 11, 12] := by cases e <;> decide

theorem code_of_wordCheck {b : Blk} {w : Word} {c : Nat} (h : wordCheck img b w = .error c) : c ∈ [9, 10, 11, 12] := by
  revert h
  fun_cases wordCheck <;> intro h <;> cases h
  case case3 => exact DecodeError.code_mem _
  all_goals decide

theorem wordCheck_ok {b : Blk} {w : Word} {x : Instr} (h : wordCheck img b w = .ok x) :
    decodeWord w = .ok x ∧ (∀ y : Instr, decodeWord (wordForCode w) = .ok y → imageCodeOk img y (wordTargets w) = true) ∧
      targetCodeOk img b (bits w 52 44) = true ∧ targetCodeOk img b (bits w 43 35) = true := by
  revert h
  fun_cases wordCheck <;> intro h <;> cases h
  next early hearly hdec htargets =>
    simp only [Bool.not_eq_true', Bool.not_eq_false, Bool.and_eq_true] at hearly htargets
    refine ⟨hdec, fun y hy => ?_, htargets.1⟩
    simpa only [early, hy] using hearly

/-- An instruction of a record whose visit breaks no condition. -/
theorem recInstrs_meet {k : Nat} (h : ∀ v ∈ recInstrs img k, v.Ok) {i : Nat} (hi : i < (blkAt img k).icount) :
    (∃ x, wordCheck img (blkAt img k) (insWord img (blkAt img k) i) = .ok x) ∧
      exitBad img (blkAt img k) i (insWord img (blkAt img k) i) = false := by
  have hv := h _ (List.mem_append_left _ (List.mem_map_of_mem (List.mem_range.mpr hi)))
  simp only [Visit.Ok, List.forall_mem_append, List.forall_mem_cons, own_bad] at hv
  obtain ⟨⟨⟨h9, h10, -⟩, -⟩, h11, h12, -, hexit, -⟩ := hv
  refine ⟨?_, hexit⟩
  cases hc : wordCheck img (blkAt img k) (insWord img (blkAt img k) i) with
  | ok x => exact ⟨x, rfl⟩
  | error c =>
    have hmem := code_of_wordCheck hc
    simp only [hc, beq_eq_false_iff_ne] at h9 h10 h11 h12
    simp [h9, h10, h11, h12] at hmem

/-- The reach of a direct exit is part of the check of exits (R105). -/
theorem directBad_of_exitBad {b : Blk} {i : Nat} {w : Word} (h : exitBad img b i w = false) : directBad img b w = false := by
  unfold exitBad at h
  dsimp only at h
  split at h
  next => exact h
  next hop => simp only [directBad, Bool.eq_false_of_not_eq_true hop, Bool.false_and]

end

/-! ## The word that step 2 of R107 looks at -/

section
variable {w : Word}

/-- Every bit of both target fields. -/
def targetMask : Word := BitVec.ofNat 64 (0x3FFFF * 2 ^ 35)

theorem bits_or {n : Nat} (x y : BitVec n) (hi lo : Nat) : bits (x ||| y) hi lo = bits x hi lo ||| bits y hi lo := by
  rw [bits, BitVec.toNat_or, Nat.shiftRight_or_distrib, Nat.or_mod_two_pow]
  rfl

theorem bits_masked_op : bits (w ||| targetMask) 63 55 = bits w 63 55 := by
  rw [bits_or, show bits targetMask 63 55 = 0 by decide, Nat.or_zero]

theorem bits_masked_pm : bits (w ||| targetMask) 54 53 = bits w 54 53 := by
  rw [bits_or, show bits targetMask 54 53 = 0 by decide, Nat.or_zero]

theorem bits_masked_low : bits (w ||| targetMask) 34 0 = bits w 34 0 := by
  rw [bits_or, show bits targetMask 34 0 = 0 by decide, Nat.or_zero]

theorem or_allOnes_field {t n : Nat} (h : t < 2 ^ n) : t ||| (2 ^ n - 1) = 2 ^ n - 1 := by
  refine Nat.eq_of_testBit_eq fun k => ?_
  rw [Nat.testBit_or, Nat.testBit_two_pow_sub_one]
  by_cases hk : k < n
  · simp [hk]
  · simp [hk, Nat.testBit_lt_two_pow (h.trans_le (Nat.pow_le_pow_right (by decide) (Nat.le_of_not_lt hk)))]

theorem targetsOf_masked : targetsOf (w ||| targetMask) = (.none, .none, false) := by
  refine targetsOf_eq ?_ ?_
  · rw [bits_or, show bits targetMask 52 44 = 2 ^ 9 - 1 by decide, or_allOnes_field (bits_lt w 52 44)]
    rfl
  · rw [bits_or, show bits targetMask 43 35 = 2 ^ 9 - 1 by decide, or_allOnes_field (bits_lt w 43 35)]
    rfl

/-- The offset of WIDEN is reserved. -/
theorem offset_of_widen {x : Instr} (h : decodeWord w = .ok x) (hop : wordOp w = 0x153) : bits w 16 0 = 0 := by
  have hbits : bits w 63 55 = 0x153 := hop
  rw [decodeWord_m (mk := .widen) (by rw [hbits]; rfl) (by rw [hbits]; rfl)] at h
  obtain ⟨v, hfin, -, -, -, hl⟩ := decodeM_ok h
  obtain ⟨rfl, -, -, hb, -⟩ := finishDecode_ok.mp hfin
  obtain ⟨-, -, -, -, -, hoff⟩ := fields_m hl.symm
  have hzero : v.offset = 0 := by simpa [Instr.bitsOk, Instr.form] using hb
  rw [hoff, hzero]
  rfl

/-- Bits 22:9 of the modifiers of INTSECT are reserved. -/
theorem mods_of_intsect {x : Instr} (h : decodeWord w = .ok x) (hop : wordOp w = 0x18C) : bits w 22 9 = 0 := by
  have hbits : bits w 63 55 = 0x18C := hop
  rw [decodeWord_e (mk := .intsect) (by rw [hbits]; rfl) (by rw [hbits]; rfl) (by rw [hbits]; rfl)] at h
  obtain ⟨v, hfin, -, -, -, hl⟩ := decodeE_ok h
  obtain ⟨rfl, -, -, hb, -⟩ := finishDecode_ok.mp hfin
  obtain ⟨-, -, hmods⟩ := fields_e hl.symm
  have hzero : v.mods.toNat &&& 0x7FFE00 = 0 := by
    simp only [Instr.bitsOk, Instr.form, Instr.modsMask, modsWithin, Bool.and_eq_true, beq_iff_eq] at hb
    exact hb.1
  have hhigh : bits w 22 9 = bits w 22 0 / 2 ^ 9 := by
    simp only [bits, Nat.shiftRight_eq_div_pow]
    omega
  have hand : v.mods.toNat / 2 ^ 9 &&& (2 ^ 14 - 1) = 0 := by
    have hdiv := congrArg (· / 2 ^ 9) hzero
    simp only [Nat.and_div_two_pow] at hdiv
    exact hdiv
  rw [Nat.and_two_pow_sub_one_eq_mod] at hand
  omega

/-- What step 2 looks at of a word that decodes is the word with both targets at no target: it has no reserved bit to
leave out. -/
theorem wordForCode_of_decode {x : Instr} (h : decodeWord w = .ok x) : wordForCode w = w ||| targetMask := by
  unfold wordForCode
  dsimp only
  split_ifs with hw hi
  · have h0 : bits (w ||| targetMask) 16 0 = 0 := by
      rw [bits_or, offset_of_widen h (by simpa using hw)]
      decide
    refine BitVec.eq_of_toNat_eq ?_
    have hlt := (w ||| targetMask).isLt
    simp only [bits, Nat.shiftRight_eq_div_pow, targetMask] at h0 hlt
    simp only [BitVec.toNat_ofNat, targetMask]
    omega
  · have h0 : bits (w ||| targetMask) 22 9 = 0 := by
      rw [bits_or, mods_of_intsect h (by simpa using hi)]
      decide
    refine BitVec.eq_of_toNat_eq ?_
    have hlt := (w ||| targetMask).isLt
    simp only [bits, Nat.shiftRight_eq_div_pow, targetMask] at h0 hlt
    simp only [BitVec.toNat_ofNat, targetMask]
    omega
  · rfl

/-! ### Values of a word that depend on the image (R107, R126, R133, R156, R258) -/

/-- A packed word whose target fields are set keeps the rest. -/
theorem masked_packWord {op t0 t1 low : Nat} {pm : PMode} (hop : op < 512) (h0 : t0 < 512) (h1 : t1 < 512)
    (hl : low < 2 ^ 35) :
    let m := packWord op pm t0 t1 low ||| targetMask
    bits m 63 55 = op ∧ bits m 54 53 = pm.code ∧ bits m 34 0 = low :=
  ⟨bits_masked_op.trans (bits_packWord_op hop h0 h1 hl), bits_masked_pm.trans (bits_packWord_pm hop h0 h1 hl),
    bits_masked_low.trans (bits_packWord_low hop h0 h1 hl)⟩

/-- What step 2 looks at decodes to the same instruction without its targets. -/
theorem decode_masked_g {mk : GWord → Instr} {v : GWord} (hmk : gBuild (mk v).opcode = some mk)
    (hform : (mk v).form = .g v) (h : decodeWord w = .ok (mk v)) :
    decodeWord (wordForCode w) = finishDecode (mk { v with t0 := .none, t1 := .none }) false := by
  obtain ⟨hop, hpm, hl⟩ := masked_packWord (mk v).opcode_lt v.t0.code_lt v.t1.code_lt v.low_lt
  rw [← encode_g hform, (encode_of_decodeWord h).2] at hop hpm hl
  rw [wordForCode_of_decode h, decodeWord_g (mk := mk) (by rw [hop, hmk])]
  exact decodeG_of_low mk hpm targetsOf_masked hl

theorem decode_masked_m {mk : MWord → Instr} {v : MWord} (hg : gBuild (mk v).opcode = none)
    (hmk : mBuild (mk v).opcode = some mk) (hform : (mk v).form = .m v) (h : decodeWord w = .ok (mk v)) :
    decodeWord (wordForCode w) = finishDecode (mk { v with t0 := .none, t1 := .none }) false := by
  obtain ⟨hop, hpm, hl⟩ := masked_packWord (mk v).opcode_lt v.t0.code_lt v.t1.code_lt v.low_lt
  rw [← encode_m hform, (encode_of_decodeWord h).2] at hop hpm hl
  rw [wordForCode_of_decode h, decodeWord_m (mk := mk) (by rw [hop, hg]) (by rw [hop, hmk])]
  exact decodeM_of_low mk hpm targetsOf_masked hl

theorem decode_masked_e {mk : EWord → Instr} {v : EWord} (hg : gBuild (mk v).opcode = none)
    (hm : mBuild (mk v).opcode = none) (hmk : eBuild (mk v).opcode = some mk) (hform : (mk v).form = .e v)
    (h : decodeWord w = .ok (mk v)) :
    decodeWord (wordForCode w) = finishDecode (mk { v with t0 := .none, t1 := .none }) false := by
  obtain ⟨hop, hpm, hl⟩ := masked_packWord (mk v).opcode_lt v.t0.code_lt v.t1.code_lt v.low_lt
  rw [← encode_e hform, (encode_of_decodeWord h).2] at hop hpm hl
  rw [wordForCode_of_decode h, decodeWord_e (mk := mk) (by rw [hop, hg]) (by rw [hop, hm]) (by rw [hop, hmk])]
  exact decodeE_of_low mk hpm targetsOf_masked hl

/-- The values that the image restricts do not depend on a word's own targets, so what step 2 looks at decides them. -/
theorem imageCodeOk_of_wordForCode {img : List Word} {x : Instr} {ts : List Target} (h : decodeWord w = .ok x)
    (hy : ∀ y : Instr, decodeWord (wordForCode w) = .ok y → imageCodeOk img y ts = true) :
    imageCodeOk img x ts = true := by
  obtain ⟨-, hcode, hbits, -⟩ := Instr.wf_iff.mp (encode_of_decodeWord h).1
  have ok {y : Instr} (hd : decodeWord (wordForCode w) = finishDecode y false) (hc : y.codeOk = x.codeOk)
      (hb : y.bitsOk = x.bitsOk) (ht : y.targetsOk = true) (hi : imageCodeOk img y ts = imageCodeOk img x ts) :
      imageCodeOk img x ts = true :=
    hi ▸ hy y (hd.trans (finishDecode_ok.mpr ⟨rfl, rfl, hc.trans hcode, hb.trans hbits, ht⟩))
  cases x
  case tagget v => exact ok (decode_masked_g rfl rfl h) rfl rfl rfl rfl
  case tagset v => exact ok (decode_masked_g rfl rfl h) rfl rfl rfl rfl
  case taginc v => exact ok (decode_masked_g rfl rfl h) rfl rfl rfl rfl
  case tagin v => exact ok (decode_masked_g rfl rfl h) rfl rfl rfl rfl
  case tagout v => exact ok (decode_masked_g rfl rfl h) rfl rfl rfl rfl
  case reorder v => exact ok (decode_masked_g rfl rfl h) rfl rfl rfl rfl
  case widen v => exact ok (decode_masked_m rfl rfl rfl h) rfl rfl rfl rfl
  case intsect v => exact ok (decode_masked_e rfl rfl rfl rfl h) rfl rfl rfl rfl
  all_goals rfl

end

/-- An image that the check passes meets the rules of R79 to R88. -/
theorem imageMeets_of_pass {fail : Nat → Option Bar} {img : List Word} (h : runStages fail (checkStages img) = .pass) :
    ImageMeets img := by
  have ok : AllVisits img Visit.Ok := forall_checkStages.mp (runStages_pass h)
  refine ⟨header_meets ok.header, tags_meet ok.tags, channels_meet ok.chans, inList_meets ok.inList, fun k hk => ?_,
    first_meets ok.first, fun v hv => variants_meet (ok.variants v hv)⟩
  obtain ⟨hmagic, hno, hr, hw, hsize, hmask, hexits, hchan, hfirst⟩ := recHead_meets (ok.recHead k hk)
  refine ⟨hmagic, hno, hr, hw, hsize, hmask, hexits, hchan, hfirst, fun i hi => ?_⟩
  obtain ⟨⟨x, hx⟩, hexit⟩ := recInstrs_meet (ok.recInstrs k hk) hi
  obtain ⟨hdec, hvalues, ht0, ht1⟩ := wordCheck_ok hx
  exact ⟨x, hdec, imageCodeOk_of_wordForCode hdec hvalues, ht0, ht1, directBad_of_exitBad hexit⟩

/-! ## Refusals (R97) -/

section
variable {img : List Word}

theorem codesIn_outside {n : Nat} {l : List Check} : (outside n l).CodesIn ↔ ∀ k ∈ l, 1 ≤ k.code ∧ k.code ≤ 16 := Iff.rfl

@[simp] theorem own_code (code : Nat) (b : Bool) : (own code b).code = code := rfl

theorem codesIn_headerVisits : ∀ v ∈ headerVisits img, v.CodesIn := by
  simp [headerVisits, codesIn_outside]

theorem codesIn_tagVisits : ∀ v ∈ tagVisits img, v.CodesIn := by
  simp [tagVisits, codesIn_outside]

theorem codesIn_chanVisits : ∀ v ∈ chanVisits img, v.CodesIn := by
  unfold chanVisits
  refine List.forall_mem_flatMap.mpr fun k _ => ?_
  simp only [List.forall_mem_cons, codesIn_outside, List.forall_mem_append, own_code]
  refine ⟨⟨⟨by simp, ?_⟩, by simp⟩, by simp⟩
  split
  · refine List.forall_mem_flatMap.mpr fun n _ => List.forall_mem_cons.mpr ⟨by simp, fun c hc => ?_⟩
    obtain ⟨t, -, ht⟩ := List.mem_filterMap.mp hc
    split_ifs at ht
    cases ht
    simp
  · simp

theorem codesIn_inListVisits : ∀ v ∈ inListVisits img, v.CodesIn := by
  simp [inListVisits, codesIn_outside]

theorem codesIn_recHead (k : Nat) : ∀ v ∈ recHead img k, v.CodesIn := by
  unfold recHead
  dsimp only
  split
  · simp [Visit.CodesIn]
  · simp only [List.forall_mem_cons, Visit.CodesIn, own_code, List.forall_mem_append, List.mem_mapIdx, forall_exists_index]
    refine ⟨by simp, ⟨⟨by simp, ?_⟩, by simp⟩, by simp⟩
    rintro c j hj rfl
    simp

theorem codesIn_recDescs (k : Nat) : ∀ v ∈ recDescs img k, v.CodesIn := by
  have byCode (l : List Check) : ∀ c ∈ [8, 12, 13].flatMap fun n => l.filter (·.code == n), 1 ≤ c.code ∧ c.code ≤ 16 := by
    simp only [List.forall_mem_flatMap, List.forall_mem_cons, List.mem_filter, beq_iff_eq]
    refine ⟨?_, ?_, ?_, by simp⟩ <;> rintro c ⟨-, hc⟩ <;> omega
  unfold recDescs
  simp only [List.forall_mem_append, List.forall_mem_map]
  exact ⟨fun j _ => byCode _, fun j _ => byCode _⟩

theorem codesIn_recInstrs (k : Nat) : ∀ v ∈ recInstrs img k, v.CodesIn := by
  unfold recInstrs
  simp only [List.forall_mem_append, List.forall_mem_map, Visit.CodesIn, List.forall_mem_cons, own_code]
  refine ⟨fun i _ => ⟨⟨by simp, ?_⟩, by simp⟩, ?_⟩
  · split <;> simp
  · split <;> simp

theorem codesIn_firstVisit : (firstVisit img).CodesIn := by
  simp [firstVisit, Visit.CodesIn]

theorem codesIn_patVisits (k : Nat) : ∀ v ∈ patVisits img k, v.CodesIn := by
  unfold patVisits
  dsimp only
  split
  · simp
  · split
    · simp [Visit.CodesIn]
    · simp only [List.forall_mem_append, List.forall_mem_cons, List.forall_mem_map, codesIn_outside, own_code]
      exact ⟨⟨by simp, fun j _ => by simp⟩, fun j _ => by simp⟩

theorem codesIn_variantVisits (v : Nat) : ∀ a ∈ variantVisits img v, a.CodesIn := by
  simp [variantVisits, codesIn_outside]

theorem allVisits_codesIn (img : List Word) : AllVisits img Visit.CodesIn where
  header := codesIn_headerVisits
  tags := codesIn_tagVisits
  chans := codesIn_chanVisits
  inList := codesIn_inListVisits
  recHead k _ := codesIn_recHead k
  recDescs k _ := codesIn_recDescs k
  recInstrs k _ := codesIn_recInstrs k
  first := codesIn_firstVisit
  pats k _ := codesIn_patVisits k
  variants v _ := codesIn_variantVisits v

end

theorem refuse_magic {fail : Nat → Option Bar} {img : List Word} (h0 : fail 0 = none) (hm : imgNat img 0 4 ≠ 0x0D721A6E) :
    runStages fail (checkStages img) = .refuse 1 0xFFFF 0 := by
  simp [checkStages, runStages, headerVisits, runVisits, outside, runChecks, own, h0, hm]

/-- Every refusal has a code of the image (R97). -/
theorem code_of_refuse {fail : Nat → Option Bar} {img : List Word} {code blk wrd : Nat}
    (h : runStages fail (checkStages img) = .refuse code blk wrd) : 1 ≤ code ∧ code ≤ 16 := by
  obtain ⟨g, hg, v, hv, k, hk, rfl⟩ := runStages_refuse h
  exact forall_checkStages.mpr (allVisits_codesIn img) g hg v hv k hk

end Sys2Proof.Machine
end

section
/-! SUPPORT. CFGLOAD and the release of handles (R95-R99). -/

namespace Sys2Proof.Machine

/-! ## Translations and acquires with an empty CACHE -/

/-- Memory, partitions and links are as they were, and so are a core's fabric, elements, contexts and CACHE. -/
structure CoreKept (c : Nat) (s t : State) : Prop where
  mem : t.mem = s.mem
  parts : t.parts = s.parts
  links : t.links = s.links
  length : t.cores.length = s.cores.length
  fabric : (t.core c).fabric = (s.core c).fabric
  elems : (t.core c).elems = (s.core c).elems
  cxs : (t.core c).cxs = (s.core c).cxs
  cache : (t.core c).cache = (s.core c).cache

section
variable {s t u : State} {c : Nat}

theorem CoreKept.refl (c : Nat) (s : State) : CoreKept c s s := ⟨rfl, rfl, rfl, rfl, rfl, rfl, rfl, rfl⟩

theorem CoreKept.trans (h : CoreKept c s t) (h' : CoreKept c t u) : CoreKept c s u :=
  ⟨h'.mem.trans h.mem, h'.parts.trans h.parts, h'.links.trans h.links, h'.length.trans h.length,
    h'.fabric.trans h.fabric, h'.elems.trans h.elems, h'.cxs.trans h.cxs, h'.cache.trans h.cache⟩

/-- A write of a core that leaves its fabric, elements, contexts and CACHE. -/
theorem CoreKept.setCore {k : Core} (hc : c < s.cores.length) (hf : k.fabric = (s.core c).fabric)
    (he : k.elems = (s.core c).elems) (hx : k.cxs = (s.core c).cxs) (hk : k.cache = (s.core c).cache) :
    CoreKept c s (s.setCore c k) := by
  have hself := State.core_setCore_self s c k hc
  refine ⟨rfl, rfl, rfl, by simp, ?_, ?_, ?_, ?_⟩ <;> rwa [hself]

theorem CoreKept.store_nil (hc : c < s.cores.length) : CoreKept c s (s.store []) := by
  have hcore := State.store_core s [] [] hc
  refine ⟨rfl, rfl, rfl, by simp, ?_, ?_, ?_, ?_⟩ <;> rw [hcore]
  simp [frameBytes]

theorem coreKept_cacheAcquire (hc : c < s.cores.length) (h : (s.core c).cache = []) : CoreKept c s (s.cacheAcquire c) := by
  have hstore : CoreKept c s (s.store []) := .store_nil hc
  have hrel : CoreKept c s (s.cacheRelease c) := by
    unfold State.cacheRelease State.writeBack
    rw [h]
    exact hstore.trans (.setCore (by simpa using hc) rfl rfl rfl (by simp [hstore.cache, h]))
  refine hrel.trans (.setCore (hrel.length ▸ hc) rfl rfl rfl (by simp [hrel.cache, h]))

theorem coreKept_fillTlb (vas : List Nat) (hc : c < s.cores.length) (h : (s.core c).cache = []) :
    CoreKept c s (s.fillTlb c vas) := by
  unfold State.fillTlb
  refine List.foldlRecOn vas _ (.refl c s) fun t ht va _ => ?_
  split
  · exact ht
  · have ha := ht.trans (coreKept_cacheAcquire (ht.length ▸ hc) (ht.cache.trans h))
    dsimp only
    split
    · exact ha.trans (.setCore (ha.length ▸ hc) rfl rfl rfl rfl)
    · exact ha

theorem CoreKept.linkDown (h : CoreKept c s t) (d : Nat) (pas : List Nat) : t.linkDown d pas = s.linkDown d pas := by
  simp only [State.linkDown, State.linkFailed, h.links]

theorem CoreKept.part (h : CoreKept c s t) (p : Nat) : t.part p = s.part p := by
  rw [State.part, h.parts, State.part]

theorem CoreKept.instOf {f : Firing} (h : CoreKept f.core s t) : t.instOf f = s.instOf f := by
  simp only [State.instOf, State.cx, h.cxs]

theorem CoreKept.deliveries {f : Firing} (h : CoreKept f.core s t) (t0 t1 : Target) (tok : Tok) :
    Machine.deliveries t f t0 t1 tok = Machine.deliveries s f t0 t1 tok := by
  simp only [Machine.deliveries, sendsTo, State.elem, h.elems]

end

/-! ## What CFGLOAD answers -/

/-- `t` answers a CFGLOAD: the result has been sent, memory is as it was, and the partition's images are `l`. -/
structure CfgAnswer (s : State) (w : GWord) (f : Firing) (p : Nat) (v : Val) (l : List Image) (t : State) : Prop where
  mem : t.mem = s.mem
  received : Received s t f.core (deliveries s f w.t0 w.t1 ⟨f.tag, .data, v⟩)
  images : ImagesAre t p l

section
variable {s u t : State} {w : GWord} {f : Firing} {p : Nat}

theorem cfgAnswer_emit (h : CoreKept f.core s u) (hc : f.core < s.cores.length) (v : Val) :
    CfgAnswer s w f p v (s.part p).images (u.emit f w.t0 w.t1 .data v) := by
  rw [State.emit_data]
  refine ⟨h.mem, ?_, congrArg Part.images (h.part p)⟩
  rw [Received, State.emits, State.withTokens, State.core_setCore_self _ _ _ (h.length ▸ hc), h.fabric, h.deliveries]

/-- The same after a change of the partition. -/
theorem cfgAnswer_emit_setPart (h : CoreKept f.core s u) (hc : f.core < s.cores.length) (hp : p < s.parts.length)
    (v : Val) (x : Part) : CfgAnswer s w f p v x.images ((u.setPart p x).emit f w.t0 w.t1 .data v) := by
  rw [State.emit_data]
  refine ⟨h.mem, ?_, congrArg Part.images (State.part_setPart_self u p x (h.parts ▸ hp))⟩
  have hd := h.deliveries w.t0 w.t1 ⟨f.tag, .data, v⟩
  rw [Received, State.emits, State.withTokens, State.core_setCore_self _ _ _ (h.length ▸ hc), State.core_setPart,
    h.fabric, ← hd]
  rfl

/-! ## RELEASE (R95, R98) -/

theorem Part.installed_isNone {v : Part} {h : Nat} :
    (v.installed h).isNone = true ↔ ∀ m ∈ v.images, m.handle = h → m.alloc ≠ none := by
  simp [Part.installed]

theorem Part.installed_isNone_false {v : Part} {h : Nat} (hm : ∃ m ∈ v.images, m.handle = h ∧ m.alloc = none) :
    (v.installed h).isNone = false := by
  obtain ⟨m, hmem, hh, ha⟩ := hm
  exact Bool.eq_false_of_not_eq_true fun hn => Part.installed_isNone.mp hn m hmem hh ha

/-- The images of a partition once the release of a handle has been asked for under `r`. -/
def released (l : List Image) (h : Nat) (r : InstRef) : List Image :=
  l.map fun m => if m.handle = h ∧ m.alloc = none then { m with rel := r :: m.rel } else m

section
variable {h : Nat} (hh : bits f.lval.scalar 15 0 = h)
include hh

theorem cfgRelease_absent (hi : ((s.part p).installed h).isNone = true) :
    cfgRelease s w f p = s.emits f w.t0 w.t1 .data (cfgResult 18 h 0 0) := by
  subst hh
  simp only [cfgRelease, hi, if_true, State.emit_data]

theorem cfgRelease_busy (hi : ((s.part p).installed h).isNone = false) (hb : s.handleBusy p h = true) :
    cfgRelease s w f p = s.emits f w.t0 w.t1 .data (cfgResult 19 h 0 0) := by
  subst hh
  simp only [cfgRelease, hi, hb, if_true, Bool.false_eq_true, if_false, State.emit_data]

theorem cfgAnswer_cfgRelease (hc : f.core < s.cores.length) (hp : p < s.parts.length)
    (hi : ((s.part p).installed h).isNone = false) (hb : s.handleBusy p h = false) {i : Inst}
    (hinst : s.instOf f = some i) :
    CfgAnswer s w f p (cfgResult 0 h 0 0) (released (s.part p).images h f.ref) (cfgRelease s w f p) := by
  subst hh
  have hrel : (s.part p).images.map (fun m => if (m.handle == bits f.lval.scalar 15 0 && m.alloc.isNone) = true then
      { m with rel := f.ref :: m.rel } else m) = released (s.part p).images (bits f.lval.scalar 15 0) f.ref := by
    simp only [released, Bool.and_eq_true, beq_iff_eq, Option.isNone_iff_eq_none]
  simp only [cfgRelease, hi, hb, hinst, Bool.false_eq_true, if_false, Option.isNone_some, hrel]
  exact cfgAnswer_emit_setPart (.refl _ s) hc hp _
    { s.part p with images := released (s.part p).images (bits f.lval.scalar 15 0) f.ref }

end

/-! ## The check and the copy (R95-R99) -/

/-- The words of the image, as CFGLOAD reads them. -/
def cfgWords (s : State) (f : Firing) : List Word := (s.cacheAcquire f.core).imageWords f f.lval.scalar.toNat

/-- What the check of the image comes to. -/
def cfgVerdict (s : State) (f : Firing) : CheckEnd :=
  runStages ((s.cacheAcquire f.core).imageErr f.core f.lval.scalar.toNat) (checkStages (cfgWords s f))

/-- The addresses that the copy translates. -/
def cfgTouched (s : State) (f : Firing) : List Nat := touched f.lval.scalar.toNat (imgLength (cfgWords s f))

/-- The state in which the image is copied. -/
def cfgFilled (s : State) (f : Firing) : State := (s.cacheAcquire f.core).fillTlb f.core (cfgTouched s f)

section
variable {only : Bool} {code blk wrd : Nat} (hc : f.core < s.cores.length) (hcache : (s.core f.core).cache = [])
include hc hcache

theorem coreKept_acquired_fillTlb (vas : List Nat) : CoreKept f.core s ((s.cacheAcquire f.core).fillTlb f.core vas) :=
  have ha := coreKept_cacheAcquire hc hcache
  ha.trans (coreKept_fillTlb vas (ha.length ▸ hc) (ha.cache.trans hcache))

theorem coreKept_cfgFilled : CoreKept f.core s (cfgFilled s f) := coreKept_acquired_fillTlb hc hcache _

/-- An image that the check refuses. -/
theorem cfgAnswer_refuse (hv : cfgVerdict s f = .refuse code blk wrd) :
    CfgAnswer s w f p (cfgResult code 0 blk wrd) (s.part p).images (cfgInstall s w f p only) := by
  unfold cfgVerdict cfgWords at hv
  simp only [cfgInstall, hv]
  exact cfgAnswer_emit (coreKept_acquired_fillTlb hc hcache _) hc _

section
variable (hv : cfgVerdict s f = .pass)
include hv

/-- CHECK of a good image. -/
theorem cfgAnswer_check : CfgAnswer s w f p (cfgResult 0 0 0 0) (s.part p).images (cfgInstall s w f p true) := by
  unfold cfgVerdict cfgWords at hv
  simp only [cfgInstall, hv, if_true]
  exact cfgAnswer_emit (coreKept_cacheAcquire hc hcache) hc _

variable (hstall : (s.cacheAcquire f.core).walkStalls f.core (cfgTouched s f) = false)
include hstall

/-- A good image for which no handle is free. -/
theorem cfgAnswer_full (hfree : (s.part p).freeHandle = none) :
    CfgAnswer s w f p (cfgResult 17 0 0 0) (s.part p).images (cfgInstall s w f p false) := by
  have hk := coreKept_cfgFilled hc hcache
  unfold cfgVerdict at hv
  unfold cfgFilled at hk
  unfold cfgTouched at hstall hk
  unfold cfgWords at hv hstall hk
  simp only [cfgInstall, hv, hstall, hk.part, hfree, Bool.false_eq_true, if_false]
  exact cfgAnswer_emit hk hc _

/-- A good image takes the lowest free handle. -/
theorem cfgAnswer_install (hp : p < s.parts.length) {i : Inst} {n : Nat} {pas : List Nat} (hinst : s.instOf f = some i)
    (hfree : (s.part p).freeHandle = some n)
    (hchk : (cfgFilled s f).check f.core .load f.lval.scalar.toNat (imgLength (cfgWords s f)) 1 = .ok pas)
    (hlink : (s.cacheAcquire f.core).linkDown f.core pas = false) :
    CfgAnswer s w f p (cfgResult 0 n 0 0) (⟨n, cfgWords s f, some f.ref, []⟩ :: (s.part p).images)
      (cfgInstall s w f p false) := by
  have hk := coreKept_cfgFilled hc hcache
  rw [(coreKept_cacheAcquire hc hcache).linkDown] at hlink
  unfold cfgVerdict at hv
  unfold cfgFilled at hk hchk
  unfold cfgTouched at hstall hk hchk
  unfold cfgWords at hv hstall hk hchk ⊢
  simp only [cfgInstall, hv, hstall, hk.part, hk.instOf, hfree, hchk, hk.linkDown, hlink, hinst, Option.isNone_some,
    Bool.false_eq_true, if_false]
  exact cfgAnswer_emit_setPart hk hc hp _ { s.part p with images :=
    ⟨n, (s.cacheAcquire f.core).imageWords f f.lval.scalar.toNat, some f.ref, []⟩ :: (s.part p).images }

end

end

/-! ## The options (R95) -/

theorem dataOnly_cfgload (hd : DataOnly (if w.imm then leftOnly f else both f)) :
    DataOnly ((if w.imm then leftOnly else both) f) := by
  rwa [ite_apply]

section
variable (hsel : s.sel = some f) (hf : Fires w.pm f) (hd : DataOnly (if w.imm then leftOnly f else both f))
include hsel hf hd

theorem exec_cfgload_undefined (ho : 4 ≤ (rightOf w f).scalar.toNat) :
    exec (.cfgload w) s = .next (s.emits f w.t0 w.t1 .data (cfgResult 20 0 0 0)) := by
  rw [exec_cfgload, execCfgload, fireAs_run _ _ _ _ _ hsel hf (dataOnly_cfgload hd), ← State.emit_data]
  exact congrArg _ (if_pos (by omega))

variable (hp : s.partOfCore f.core = some p)
include hp

theorem exec_cfgload_release (ho : 2 ≤ (rightOf w f).scalar.toNat) (ho' : (rightOf w f).scalar.toNat < 4) :
    exec (.cfgload w) s = .next (cfgRelease s w f p) := by
  have hbit : bit (rightOf w f).scalar 1 = true := by
    have h23 : (rightOf w f).scalar.toNat = 2 ∨ (rightOf w f).scalar.toNat = 3 := by omega
    rcases h23 with h | h <;> simp [bit, h, Nat.testBit]
  rw [exec_cfgload, execCfgload, fireAs_run _ _ _ _ _ hsel hf (dataOnly_cfgload hd), hp]
  dsimp only
  rw [if_neg (by omega), if_pos hbit, Option.getD_some]

theorem exec_cfgload_install {only : Bool} (ho : (rightOf w f).scalar.toNat = only.toNat) (ht : s.portTakes f = true)
    (hr : s.readAllowed f 0 [] = true) : exec (.cfgload w) s = .next (cfgInstall s w f p only) := by
  have hbits : bit (rightOf w f).scalar 1 = false ∧ bit (rightOf w f).scalar 0 = only ∧
      (rightOf w f).scalar.toNat / 4 = 0 := by
    cases only <;> simp [bit, ho, Nat.testBit]
  obtain ⟨h1, h0, hdiv⟩ := hbits
  rw [exec_cfgload, execCfgload, fireAs_run _ _ _ _ _ hsel hf (dataOnly_cfgload hd), hp]
  simp [h1, h0, hdiv, ht, hr]

end

end

/-- Settles O38: the conditions of the visited words, and the outcomes of the check under each option. -/
theorem imageLoads : Obligations.ImageLoads := by
  unfold Obligations.ImageLoads
  refine ⟨fun _ _ => imageMeets_of_pass, fun _ _ => refuse_magic, fun _ _ _ _ _ => code_of_refuse,
    fun w s f p hsel hf hd hpart hp hc => ?_⟩
  have answer {v : Val} {l : List Image} {t : State} (hexec : exec (.cfgload w) s = .next t)
      (h : CfgAnswer s w f p v l t) : ∃ t : State, (exec (.cfgload w) s = .next t ∧ t.mem = s.mem ∧
        Received s t f.core (deliveries s f w.t0 w.t1 ⟨f.tag, .data, v⟩)) ∧ ImagesAre t p l :=
    ⟨t, ⟨hexec, h.mem, h.received⟩, h.images⟩
  refine ⟨exec_cfgload_undefined hsel hf hd, fun ho ho' => ?_, fun ho ht hcache hr => ?_⟩
  · have hexec := exec_cfgload_release hsel hf hd hpart ho ho'
    refine ⟨fun habs => ?_, fun hm => ⟨fun hb => ?_, fun hb i hinst => ?_⟩⟩
    · rw [hexec, cfgRelease_absent rfl (Part.installed_isNone.mpr habs)]
      rfl
    · rw [hexec, cfgRelease_busy rfl (Part.installed_isNone_false hm) hb]
      rfl
    · exact answer hexec (cfgAnswer_cfgRelease rfl hc hp (Part.installed_isNone_false hm) hb hinst)
  · have install {only : Bool} (ho : (rightOf w f).scalar.toNat = only.toNat) :=
      exec_cfgload_install hsel hf hd hpart ho ht hr
    have h01 : (rightOf w f).scalar.toNat = 0 ∨ (rightOf w f).scalar.toNat = 1 := by omega
    obtain ⟨only, honly⟩ : ∃ only : Bool, (rightOf w f).scalar.toNat = only.toNat :=
      h01.elim (fun h => ⟨false, h⟩) fun h => ⟨true, h⟩
    refine ⟨fun code blk wrd hv => ?_, fun hv ho1 => ?_, fun hv ho0 hstall hfree => ?_,
      fun i n pas hv ho0 hstall hinst hfree hchk hlink => ?_⟩
    · exact answer (install honly) (cfgAnswer_refuse hc hcache hv)
    · exact answer (install (only := true) ho1) (cfgAnswer_check hc hcache hv)
    · exact answer (install (only := false) ho0) (cfgAnswer_full hc hcache hv hstall hfree)
    · exact answer (install (only := false) ho0) (cfgAnswer_install hc hcache hv hstall hp hinst hfree hchk hlink)

end Sys2Proof.Machine
end

section
/-! SUPPORT. What traffic to memory leaves of a state: translations, acquires, write-backs, stores at the coherence point and
lines of CACHE change memory, CACHE, late writes, translations, marks, the presence of frame slots and what accesses of the past
have read, and nothing else (R138, R224, R320, R325). -/

namespace Sys2Proof.Machine

/-! ## The part of a state that traffic leaves -/

/-- A context without the presence of its slots, its past reads and its kept results. -/
def Ctx.steady (v : Ctx) : Ctx := { v with slots := [], past := [], kept := [] }

/-- A core without CACHE, late writes, translations and marks. -/
def Core.steady (k : Core) : Core :=
  { k with cache := [], cacheHw := 0, late := [], tlb := [], spent := [], padMarks := [], tileMarks := [],
           cxs := k.cxs.map Ctx.steady }

/-- A state without memory, what is known of releases and reservations, and the last-level cache. -/
def State.steady (s : State) : State := { s with mem := [], rels := [], ccResv := [], llc := [], cores := s.cores.map Core.steady }

theorem Core.reset_steady : Core.reset.steady = Core.reset := rfl

theorem getD_map_of_default {α : Type} (l : List α) (n : Nat) (d : α) (g : α → α) (h : g d = d) :
    (l.map g).getD n d = g (l.getD n d) := by
  rcases Nat.lt_or_ge n l.length with hn | hn
  · simp [List.getD, hn]
  · simp [List.getD, hn, h]

@[simp] theorem State.steady_core (s : State) (c : Nat) : s.steady.core c = (s.core c).steady :=
  getD_map_of_default _ _ _ _ Core.reset_steady

@[simp] theorem State.steady_cx (s : State) (c x : Nat) : s.steady.cx c x = (s.cx c x).steady := by
  unfold State.cx
  rw [State.steady_core]
  exact getD_map_of_default _ _ _ _ rfl

theorem State.steady_setCore (s : State) (c : Nat) (k : Core) : (s.setCore c k).steady = s.steady.setCore c k.steady := by
  simp [State.steady, State.setCore, List.map_set]

/-- A write of a core that leaves the part that traffic leaves. -/
theorem State.steady_setCore_of {s : State} {c : Nat} {k : Core} (h : k.steady = (s.core c).steady) :
    (s.setCore c k).steady = s.steady := by
  rw [State.steady_setCore, h, ← State.steady_core, State.setCore_core]

theorem State.steady_setCore_trans {s u : State} {c : Nat} {k : Core} (hu : u.steady = s.steady)
    (h : k.steady = (u.core c).steady) : (u.setCore c k).steady = s.steady := (State.steady_setCore_of h).trans hu

theorem State.steady_setCx_of {s : State} {c x : Nat} {v : Ctx} (h : v.steady = (s.cx c x).steady) :
    (s.setCx c x v).steady = s.steady := by
  refine State.steady_setCore_of ?_
  have hx : (s.core c).cxs.map Ctx.steady = ((s.core c).cxs.set x v).map Ctx.steady := by
    rw [List.map_set, h, ← State.steady_cx, State.cx, State.steady_core]
    exact (set_getD_self ..).symm
  simp only [Core.steady, ← hx]

theorem foldl_steady {α : Type} {f : State → α → State} {l : List α} {s : State} (h : ∀ t a, (f t a).steady = t.steady) :
    (l.foldl f s).steady = s.steady :=
  List.foldlRecOn (motive := fun t => t.steady = s.steady) l f rfl fun t ht a _ => (h t a).trans ht

/-! ## What follows from an unchanged part -/

section
variable {s t : State} (h : t.steady = s.steady)
include h

/-- What can be told of a state by the part that traffic leaves is as it was. -/
theorem of_steady {α : Type} (g : State → α) (hg : ∀ u : State, g u.steady = g u) : g t = g s := by
  rw [← hg t, h, hg s]

theorem core_of_steady {α : Type} (g : Core → α) (hg : ∀ k : Core, g k.steady = g k) (c : Nat) : g (t.core c) = g (s.core c) :=
  of_steady h (fun u => g (u.core c)) fun u => by rw [State.steady_core, hg]

theorem cx_of_steady {α : Type} (g : Ctx → α) (hg : ∀ v : Ctx, g v.steady = g v) (c x : Nat) : g (t.cx c x) = g (s.cx c x) :=
  of_steady h (fun u => g (u.cx c x)) fun u => by rw [State.steady_cx, hg]

theorem parts_of_steady : t.parts = s.parts := of_steady h State.parts fun _ => rfl
theorem part_of_steady (p : Nat) : t.part p = s.part p := of_steady h (·.part p) fun _ => rfl
theorem links_of_steady : t.links = s.links := of_steady h State.links fun _ => rfl
theorem bad_of_steady : t.bad = s.bad := of_steady h State.bad fun _ => rfl
theorem cores_length_of_steady : t.cores.length = s.cores.length := of_steady h (·.cores.length) fun _ => by simp [State.steady]
theorem fabric_of_steady (c : Nat) : (t.core c).fabric = (s.core c).fabric := core_of_steady h Core.fabric (fun _ => rfl) c
theorem elems_of_steady (c : Nat) : (t.core c).elems = (s.core c).elems := core_of_steady h Core.elems (fun _ => rfl) c
theorem cmds_of_steady (c : Nat) : (t.core c).cmds = (s.core c).cmds := core_of_steady h Core.cmds (fun _ => rfl) c
theorem split_of_steady (c : Nat) : (t.core c).split = (s.core c).split := core_of_steady h Core.split (fun _ => rfl) c
theorem ctags_of_steady (c : Nat) : (t.core c).ctags = (s.core c).ctags := core_of_steady h Core.ctags (fun _ => rfl) c
theorem frozen_of_steady (c : Nat) : (t.core c).frozen = (s.core c).frozen := core_of_steady h Core.frozen (fun _ => rfl) c
theorem rbuf_of_steady (c : Nat) : (t.core c).rbuf = (s.core c).rbuf := core_of_steady h Core.rbuf (fun _ => rfl) c
theorem xgen_of_steady (c : Nat) : (t.core c).xgen = (s.core c).xgen := core_of_steady h Core.xgen (fun _ => rfl) c
theorem cxs_length_of_steady (c : Nat) : (t.core c).cxs.length = (s.core c).cxs.length :=
  core_of_steady h (·.cxs.length) (fun _ => by simp [Core.steady]) c
theorem pend_of_steady (c x : Nat) : (t.cx c x).pend = (s.cx c x).pend := cx_of_steady h Ctx.pend (fun _ => rfl) c x
theorem ctl_of_steady (c x : Nat) : (t.cx c x).ctl = (s.cx c x).ctl := cx_of_steady h Ctx.ctl (fun _ => rfl) c x
theorem gseq_of_steady (c x : Nat) : (t.cx c x).gseq = (s.cx c x).gseq := cx_of_steady h Ctx.gseq (fun _ => rfl) c x
theorem strand_of_steady (c x : Nat) (b : Bool) : (t.cx c x).strand b = (s.cx c x).strand b :=
  cx_of_steady h (·.strand b) (fun _ => rfl) c x
theorem instOf_of_steady (f : Firing) : t.instOf f = s.instOf f :=
  cx_of_steady h (fun v => v.inst f.hdl f.seq) (fun _ => rfl) f.core f.ctx
theorem oldest_of_steady (f : Firing) : t.oldest f = s.oldest f := by
  simp only [State.oldest, State.older, strand_of_steady h]
theorem elem_of_steady (c e : Nat) : t.elem c e = s.elem c e := by rw [State.elem, elems_of_steady h, State.elem]
theorem isFrozen_of_steady (c n x : Nat) : t.isFrozen c n x = s.isFrozen c n x := by
  simp only [State.isFrozen, frozen_of_steady h]
theorem linkDown_of_steady (c : Nat) (pas : List Nat) : t.linkDown c pas = s.linkDown c pas := by
  simp only [State.linkDown, State.linkFailed, links_of_steady h]
theorem partOfCore_of_steady (c : Nat) : t.partOfCore c = s.partOfCore c := by
  simp only [State.partOfCore, parts_of_steady h]
theorem inSize_of_steady (pa : Nat) : t.inSize pa = s.inSize pa := by
  unfold State.inSize
  split <;> simp only [split_of_steady h]
theorem owned_of_steady (p pa : Nat) : t.owned p pa = s.owned p pa := by
  unfold State.owned
  split <;> simp only [part_of_steady h, split_of_steady h]
theorem ownedBy_of_steady (c pa : Nat) : t.ownedBy c pa = s.ownedBy c pa := by
  simp only [State.ownedBy, partOfCore_of_steady h, owned_of_steady h]
theorem deliveries_of_steady (f : Firing) (t0 t1 : Target) (tok : Tok) : deliveries t f t0 t1 tok = deliveries s f t0 t1 tok := by
  simp only [deliveries, sendsTo, elem_of_steady h]

end

/-! ## Stores, CACHE and late writes (R320, R321, R325) -/

section
variable (s : State) (c : Nat)

@[simp] theorem State.store_steady (l : List (Nat × Byte)) (z : List Nat) : (s.store l z).steady = s.steady := by
  have hcores : (s.store l z).cores.map Core.steady = s.cores.map Core.steady := by
    refine List.ext_getElem (by simp) fun n h1 h2 => ?_
    simp [State.store, Core.steady, Ctx.steady]
  simp only [State.steady, hcores]
  rfl

@[simp] theorem State.markLines_steady (pas : List Nat) : (s.markLines pas).steady = s.steady := by
  have hcores : (s.markLines pas).cores.map Core.steady = s.cores.map Core.steady := by
    refine List.ext_getElem (by simp) fun n h1 h2 => ?_
    simp [State.markLines, Core.steady]
  simp only [State.steady, hcores]
  rfl

@[simp] theorem State.writeBack_steady (p : CLine → Bool) : (s.writeBack c p).steady = s.steady :=
  State.steady_setCore_trans (State.store_steady ..) rfl

@[simp] theorem State.dropLines_steady (p : CLine → Bool) : (s.dropLines c p).steady = s.steady :=
  State.steady_setCore_of rfl

@[simp] theorem State.cacheRelease_steady : (s.cacheRelease c).steady = s.steady := State.writeBack_steady ..

@[simp] theorem State.cacheAcquire_steady : (s.cacheAcquire c).steady = s.steady := by simp [State.cacheAcquire]

@[simp] theorem State.evictLine_steady (line : Nat) : (s.evictLine c line).steady = s.steady := by simp [State.evictLine]

@[simp] theorem State.cacheRoom_steady (line : Nat) : (s.cacheRoom c line).steady = s.steady := by
  fun_cases State.cacheRoom <;> simp

@[simp] theorem State.cacheFill_steady (line : Nat) : (s.cacheFill c line).steady = s.steady := by
  fun_cases State.cacheFill
  · rfl
  · exact State.cacheRoom_steady ..
  · exact State.steady_setCore_trans (State.cacheRoom_steady ..) rfl

@[simp] theorem State.cachePut_steady (l : List (Nat × Byte)) (b : Bool) : (s.cachePut c l b).steady = s.steady := by
  fun_cases State.cachePut
  · rfl
  · exact State.steady_setCore_of rfl

@[simp] theorem State.storeIsland_steady (l : List (Nat × Byte)) (z : List Nat) :
    (s.storeIsland c l z).steady = s.steady := by simp [State.storeIsland]

@[simp] theorem State.lateOut_steady (l : Late) (p : Nat → Bool) : (s.lateOut c l p).steady = s.steady := by
  simp [State.lateOut]

@[simp] theorem State.lateWrite_steady (n : Nat) (p : Nat → Bool) : (s.lateWrite c n p).steady = s.steady := by
  fun_cases State.lateWrite
  · rfl
  all_goals exact (State.lateOut_steady ..).trans (State.steady_setCore_of rfl)

@[simp] theorem State.settleBytes_steady (pas : List Nat) : (s.settleBytes pas).steady = s.steady := by
  refine foldl_steady fun t d => ?_
  dsimp only
  split
  · rfl
  · exact (foldl_steady fun u l => State.lateOut_steady ..).trans (State.steady_setCore_of rfl)

@[simp] theorem State.cacheForAtomic_steady (pas : List Nat) : (s.cacheForAtomic c pas).steady = s.steady :=
  foldl_steady fun _ _ => State.evictLine_steady ..

@[simp] theorem State.fillTlb_steady (vas : List Nat) : (s.fillTlb c vas).steady = s.steady := by
  refine foldl_steady fun t va => ?_
  dsimp only
  split
  · rfl
  · split
    · exact State.steady_setCore_trans (State.cacheAcquire_steady ..) rfl
    · exact State.cacheAcquire_steady ..

@[simp] theorem State.llcTake_steady (pa : Nat) : (s.llcTake pa).steady = s.steady := by
  fun_cases State.llcTake <;> rfl

@[simp] theorem State.allocLines_steady (pas : List Nat) : (s.allocLines c pas).steady = s.steady :=
  foldl_steady fun t pa => by simp

@[simp] theorem State.acquireAt_steady (w : MWord) : (s.acquireAt c w).steady = s.steady := by
  unfold State.acquireAt
  split <;> simp

@[simp] theorem State.atomicAcquire_steady (w : MWord) (b : Bool) : (s.atomicAcquire c w b).steady = s.steady := by
  unfold State.atomicAcquire
  split <;> simp

@[simp] theorem State.releaseAt_steady (scope : Nat) : (s.releaseAt c scope).steady = s.steady := by
  unfold State.releaseAt
  split <;> simp

@[simp] theorem State.noteRelease_steady (scope : Nat) (b : Bool) (l : List (Nat × Byte)) :
    (s.noteRelease c scope b l).steady = s.steady := by
  unfold State.noteRelease
  split <;> rfl

@[simp] theorem State.atomicStore_steady (scope : Nat) (b : Bool) (l : List (Nat × Byte)) :
    (s.atomicStore c scope b l).steady = s.steady :=
  (State.noteRelease_steady ..).trans (State.store_steady s l [])

@[simp] theorem State.remember_steady (f : Firing) (lo hi : Nat × Nat) (l : List (Nat × Byte)) :
    (s.remember f lo hi l).steady = s.steady := State.steady_setCx_of rfl

@[simp] theorem State.rememberOld_steady (f : Firing) (place : Nat) (pas : List Nat) :
    (s.rememberOld f place pas).steady = s.steady := by
  unfold State.rememberOld
  split <;> simp

@[simp] theorem State.loadBytes_steady (f : Firing) (place : Nat) (pas : List Nat) :
    (s.loadBytes f place pas).1.steady = s.steady := by
  simp only [State.loadBytes]
  split
  · exact foldl_steady fun t g => State.remember_steady ..
  · rfl

@[simp] theorem State.keep_steady (f : Firing) (l : List (Kind × Val)) : (s.keep f l).steady = s.steady := by
  fun_cases State.keep
  · rfl
  · exact State.steady_setCx_of rfl

end
end Sys2Proof.Machine
end

section
/-! SUPPORT. What islands send (R16, R244), and what changes of the fabric, of held operations, of commands and of an Inst in
flight leave alone. -/

namespace Sys2Proof.Machine

/-! ## Tokens in the fabric -/

section
variable {s t u : State} {c : Nat}

@[simp] theorem State.withTokens_parts (s : State) (c : Nat) (l : List Flight) : (s.withTokens c l).parts = s.parts := rfl
@[simp] theorem State.withTokens_length (s : State) (c : Nat) (l : List Flight) :
    (s.withTokens c l).cores.length = s.cores.length := by simp [State.withTokens]

theorem State.withTokens_core (l : List Flight) (hc : c < s.cores.length) :
    (s.withTokens c l).core c = { s.core c with fabric := (s.core c).fabric ++ l } := State.core_setCore_self _ _ _ hc

/-- A field of a core other than its fabric. -/
theorem State.withTokens_core_field {α : Type} (g : Core → α) (hg : ∀ k l, g { k with fabric := l } = g k)
    (s : State) (c d : Nat) (l : List Flight) : g ((s.withTokens c l).core d) = g (s.core d) := by
  unfold State.withTokens
  rcases Nat.lt_or_ge c s.cores.length with hc | hc
  · by_cases h : c = d
    · subst h
      rw [State.core_setCore_self _ _ _ hc, hg]
    · rw [State.core_setCore_ne _ _ _ _ h]
  · rw [State.setCore_absent _ _ _ hc]

@[simp] theorem State.withTokens_cx (s : State) (c d x : Nat) (l : List Flight) : (s.withTokens c l).cx d x = s.cx d x :=
  State.withTokens_core_field (fun k => k.cxs.getD x Ctx.reset) (fun _ _ => rfl) s c d l
@[simp] theorem State.withTokens_cmds (s : State) (c d : Nat) (l : List Flight) :
    ((s.withTokens c l).core d).cmds = (s.core d).cmds := State.withTokens_core_field Core.cmds (fun _ _ => rfl) s c d l
@[simp] theorem State.withTokens_ctags (s : State) (c d : Nat) (l : List Flight) :
    ((s.withTokens c l).core d).ctags = (s.core d).ctags := State.withTokens_core_field Core.ctags (fun _ _ => rfl) s c d l
@[simp] theorem State.withTokens_cache (s : State) (c d : Nat) (l : List Flight) :
    ((s.withTokens c l).core d).cache = (s.core d).cache := State.withTokens_core_field Core.cache (fun _ _ => rfl) s c d l
@[simp] theorem State.withTokens_late (s : State) (c d : Nat) (l : List Flight) :
    ((s.withTokens c l).core d).late = (s.core d).late := State.withTokens_core_field Core.late (fun _ _ => rfl) s c d l
@[simp] theorem State.withTokens_rbuf (s : State) (c d : Nat) (l : List Flight) :
    ((s.withTokens c l).core d).rbuf = (s.core d).rbuf := State.withTokens_core_field Core.rbuf (fun _ _ => rfl) s c d l
@[simp] theorem State.withTokens_instOf (s : State) (c : Nat) (l : List Flight) (f : Firing) :
    (s.withTokens c l).instOf f = s.instOf f := by simp only [State.instOf, State.withTokens_cx]

theorem received_withTokens (l : List Flight) (hc : c < u.cores.length) (hf : (u.core c).fabric = (s.core c).fabric) :
    Received s (u.withTokens c l) c l := by
  rw [Received, State.withTokens_core l hc, hf]

theorem received_nil (hf : (t.core c).fabric = (s.core c).fabric) : Received s t c [] := by
  rw [Received, hf, List.append_nil]

theorem received_trans {l m : List Flight} (h : Received s t c l) (h' : Received t u c m) : Received s u c (l ++ m) := by
  rw [Received, h', h, List.append_assoc]

/-- What one element's firing sends depends on the element alone. -/
theorem deliveries_congr {f : Firing} (h : (t.core f.core).elems = (s.core f.core).elems) (t0 t1 : Target) (tok : Tok) :
    deliveries t f t0 t1 tok = deliveries s f t0 t1 tok := by
  simp only [deliveries, sendsTo, State.elem, h]

/-- Tokens of a firing that an island sends. -/
theorem State.relabel_withTokens (l : List Flight) (src : Nat) :
    (s.withTokens c l).relabel c (s.core c).fabric.length src = s.withTokens c (sentBy src l) := by
  rcases Nat.lt_or_ge c s.cores.length with hc | hc
  · unfold State.relabel
    rw [State.withTokens_core l hc]
    simp only [State.withTokens, State.setCore_setCore, List.take_left', List.drop_left', sentBy]
  · simp only [State.relabel, State.withTokens, State.setCore_absent _ _ _ hc]

/-- A state whose fabric holds `n` tokens is left by `relabel` from `n` on. -/
theorem State.relabel_length {n : Nat} (src : Nat) (h : n = (s.core c).fabric.length) : s.relabel c n src = s := by
  subst h
  simpa [sentBy] using State.relabel_withTokens (s := s) (c := c) [] src

theorem State.emitFrom_eq (src : Nat) (f : Firing) (t0 t1 : Target) (k : Kind) (v : Val)
    (h : k.isFault = false ∨ t0 ≠ .none ∨ t1 ≠ .none) :
    s.emitFrom src f t0 t1 k v = s.withTokens f.core (sentBy src (deliveries s f t0 t1 ⟨f.tag, k, v⟩)) := by
  rw [State.emitFrom, State.emit_eq _ _ _ _ _ _ h]
  exact State.relabel_withTokens ..

end

/-! ## Marks (R30, R346) -/

section
variable (s : State) (f : Firing) (v : Val)

theorem State.setCx_core_field {α : Type} (g : Core → α) (hg : ∀ k l, g { k with cxs := l } = g k) (s : State)
    (c d x : Nat) (v : Ctx) : g ((s.setCx c x v).core d) = g (s.core d) := by
  unfold State.setCx
  rcases Nat.lt_or_ge c s.cores.length with hc | hc
  · by_cases h : c = d
    · subst h
      rw [State.core_setCore_self _ _ _ hc, hg]
    · rw [State.core_setCore_ne _ _ _ _ h]
  · rw [State.setCore_absent _ _ _ hc]

/-- A field of a context that the write of a context leaves alone. -/
theorem State.setCx_cx_field {α : Type} (g : Ctx → α) (s : State) (c d x y : Nat) (v : Ctx) (hv : g v = g (s.cx c x)) :
    g ((s.setCx c x v).cx d y) = g (s.cx d y) := by
  by_cases hd : c = d
  · subst hd
    by_cases hx : x = y
    · subst hx
      rcases Nat.lt_or_ge c s.cores.length with hc | hc
      · rcases Nat.lt_or_ge x (s.core c).cxs.length with hxl | hxl
        · rw [State.cx_setCx_self _ _ _ _ hc hxl, hv]
        · unfold State.setCx
          rw [set_of_length_le _ _ _ hxl, State.setCore_core]
      · rw [State.setCx, State.setCore_absent _ _ _ hc]
    · rw [State.cx_setCx_ne _ _ _ _ _ hx]
  · rw [State.cx_setCx_core _ _ _ _ _ _ hd]

/-- What a mark can change of a context: its blocks in flight, its phase and what it wants to fetch. -/
structure MarkKeeps {α : Type} (g : Ctx → α) : Prop where
  strand : ∀ v b l, g (Ctx.setStrand v b l) = g v
  fails : ∀ v : Ctx, g { v with phase := .failed, want := none, hWant := none } = g v

theorem State.failCtx_core_field {α : Type} (g : Core → α) (hg : ∀ k l, g { k with cxs := l } = g k) (c x n d : Nat) :
    g ((s.failCtx c x n).core d) = g (s.core d) := by
  unfold State.failCtx
  dsimp only
  split
  · rfl
  · split
    · exact State.setCx_core_field g hg ..
    · exact State.setCx_core_field g hg ..

theorem State.markInst_core_field {α : Type} (g : Core → α) (hg : ∀ k l, g { k with cxs := l } = g k) (c x : Nat) (h : Bool)
    (q n d : Nat) : g ((s.markInst c x h q n).core d) = g (s.core d) := by
  have hmod (G : Inst → Inst) : g ((s.modInst c x h q G).core d) = g (s.core d) := State.setCx_core_field g hg ..
  unfold State.markInst
  split
  · rfl
  · split
    · rfl
    · dsimp only
      split <;> split <;> simp only [State.failCtx_core_field _ g hg, hmod]

/-- A mark of a block in flight leaves the fields of cores other than their contexts. -/
theorem State.mark_core_field {α : Type} (g : Core → α) (hg : ∀ k l, g { k with cxs := l } = g k) (d : Nat) :
    g ((s.mark f v).core d) = g (s.core d) := State.markInst_core_field s g hg ..

theorem State.failCtx_cx_field {α : Type} {g : Ctx → α} (hg : MarkKeeps g) (c x n d y : Nat) :
    g ((s.failCtx c x n).cx d y) = g (s.cx d y) := by
  unfold State.failCtx
  dsimp only
  split
  · rfl
  · split
    · exact State.setCx_cx_field g _ _ _ _ _ _ (hg.fails _)
    · exact State.setCx_cx_field g _ _ _ _ _ _ (hg.fails _)

theorem State.mark_cx_field {α : Type} {g : Ctx → α} (hg : MarkKeeps g) (d y : Nat) :
    g ((s.mark f v).cx d y) = g (s.cx d y) := by
  have hmod (G : Inst → Inst) : g ((s.modInst f.core f.ctx f.hdl f.seq G).cx d y) = g (s.cx d y) :=
    State.setCx_cx_field g _ _ _ _ _ _ (hg.strand ..)
  unfold State.mark State.markInst
  split
  · rfl
  · split
    · rfl
    · dsimp only
      split <;> split <;> simp only [State.failCtx_cx_field _ hg, hmod]

/-- A FAULT that an island has no target for marks its block, and any other result is sent. -/
theorem State.emitFrom_cases (src : Nat) (t0 t1 : Target) (k : Kind) :
    s.emitFrom src f t0 t1 k v = s.withTokens f.core (sentBy src (deliveries s f t0 t1 ⟨f.tag, k, v⟩)) ∨
      (deliveries s f t0 t1 ⟨f.tag, k, v⟩ = [] ∧ s.emitFrom src f t0 t1 k v = s.mark f v) := by
  by_cases h : k.isFault = false ∨ t0 ≠ .none ∨ t1 ≠ .none
  · exact .inl (State.emitFrom_eq _ _ _ _ _ _ h)
  · simp only [not_or, Bool.not_eq_false, not_not] at h
    obtain ⟨hk, rfl, rfl⟩ := h
    refine .inr ⟨rfl, ?_⟩
    have he : s.emit f .none .none k v = s.mark f v := by simp [State.emit, State.emitTok, hk]
    rw [State.emitFrom, he]
    exact State.relabel_length _ (congrArg List.length (State.mark_core_field s f v Core.fabric (fun _ _ => rfl) f.core)).symm

end

/-- What the emission of an island leaves: a field of cores other than fabric and contexts. -/
theorem State.emitFrom_core_field {α : Type} (g : Core → α) (hx : ∀ k l, g { k with cxs := l } = g k)
    (hf : ∀ k l, g { k with fabric := l } = g k) (s : State) (src : Nat) (f : Firing) (t0 t1 : Target) (k : Kind) (v : Val)
    (d : Nat) : g ((s.emitFrom src f t0 t1 k v).core d) = g (s.core d) := by
  rcases State.emitFrom_cases s f v src t0 t1 k with h | ⟨-, h⟩ <;> rw [h]
  · exact State.withTokens_core_field g hf ..
  · exact State.mark_core_field s f v g hx d

theorem State.emitFrom_cx_field {α : Type} {g : Ctx → α} (hg : MarkKeeps g) (s : State) (src : Nat) (f : Firing) (t0 t1 : Target)
    (k : Kind) (v : Val) (d y : Nat) : g ((s.emitFrom src f t0 t1 k v).cx d y) = g (s.cx d y) := by
  rcases State.emitFrom_cases s f v src t0 t1 k with h | ⟨-, h⟩ <;> rw [h]
  · rw [State.withTokens_cx]
  · exact State.mark_cx_field s f v hg d y

/-- Whatever an island emits, its targets receive, and there is nothing else in the fabric. -/
theorem received_emitFrom {s u : State} (src : Nat) (f : Firing) (t0 t1 : Target) (k : Kind) (v : Val)
    (hc : f.core < u.cores.length) (hf : (u.core f.core).fabric = (s.core f.core).fabric)
    (he : (u.core f.core).elems = (s.core f.core).elems) :
    Received s (u.emitFrom src f t0 t1 k v) f.core (sentBy src (deliveries s f t0 t1 ⟨f.tag, k, v⟩)) := by
  rw [← deliveries_congr he]
  rcases State.emitFrom_cases u f v src t0 t1 k with h | ⟨hd, h⟩ <;> rw [h]
  · exact received_withTokens _ hc hf
  · rw [hd]
    exact received_nil ((State.mark_core_field u f v Core.fabric (fun _ _ => rfl) _).trans hf)

end Sys2Proof.Machine
end

section
/-! SUPPORT. Bytes and lanes (R2, R27, R143-R145): what a store in a format of the lane width makes, a load in it reads back. -/

namespace Sys2Proof.Machine

/-! ## Little-endian numbers -/

@[simp] theorem natBytes_length (n x : Nat) : (natBytes n x).length = n := by simp [natBytes]

theorem natBytes_succ (n x : Nat) : natBytes (n + 1) x = BitVec.ofNat 8 x :: natBytes n (x / 256) := by
  simp only [natBytes, List.range_succ_eq_map, List.map_cons, List.map_map]
  refine congrArg₂ _ (by simp) (List.map_congr_left fun k _ => ?_)
  rw [Function.comp_apply, Nat.succ_eq_add_one, show 8 * (k + 1) = 8 + 8 * k by omega, Nat.shiftRight_add, Nat.shiftRight_eq_div_pow x 8]

theorem bytesToNat_natBytes (n x : Nat) : bytesToNat (natBytes n x) = x % 2 ^ (8 * n) := by
  induction n generalizing x with
  | zero => simp [natBytes, bytesToNat, Nat.mod_one]
  | succ n ih =>
    rw [natBytes_succ, bytesToNat, ih, BitVec.toNat_ofNat, show 8 * (n + 1) = 8 + 8 * n by omega, Nat.pow_add,
      Nat.mod_mul]

theorem bytesToNat_append (a b : List Byte) : bytesToNat (a ++ b) = bytesToNat a + 2 ^ (8 * a.length) * bytesToNat b := by
  induction a with
  | nil => simp [bytesToNat]
  | cons x a ih =>
    rw [List.cons_append, bytesToNat, ih, bytesToNat, List.length_cons, show 8 * (a.length + 1) = 8 + 8 * a.length by omega,
      Nat.pow_add]
    ring

/-- Chunks of one length stand at multiples of it. -/
theorem flatMap_slice {α β : Type} {n : Nat} (f : α → List β) (hf : ∀ a, (f a).length = n) (l : List α) (i : Nat)
    (hi : i < l.length) : ((l.flatMap f).drop (n * i)).take n = f l[i] := by
  induction l generalizing i with
  | nil => exact absurd hi (Nat.not_lt_zero i)
  | cons a l ih =>
    cases i with
    | zero => simp [← hf a]
    | succ i =>
      rw [List.flatMap_cons, Nat.mul_succ, Nat.add_comm, ← List.drop_drop, ← hf a, List.drop_left, hf a]
      exact ih i (Nat.lt_of_succ_lt_succ hi)

theorem flatMap_length_const {α β : Type} {n : Nat} (f : α → List β) (hf : ∀ a, (f a).length = n) (l : List α) :
    (l.flatMap f).length = l.length * n := by
  simp [List.length_flatMap, hf]

/-! ## Two's complement -/

theorem sval_emod (n x : Nat) : sval n x % ((2 ^ n : Nat) : Int) = ((x % 2 ^ n : Nat) : Int) := by
  have hb : ((x % 2 ^ n : Nat) : Int) % ((2 ^ n : Nat) : Int) = ((x % 2 ^ n : Nat) : Int) := by
    rw [← Int.natCast_mod, Nat.mod_mod]
  unfold sval
  dsimp only
  split
  · exact hb
  · rw [Int.sub_emod_right, hb]

theorem wrap_sval (n x : Nat) : wrap n (sval n x) = x % 2 ^ n := by rw [wrap, sval_emod, Int.toNat_natCast]

theorem wrap_natCast (n x : Nat) : wrap n (x : Int) = x % 2 ^ n := by rw [wrap, ← Int.natCast_mod, Int.toNat_natCast]

/-- A number read in either sign is its low bits again. -/
theorem wrap_ite_sval (b : Bool) (n x : Nat) : wrap n (if b then sval n x else x) = x % 2 ^ n := by
  cases b
  · exact wrap_natCast n x
  · exact wrap_sval n x

/-! ## Lanes -/

theorem readLanes_length (ty : RType) (v : Val) : (readLanes ty v).length = laneCount ty := by
  cases ty <;> rfl

theorem lane_lt (v : Val) (w i : Nat) : v.lane w i < 2 ^ w := by
  cases v <;> exact Nat.mod_lt _ (Nat.two_pow_pos w)

theorem readLanes_lt {ty : RType} {v : Val} {x : Nat} (h : x ∈ readLanes ty v) : x < 2 ^ laneBits ty := by
  unfold readLanes at h
  split at h
  · obtain ⟨i, -, rfl⟩ := List.mem_map.mp h
    exact lane_lt ..
  · rw [List.mem_singleton.mp h]
    exact Nat.mod_lt _ (Nat.two_pow_pos _)

/-- The bytes of lanes one after the other are those of the vector. -/
theorem lanesNat_eq_bytes (n : Nat) (xs : List Nat) : lanesNat (8 * n) xs = bytesToNat (xs.flatMap (natBytes n)) := by
  induction xs with
  | nil => rfl
  | cons x xs ih =>
    rw [lanesNat, List.flatMap_cons, bytesToNat_append, bytesToNat_natBytes, natBytes_length, ih]

/-! ## Formats of the width of the lanes (R143-R145) -/

/-- A store in an integer format of the width of the lanes keeps each lane's bits. -/
theorem storeBytes_of_width {ty : RType} {fm : Fmt} (sat : Bool) (scale : Nat) (v : Val) (hf : FF.ofFmt fm = none)
    (hl : fm ≠ .line64) (hw : 8 * fmtBytes fm = laneBits ty) :
    storeBytes ty fm sat scale v = (readLanes ty v).flatMap (natBytes (fmtBytes fm)) := by
  have hlane (x : Nat) (hx : x ∈ readLanes ty v) :
      wrap (laneBits ty) (if isSigned ty then sval (laneBits ty) x else x) = x := by
    rw [wrap_ite_sval, Nat.mod_eq_of_lt (readLanes_lt hx)]
  have hcongr {g : Nat → List Byte} (hg : ∀ x ∈ readLanes ty v, g x = natBytes (fmtBytes fm) x) :
      (readLanes ty v).flatMap g = (readLanes ty v).flatMap (natBytes (fmtBytes fm)) := by
    rw [List.flatMap_def, List.map_congr_left hg, ← List.flatMap_def]
  unfold storeBytes
  rw [if_neg hl]
  refine hcongr fun x hx => ?_
  simp only [hf, hw, Nat.lt_irrefl, decide_false, Bool.and_false, Bool.false_eq_true, if_false, hlane x hx]

/-- A load in such a format reads the lanes back. -/
theorem loadValue_of_width {ty : RType} {fm : Fmt} (scale : Nat) (v : Val) (hf : FF.ofFmt fm = none)
    (hl : fm ≠ .line64) (hw : 8 * fmtBytes fm = laneBits ty) :
    loadValue ty fm scale ((readLanes ty v).flatMap (natBytes (fmtBytes fm))) = writeLanes ty (readLanes ty v) := by
  unfold loadValue
  rw [if_neg hl]
  refine congrArg (writeLanes ty) (List.ext_getElem (by simp [readLanes_length]) fun i _ hi => ?_)
  have hx : bytesNat ((readLanes ty v).flatMap (natBytes (fmtBytes fm))) (fmtBytes fm * i) (fmtBytes fm) =
      (readLanes ty v)[i] := by
    rw [bytesNat, flatMap_slice _ (natBytes_length _) _ _ hi, bytesToNat_natBytes, hw,
      Nat.mod_eq_of_lt (readLanes_lt (List.getElem_mem hi))]
  simp only [List.getElem_map, List.getElem_range, hf, hx, hw]
  rw [wrap_ite_sval, Nat.mod_eq_of_lt (readLanes_lt (List.getElem_mem hi))]

theorem laneBits_bytes {ty : RType} (h : ty.isVec = true) : 8 * (laneBits ty / 8) = laneBits ty ∧ laneCount ty * (laneBits ty / 8) = 64 := by
  cases ty <;> simp_all [RType.isVec, laneBits, laneCount]

theorem storeBytes_line64 (ty : RType) (sat : Bool) (scale : Nat) (v : Val) :
    storeBytes ty .line64 sat scale v = (readLanes ty v).flatMap (natBytes (laneBits ty / 8)) := if_pos rfl

theorem loadValue_line64_eq (ty : RType) (scale : Nat) (bs : List Byte) :
    loadValue ty .line64 scale bs = .vec (BitVec.ofNat 512 (bytesNat bs 0 64)) := if_pos rfl

theorem storeBytes_line64_length {ty : RType} (sat : Bool) (scale : Nat) (v : Val) (h : ty.isVec = true) :
    (storeBytes ty .line64 sat scale v).length = 64 := by
  rw [storeBytes_line64, flatMap_length_const _ (natBytes_length _), readLanes_length, (laneBits_bytes h).2]

theorem loadValue_line64 {ty : RType} (sat : Bool) (scale scale' : Nat) (v : Val) (h : ty.isVec = true) :
    loadValue ty .line64 scale (storeBytes ty .line64 sat scale' v) = writeLanes ty (readLanes ty v) := by
  have hlen := storeBytes_line64_length sat scale' v h
  rw [loadValue_line64_eq, writeLanes, if_pos h, bytesNat, List.drop_zero, List.take_of_length_le hlen.le, storeBytes_line64,
    ← lanesNat_eq_bytes, (laneBits_bytes h).1, vecOf]

/-- Settles O23: a lane of the width of the format is its own bits on the way out and in, and the bytes of a line are the lanes
one after the other. -/
theorem formatsRoundTrip : Obligations.FormatsRoundTrip := by
  unfold Obligations.FormatsRoundTrip
  rintro ty fm v sat (⟨rfl, hv⟩ | ⟨hf, hl, hw⟩)
  · exact ⟨loadValue_line64 sat _ _ v hv, by rw [storeBytes_line64_length _ _ _ hv, spanBytes, if_pos rfl]⟩
  · rw [storeBytes_of_width sat _ v hf hl hw]
    exact ⟨loadValue_of_width _ v hf hl hw, by
      rw [flatMap_length_const _ (natBytes_length _), readLanes_length, spanBytes, if_neg hl]⟩

end Sys2Proof.Machine
end

section
/-! SUPPORT. What a load reads of one byte (R147, R315, R320, R325): the folds over earlier stores, over what bytes were, and
over the late writes of every core. -/

namespace Sys2Proof.Machine

/-! ## Strand order -/

theorem precedes_iff (a b : Nat × Nat) : precedes a b = true ↔ a.1 < b.1 ∨ (a.1 = b.1 ∧ a.2 < b.2) := by
  simp [precedes]

theorem precedes_asymm {a b : Nat × Nat} (h : precedes a b = true) : precedes b a = false := by
  rw [← Bool.not_eq_true, precedes_iff]
  rw [precedes_iff] at h
  omega

/-- What follows a place follows every place before it. -/
theorem precedes_of_not {a b c : Nat × Nat} (h : precedes a b = true) (h' : precedes c b = false) : precedes a c = true := by
  rw [← Bool.not_eq_true, precedes_iff] at h'
  rw [precedes_iff] at h ⊢
  omega

/-! ## The latest and the nearest of a list -/

section
variable {α : Type} {before : α → α → Bool} {step : Option α → α → Option α} (hnone : ∀ e, step none e = some e)
  (hsome : ∀ g e, step (some g) e = if before e g then some g else some e)
include hnone hsome

/-- A fold that keeps what comes last in an order ends at `b` when the values other than `b` come before it. -/
theorem foldl_latest {b : α} (hasymm : ∀ e, before e b = true → before b e = false) (l : List α) (m : Option α)
    (hm : m = some b ∨ (b ∈ l ∧ ∀ g ∈ m, before g b = true)) (hl : ∀ e ∈ l, e = b ∨ before e b = true) :
    l.foldl step m = some b := by
  induction l generalizing m with
  | nil => simpa using hm
  | cons e l ih =>
    refine ih _ ?_ fun x hx => hl x (List.mem_cons_of_mem _ hx)
    rcases hl e List.mem_cons_self with rfl | he
    · left
      rcases hm with rfl | ⟨-, hm⟩
      · rw [hsome, ite_self]
      · cases m with
        | none => exact hnone e
        | some g => rw [hsome, hasymm g (hm g rfl), if_neg Bool.false_ne_true]
    · rcases hm with rfl | ⟨hb, hm⟩
      · left
        rw [hsome, if_pos he]
      · right
        have hne : b ≠ e := fun h => by
          subst h
          exact absurd (hasymm _ he) (by simp [he])
        refine ⟨(List.mem_cons.mp hb).resolve_left hne, fun g hg => ?_⟩
        cases m with
        | none =>
          rw [hnone] at hg
          cases hg
          exact he
        | some g' =>
          rw [hsome] at hg
          split at hg <;> cases hg
          · exact hm _ rfl
          · exact he

end

section
variable {α : Type} {key : α → Nat × Nat} {step : Option α → α → Option α} (hnone : ∀ e, step none e = some e)
  (hsome : ∀ g e, step (some g) e = if precedes (key e) (key g) then some e else some g)
include hnone hsome

/-- A fold that keeps what comes first in strand order ends at an element that no other precedes. -/
theorem foldl_nearest {l : List α} {m : Option α} (h : l ≠ [] ∨ m ≠ none) :
    ∃ g, l.foldl step m = some g ∧ (g ∈ l ∨ m = some g) ∧
      (∀ e ∈ l, precedes (key e) (key g) = false) ∧ ∀ e ∈ m, precedes (key e) (key g) = false := by
  have hself (p : Nat × Nat) : precedes p p = false := by simp [precedes]
  induction l generalizing m with
  | nil =>
    cases m with
    | none => simp at h
    | some g => exact ⟨g, rfl, .inr rfl, by simp, by simp [hself]⟩
  | cons a l ih =>
    obtain ⟨n, hn, hna, hnm, hmem⟩ : ∃ n, step m a = some n ∧ precedes (key a) (key n) = false ∧
        (∀ e ∈ m, precedes (key e) (key n) = false) ∧ (n = a ∨ m = some n) := by
      cases m with
      | none => exact ⟨a, hnone a, hself _, by simp, .inl rfl⟩
      | some g =>
        by_cases hp : precedes (key a) (key g) = true
        · exact ⟨a, by rw [hsome, if_pos hp], hself _, by simpa using precedes_asymm hp, .inl rfl⟩
        · exact ⟨g, by rw [hsome, if_neg hp], by simpa using hp, by simp [hself], .inr rfl⟩
    obtain ⟨g, hg, hin, hle, hm⟩ := ih (m := some n) (.inr (by simp))
    have htrans {e : α} (he : precedes (key e) (key n) = false) : precedes (key e) (key g) = false := by
      by_contra hc
      rw [precedes_of_not (by simpa using hc) (hm n rfl)] at he
      cases he
    refine ⟨g, by rw [List.foldl_cons, hn, hg], ?_, List.forall_mem_cons.mpr ⟨htrans hna, hle⟩, fun e he => htrans (hnm e he)⟩
    rcases hin with hin | hin
    · exact .inl (List.mem_cons_of_mem _ hin)
    · cases hin
      exact hmem.imp_left fun h => by simp [h]

end

/-! ## Buffered stores -/

section
variable {s : State} {f : Firing} {place pa : Nat}

theorem State.loadByte_of_no_hits (h : ∀ e ∈ s.storesBefore f.core f.ctx f.hdl (f.seq, place), e.2.writes pa = none) :
    s.loadByte f place pa = (s.pastByte f.core f.ctx f.hdl (f.seq, place) pa).getD (s.readCached f.core pa) := by
  have hh : ((s.storesBefore f.core f.ctx f.hdl (f.seq, place)).filterMap fun e => (e.2.writes pa).map fun v => (e.1, v)) = [] :=
    List.filterMap_eq_nil_iff.mpr fun e he => by rw [h e he, Option.map_none]
  simp only [State.loadByte, State.loadFrom, State.byteAt, hh, List.foldl_nil, State.readStrand]

theorem State.loadByte_of_latest {e : (Nat × Nat) × BStore} {v : Byte}
    (he : e ∈ s.storesBefore f.core f.ctx f.hdl (f.seq, place)) (hv : e.2.writes pa = some (.ok v))
    (hlast : ∀ g ∈ s.storesBefore f.core f.ctx f.hdl (f.seq, place), (g.2.writes pa).isSome = true →
      g = e ∨ precedes g.1 e.1 = true) : s.loadByte f place pa = v := by
  simp only [State.loadByte, State.loadFrom, State.byteAt]
  rw [foldl_latest (before := fun a b => precedes a.1 b.1) (b := (e.1, .ok v))]
  · exact fun _ => rfl
  · exact fun _ _ => rfl
  · exact fun g hg => precedes_asymm hg
  · exact .inr ⟨List.mem_filterMap.mpr ⟨e, he, by rw [hv]; rfl⟩, by simp⟩
  · intro h hh
    obtain ⟨g, hg, hgv⟩ := List.mem_filterMap.mp hh
    obtain ⟨w, hw, rfl⟩ := Option.map_eq_some_iff.mp hgv
    rcases hlast g hg (by simp [hw]) with rfl | hp
    · rw [hv] at hw
      cases hw
      exact .inl rfl
    · exact .inr hp

/-! ## What a byte was -/

theorem Past.holdsAt_iff {e : Past} : e.holdsAt f place pa ↔
    (e.hdl == f.hdl && e.pa == pa && !precedes (f.seq, place) e.lo && precedes (f.seq, place) e.hi) = true := by
  simp [Past.holdsAt, and_assoc]

theorem State.pastByte_none (h : ∀ e ∈ (s.cx f.core f.ctx).past, ¬ e.holdsAt f place pa) :
    s.pastByte f.core f.ctx f.hdl (f.seq, place) pa = none := by
  have hf := List.filter_eq_nil_iff.mpr fun e he => (not_congr Past.holdsAt_iff).mp (h e he)
  unfold State.pastByte
  simp only [hf, List.foldl_nil, Option.map_none]

theorem State.pastByte_some {e : Past} (he : e ∈ (s.cx f.core f.ctx).past) (hh : e.holdsAt f place pa) :
    ∃ g ∈ (s.cx f.core f.ctx).past, g.holdsAt f place pa ∧
      s.pastByte f.core f.ctx f.hdl (f.seq, place) pa = some g.val ∧ precedes e.hi g.hi = false := by
  have hmem : e ∈ (s.cx f.core f.ctx).past.filter fun e => e.hdl == f.hdl && e.pa == pa && !precedes (f.seq, place) e.lo &&
      precedes (f.seq, place) e.hi := List.mem_filter.mpr ⟨he, Past.holdsAt_iff.mp hh⟩
  obtain ⟨g, hg, hin, hle, -⟩ := foldl_nearest (key := Past.hi) (m := none)
    (step := fun m e => m.elim (some e) fun g => if precedes e.hi g.hi then some e else some g) (fun _ => rfl) (fun _ _ => rfl)
    (.inl (List.ne_nil_of_mem hmem))
  obtain ⟨hgp, hgh⟩ := List.mem_filter.mp (hin.resolve_right (by simp))
  refine ⟨g, hgp, Past.holdsAt_iff.mpr hgh, congrArg (Option.map Past.val) ((List.foldl_ext _ _ _ fun m e _ => ?_).trans hg),
    hle e hmem⟩
  cases m <;> rfl

end

/-! ## The coherence point and late writes (R315) -/

theorem lastWrite_isSome_iff {l : List (Nat × Byte)} {pa : Nat} : lastWrite l pa ≠ none ↔ ∃ v, (pa, v) ∈ l := by
  simp only [lastWrite, ne_eq, Option.map_eq_none_iff, List.find?_eq_none, List.mem_reverse, not_forall]
  constructor
  · rintro ⟨⟨a, v⟩, hm, h⟩
    obtain rfl : a = pa := by simpa using h
    exact ⟨v, hm⟩
  · rintro ⟨v, hm⟩
    exact ⟨(pa, v), hm, by simp⟩

theorem mem_of_lastWrite {l : List (Nat × Byte)} {pa : Nat} {v : Byte} (h : lastWrite l pa = some v) : (pa, v) ∈ l := by
  obtain ⟨⟨a, b⟩, hx, rfl⟩ := Option.map_eq_some_iff.mp h
  have ha : a = pa := by simpa using List.find?_some hx
  subst ha
  exact List.mem_reverse.mp (List.mem_of_find?_eq_some hx)

theorem foldl_or {α β : Type} (g : α → Option β) (l : List α) (m : Option β) :
    l.foldl (fun m e => m.or (g e)) m = m.or (l.findSome? g) := by
  induction l generalizing m with
  | nil => simp
  | cons a l ih =>
    rw [List.foldl_cons, ih, List.findSome?_cons, Option.or_assoc]
    cases g a <;> rfl

/-- The latest late write of a byte in the cores, as a search. -/
theorem State.lateByte_eq (s : State) (c pa : Nat) : s.lateByte c pa =
    ((s.cores.mapIdx fun o k => (o, k)).filter fun e => !e.2.late.isEmpty).findSome? fun e =>
      lastWrite ((e.2.late.filter fun l => l.seenBy e.1 c).flatMap (·.bytes)) pa := by
  rw [State.lateByte, foldl_or, Option.none_or]

theorem mem_mapIdx_pair {l : List Core} {e : Nat × Core} : e ∈ l.mapIdx (fun o k => (o, k)) ↔ l[e.1]? = some e.2 := by
  obtain ⟨o, k⟩ := e
  simp only [List.mem_mapIdx, Prod.mk.injEq, List.getElem?_eq_some_iff]
  constructor
  · rintro ⟨i, hi, rfl, rfl⟩
    exact ⟨hi, rfl⟩
  · rintro ⟨hi, rfl⟩
    exact ⟨o, hi, rfl, rfl⟩

theorem State.lateByte_none {s : State} {c pa : Nat} (h : ∀ (o : Nat) (k : Core) (l : Late), s.cores[o]? = some k → l ∈ k.late →
    l.seenBy o c = true → ∀ v : Byte, (pa, v) ∉ l.bytes) : s.lateByte c pa = none := by
  rw [State.lateByte_eq, List.findSome?_eq_none_iff]
  intro e he
  by_contra hne
  obtain ⟨v, hv⟩ := lastWrite_isSome_iff.mp hne
  obtain ⟨l, hl, hb⟩ := List.mem_flatMap.mp hv
  obtain ⟨hlate, hseen⟩ := List.mem_filter.mp hl
  exact h e.1 e.2 l (mem_mapIdx_pair.mp (List.mem_filter.mp he).1) hlate hseen v hb

theorem State.lateByte_some {s : State} {c pa : Nat} {v : Byte} (h : s.lateByte c pa = some v) :
    ∃ (o : Nat) (k : Core) (l : Late), s.cores[o]? = some k ∧ l ∈ k.late ∧ l.seenBy o c = true ∧ (pa, v) ∈ l.bytes := by
  rw [State.lateByte_eq] at h
  obtain ⟨e, he, hv⟩ := List.exists_of_findSome?_eq_some h
  obtain ⟨l, hl, hb⟩ := List.mem_flatMap.mp (mem_of_lastWrite hv)
  obtain ⟨hlate, hseen⟩ := List.mem_filter.mp hl
  exact ⟨e.1, e.2, l, mem_mapIdx_pair.mp (List.mem_filter.mp he).1, hlate, hseen, hb⟩

theorem State.lateByte_ne_none {s : State} {c pa o : Nat} {k : Core} {l : Late} {v : Byte} (hk : s.cores[o]? = some k)
    (hl : l ∈ k.late) (hs : l.seenBy o c = true) (hv : (pa, v) ∈ l.bytes) : s.lateByte c pa ≠ none := by
  rw [State.lateByte_eq, ne_eq, List.findSome?_eq_none_iff]
  intro hn
  have hmem : (o, k) ∈ (s.cores.mapIdx fun o k => (o, k)).filter fun e => !e.2.late.isEmpty :=
    List.mem_filter.mpr ⟨mem_mapIdx_pair.mpr hk, by simp [List.ne_nil_of_mem hl]⟩
  exact lastWrite_isSome_iff.mpr ⟨v, List.mem_flatMap.mpr ⟨l, List.mem_filter.mpr ⟨hl, hs⟩, hv⟩⟩ (hn _ hmem)

section
variable {s : State} {c pa : Nat}

theorem State.readCached_of_uncacheable (h : cacheable pa = false) : s.readCached c pa = Memory.get s.mem pa := by
  simp [State.readCached, h]

theorem State.readCached_of_line {l : CLine} (h : cacheable pa = true) (hl : (s.core c).findLine (pa / 64) = some l) :
    s.readCached c pa = l.bytes.getD (pa % 64) 0 := by
  simp [State.readCached, h, hl]

theorem State.readCached_of_no_line (h : cacheable pa = true) (hl : (s.core c).findLine (pa / 64) = none) :
    s.readCached c pa = s.pointByte c pa := by
  simp [State.readCached, h, hl]

end

/-- Settles O21: the folds of `byteAt` and `pastByte` end at the latest store and at the nearest later access, and that of
`lateByte` at a write that the core sees, where there is one. -/
theorem loadsSeeStores : Obligations.LoadsSeeStores := by
  unfold Obligations.LoadsSeeStores
  intro s f place pa
  refine ⟨fun hno => ⟨fun hpast => ?_, fun e he hh => ?_⟩, fun e v he hv hlast => State.loadByte_of_latest he hv hlast,
    State.readCached_of_uncacheable, fun hc l hl => State.readCached_of_line hc hl, fun hc hl => ⟨fun hlate => ?_, ?_⟩⟩
  · rw [State.loadByte_of_no_hits hno, State.pastByte_none hpast, Option.getD_none]
  · obtain ⟨g, hg, hgh, hval, hle⟩ := State.pastByte_some he hh
    exact ⟨g, hg, hgh, by rw [State.loadByte_of_no_hits hno, hval, Option.getD_some], hle⟩
  · rw [State.readCached_of_no_line hc hl, State.pointByte, State.lateByte_none hlate, Option.getD_none]
  · rintro ⟨o, k, l, v, hk, hmem, hs, hv⟩
    obtain ⟨b, hb⟩ := Option.ne_none_iff_exists'.mp (State.lateByte_ne_none hk hmem hs hv)
    rw [State.readCached_of_no_line hc hl, State.pointByte, hb, Option.getD_some]
    exact State.lateByte_some hb

end Sys2Proof.Machine
end

section
/-! SUPPORT. Loads and stores at a selvage port (R142-R147, R326). -/

namespace Sys2Proof.Machine

/-! ## Starting an access -/

theorem startLoad_ok {s : State} {i : Instr} {w : MWord} {f : Firing} {ops : Firing → List (Option Tok)}
    {chk : State → Firing → Except AccErr (List Nat)} {vas : Firing → List Nat} {pas : List Nat} (hr : ReadyM s w f ops)
    (hp : s.portTakes f = true) (hw : s.walkStalls f.core (vas f) = false)
    (hc : chk (s.fillTlb f.core (vas f)) f = .ok pas) :
    startLoad s i w ops chk vas = .next ((s.fillTlb f.core (vas f)).addPend ⟨i, f, .load pas [], 0⟩) := by
  obtain ⟨hsel, hf, hd⟩ := hr
  simp [startLoad, fireAs_run _ _ _ _ _ hsel hf hd, hp, hw, hc]

theorem startLoad_error {s : State} {i : Instr} {w : MWord} {f : Firing} {ops : Firing → List (Option Tok)}
    {chk : State → Firing → Except AccErr (List Nat)} {vas : Firing → List Nat} {e : AccErr} (hr : ReadyM s w f ops)
    (hp : s.portTakes f = true) (hw : s.walkStalls f.core (vas f) = false)
    (hc : chk (s.fillTlb f.core (vas f)) f = .error e) :
    startLoad s i w ops chk vas = .next ((s.fillTlb f.core (vas f)).readFails i f w.lsid.toNat e .load) := by
  obtain ⟨hsel, hf, hd⟩ := hr
  simp [startLoad, fireAs_run _ _ _ _ _ hsel hf hd, hp, hw, hc]

/-! ## The bytes that a returning load has -/

theorem lastWrite_append (a b : List (Nat × Byte)) (pa : Nat) : lastWrite (a ++ b) pa = (lastWrite b pa).or (lastWrite a pa) := by
  unfold lastWrite
  rw [List.reverse_append, List.find?_append]
  cases b.reverse.find? fun x => x.1 == pa <;> rfl

theorem lastWrite_cons (x : Nat × Byte) (l : List (Nat × Byte)) (pa : Nat) :
    lastWrite (x :: l) pa = (lastWrite l pa).or (if x.1 = pa then some x.2 else none) := by
  rw [← List.singleton_append, lastWrite_append]
  by_cases h : x.1 = pa <;> simp [lastWrite, h]

theorem lastWrite_eq_none {l : List (Nat × Byte)} {pa : Nat} : lastWrite l pa = none ↔ ∀ x ∈ l, x.1 ≠ pa := by
  simp [lastWrite]

theorem lastWrite_map_of_mem (g : Nat → Byte) {l : List Nat} {pa : Nat} (h : pa ∈ l) :
    lastWrite (l.map fun a => (a, g a)) pa = some (g pa) := by
  have hne : lastWrite (l.map fun a => (a, g a)) pa ≠ none := lastWrite_isSome_iff.mpr ⟨g pa, List.mem_map.mpr ⟨pa, h, rfl⟩⟩
  obtain ⟨v, hv⟩ := Option.ne_none_iff_exists'.mp hne
  obtain ⟨a, -, ha⟩ := List.mem_map.mp (mem_of_lastWrite hv)
  cases ha
  exact hv

theorem any_eq_lastWrite (l : List (Nat × Byte)) (pa : Nat) : l.any (·.1 == pa) = (lastWrite l pa).isSome := by
  rw [lastWrite, Option.isSome_map, List.isSome_find?, List.any_reverse]

/-- A byte is the one read before, else the one read now. -/
theorem lastWrite_got_append (g : Nat → Byte) (got : List (Nat × Byte)) {pas : List Nat} {pa : Nat} (h : pa ∈ pas) :
    (lastWrite (got ++ (pas.filter fun a => !got.any (·.1 == a)).map fun a => (a, g a)) pa).getD 0 =
      (lastWrite got pa).getD (g pa) := by
  rw [lastWrite_append]
  cases hgot : lastWrite got pa with
  | some v =>
    have hnew : lastWrite ((pas.filter fun a => !got.any (·.1 == a)).map fun a => (a, g a)) pa = none := by
      rw [lastWrite_eq_none]
      rintro x hx rfl
      obtain ⟨a, ha, rfl⟩ := List.mem_map.mp hx
      simpa [any_eq_lastWrite, hgot] using (List.mem_filter.mp ha).2
    rw [hnew]
    rfl
  | none =>
    have hmem : pa ∈ pas.filter fun a => !got.any (·.1 == a) := by
      simp [List.mem_filter, h, any_eq_lastWrite, hgot]
    rw [lastWrite_map_of_mem g hmem]
    rfl

/-! ## The return of a load -/

section
variable (s : State) (c : Nat)

@[simp] theorem State.acquireOf_steady (q : Pend) (pas : List Nat) : (s.acquireOf q pas).steady = s.steady := by
  fun_cases State.acquireOf <;> simp

theorem State.acquireOf_eq_readState {q : Pend} {w : MWord} (hw : mwordOf q.i = some w) (hc : q.f.core = c) (pas : List Nat) :
    s.acquireOf q pas = readState s c w pas := by
  simp only [State.acquireOf, hw, hc, readState, State.acquireAt, wideScope]
  cases MWord.acq w <;> simp

theorem readState_mem (w : MWord) (left : List Nat) (hc : c < s.cores.length) (h : (s.core c).cache = []) :
    (readState s c w left).mem = s.mem := by
  unfold readState
  split
  · exact (coreKept_cacheAcquire hc h).mem
  · rfl

theorem State.cacheFill_of_no_banks (line : Nat) (h : (s.core c).split.cache = 0) : s.cacheFill c line = s := by
  simp [State.cacheFill, h]

theorem State.allocLines_mem_of_no_banks (pas : List Nat) (h : (s.core c).split.cache = 0) :
    (s.allocLines c pas).mem = s.mem := by
  refine (List.foldlRecOn (motive := fun t : State => t.steady = s.steady ∧ t.mem = s.mem) _ _ ⟨rfl, rfl⟩ fun t ht pa _ => ?_).2
  have hs : (t.core c).split.cache = 0 := by rw [split_of_steady ht.1, h]
  simpa [State.cacheFill_of_no_banks t c _ hs] using ht

/-- Taking an operation out leaves the core's fabric, elements and CACHE. -/
theorem State.dropPend_core_field {α : Type} (g : Core → α) (hg : ∀ k l, g { k with cxs := l } = g k) (x k d : Nat) :
    g ((s.dropPend c x k).core d) = g (s.core d) := State.setCx_core_field g hg ..

@[simp] theorem State.dropPend_length (x k : Nat) : (s.dropPend c x k).cores.length = s.cores.length := by
  simp [State.dropPend]

end

/-- The state in which a returning load emits: it waits no more, has acquired, has read and has allocated its lines. -/
def returnState (s : State) (c : Nat) (q : Pend) (pas now : List Nat) : State :=
  ((s.acquireOf q now).loadBytes q.f (placeOf q.i) now).1.allocLines c pas

theorem returnState_steady (s : State) (c : Nat) (q : Pend) (pas now : List Nat) :
    (returnState s c q pas now).steady = s.steady := by
  simp [returnState]

theorem State.loadReturns_eq {s : State} {c : Nat} {q : Pend} {w : MWord} {pas : List Nat} {got : List (Nat × Byte)}
    {val : List Byte → Val} (hw : mwordOf q.i = some w) (hc : q.f.core = c) (hsk : ∀ v, q.i ≠ .skset v)
    (hemit : ∀ t bs, loadEmit t q bs = t.emit q.f w.t0 w.t1 .data (val bs)) :
    s.loadReturns c q pas got =
      (returnState s c q pas (pas.filter fun a => !got.any (·.1 == a))).emitPort q.f w.t0 w.t1 .data
        (val (pas.map fun pa => (lastWrite got pa).getD
          ((readState s c w (pas.filter fun a => !got.any (·.1 == a))).loadByte q.f (placeOf q.i) pa))) := by
  have hbytes : (pas.map fun pa => (lastWrite got pa).getD
      ((readState s c w (pas.filter fun a => !got.any (·.1 == a))).loadByte q.f (placeOf q.i) pa)) =
      pas.map fun pa => (lastWrite (got ++ (pas.filter fun a => !got.any (·.1 == a)).map fun a =>
        (a, (readState s c w (pas.filter fun a => !got.any (·.1 == a))).loadByte q.f (placeOf q.i) a)) pa).getD 0 :=
    List.map_congr_left fun pa hpa => (lastWrite_got_append _ got hpa).symm
  rw [hbytes, ← State.acquireOf_eq_readState s c hw hc]
  unfold State.loadReturns
  dsimp only
  split
  · exact absurd ‹_› (hsk _)
  · rw [hemit, State.emitPort, State.emitFrom, hc]
    simp only [returnState, State.loadBytes, List.map_map, Function.comp_def, State.loadByte]

theorem execLoadReturn_ok {s : State} {c x k : Nat} {q : Pend} {pas : List Nat} {got : List (Nat × Byte)}
    (hq : PendAt s c x k q) (hst : q.st = .load pas got) (hl : ∀ v, q.i ≠ .launch v)
    (hr : s.readAllowed q.f (placeOf q.i) pas = true) (ha : s.acquireStalls q = false) (hb : s.badByte c pas = none) :
    execLoadReturn c x k s = .next ((s.dropPend c x k).loadReturns c q pas got) := by
  unfold execLoadReturn
  rw [hq.1]
  dsimp only
  split
  · exact absurd ‹_› (hl _)
  · next h _ =>
    rw [hst] at h
    cases h
    simp [hr, ha, hb]
  · next h _ => exact (h _ _ hst).elim

/-- The three load instructions return alike: only the value that they make of their bytes differs. -/
theorem returnsLoad_of {mk : MWord → Instr} {val : MWord → Firing → List Byte → Val} (hw : ∀ w, mwordOf (mk w) = some w)
    (hl : ∀ w v, mk w ≠ .launch v) (hsk : ∀ w v, mk w ≠ .skset v)
    (hemit : ∀ (t : State) (q : Pend) (w : MWord) (bs : List Byte), q.i = mk w →
      loadEmit t q bs = t.emit q.f w.t0 w.t1 .data (val w q.f bs)) : ReturnsLoad mk val := by
  rintro w s c x k q pas got hq hi hst hr ha hb
  have hmw : mwordOf q.i = some w := by rw [hi, hw]
  have hplace : placeOf q.i = w.lsid.toNat + 1 := by simp [placeOf, hmw]
  obtain ⟨hpend, hcore, hctx⟩ := hq
  obtain ⟨hc, hx⟩ := State.pend_range hpend
  set now := pas.filter fun a => !got.any (·.1 == a) with hnow
  set u := returnState (s.dropPend c x k) c q pas now with hu
  have hsteady : u.steady = (s.dropPend c x k).steady := returnState_steady ..
  have hlen : c < u.cores.length := by rw [cores_length_of_steady hsteady]; simpa
  refine ⟨_, execLoadReturn_ok ⟨hpend, hcore, hctx⟩ hst (hi ▸ hl w) (hplace ▸ hr) ha hb, ?_⟩
  rw [State.loadReturns_eq hmw hcore (hi ▸ hsk w) (hemit · q w · hi), ← hnow, ← hu, hplace]
  refine ⟨?_, ?_, ?_, fun hbanks hcache => ?_⟩
  · have hrecv := received_emitFrom (s := s) (u := u) (srcPort q.f.elem) q.f w.t0 w.t1 .data
      (val w q.f (pas.map fun pa => (lastWrite got pa).getD
        ((readState (s.dropPend c x k) c w now).loadByte q.f (w.lsid.toNat + 1) pa))) (hcore ▸ hlen)
      ((fabric_of_steady hsteady _).trans (State.dropPend_core_field s c Core.fabric (fun _ _ => rfl) ..))
      ((elems_of_steady hsteady _).trans (State.dropPend_core_field s c Core.elems (fun _ _ => rfl) ..))
    rwa [hcore] at hrecv
  · rw [State.emitPort, State.emitFrom_eq _ _ _ _ _ _ (.inl rfl), State.withTokens_cx, pend_of_steady hsteady,
      State.dropPend_pend _ _ _ _ hc hx]
  · rw [State.emitPort, State.emitFrom_eq _ _ _ _ _ _ (.inl rfl), State.withTokens_parts, parts_of_steady hsteady,
      State.dropPend_parts]
  · have hcache' : ((s.dropPend c x k).core c).cache = [] :=
      (State.dropPend_core_field s c Core.cache (fun _ _ => rfl) ..).trans hcache
    have hbanks' : ((((s.dropPend c x k).acquireOf q now).loadBytes q.f (placeOf q.i) now).1.core c).split.cache = 0 := by
      rw [split_of_steady (s := s.dropPend c x k) (by simp),
        State.dropPend_core_field s c Core.split (fun _ _ => rfl), hbanks]
    rw [State.emitPort_mem, hu, returnState, State.allocLines_mem_of_no_banks _ _ _ hbanks', State.loadBytes_mem,
      State.acquireOf_eq_readState _ _ hmw hcore, readState_mem _ _ _ _ (by simpa) hcache', State.dropPend_mem]

/-- Settles O20: the start by the checks of the port, the return by the bytes read before and now. -/
theorem loads : Obligations.Loads := by
  unfold Obligations.Loads
  refine ⟨⟨?_, ?_, ?_⟩, ?_, ?_, ?_⟩
  · exact fun w s f pas hr hp hw hc =>
      startLoad_ok (i := .ld w) (chk := fun s f => s.checkMem f w .load) (vas := vasOf w) hr hp hw hc
  · exact fun w s f pas hr hp hw hc =>
      startLoad_ok (i := .ldx w) (chk := fun s f => s.checkMem f w .load) (vas := vasOf w) hr hp hw hc
  · exact fun w s f pas hr hp hw hc =>
      startLoad_ok (i := .lds w) (chk := fun s f => s.checkMemPad f w) (vas := fun _ => []) hr hp hw hc
  · exact returnsLoad_of (fun _ => rfl) (by simp) (by simp) fun t q w bs hi => by simp only [loadEmit, hi]; rfl
  · exact returnsLoad_of (fun _ => rfl) (by simp) (by simp) fun t q w bs hi => by simp only [loadEmit, hi]; rfl
  · refine returnsLoad_of (fun _ => rfl) (by simp) (by simp) fun t q w bs hi => ?_
    simp only [loadEmit, hi, pairScale]
    rfl

end Sys2Proof.Machine
end

section
/-! SUPPORT. Stores and failed accesses at a selvage port (R28, R141, R145, R146, R339, R340). -/

namespace Sys2Proof.Machine

/-! ## Kinds other than DATA (R28) -/

theorem lowestFault_none {l : List (Option Tok)} (h : ∀ t : Tok, some t ∈ l → t.kind ≠ .fault) : lowestFault l = none := by
  induction l with
  | nil => rfl
  | cons a l ih =>
    have hl := ih fun t ht => h t (List.mem_cons_of_mem _ ht)
    cases a with
    | none => exact hl
    | some t =>
      have hk : t.kind.isFault = false := by
        have hne := h t List.mem_cons_self
        cases hk : t.kind <;> simp_all [Kind.isFault]
      simp [lowestFault, hk, hl]

theorem highestStop_ne_none {l : List (Option Tok)} {t : Tok} {j : Fin 4} (ht : some t ∈ l) (hk : t.kind = .stop j) :
    highestStop l ≠ none := by
  induction l with
  | nil => exact absurd ht (by simp)
  | cons a l ih =>
    rcases a with _ | ⟨g, k, v⟩
    · exact ih (by simpa using ht)
    · rcases List.mem_cons.mp ht with heq | hl
      · cases heq
        obtain rfl : k = .stop j := hk
        unfold highestStop
        split
        · split <;> simp
        · simp
      · cases k with
        | stop j' =>
          unfold highestStop
          split
          · split <;> simp
          · simp
        | _ => exact ih hl

theorem hasKind_of_mem {l : List (Option Tok)} {t : Tok} (ht : some t ∈ l) : hasKind t.kind l = true :=
  List.any_eq_true.mpr ⟨some t, ht, by simp⟩

/-- Operands without FAULT that are not all DATA give a result that is neither DATA nor FAULT. -/
theorem combine_of_bubble {l : List (Option Tok)} (hb : ∃ t : Tok, some t ∈ l ∧ t.kind ≠ .data)
    (hf : ∀ t : Tok, some t ∈ l → t.kind ≠ .fault) : ∃ k v, combine l = some (k, v) ∧ k.isFault = false := by
  obtain ⟨t, ht, hk⟩ := hb
  unfold combine
  rw [lowestFault_none hf]
  dsimp only
  split
  · exact ⟨_, _, rfl, rfl⟩
  · next hchaff =>
    split
    · exact ⟨_, _, rfl, rfl⟩
    · next hstop =>
      have hnull : hasKind .null l = true := by
        cases hkt : t.kind with
        | data => exact absurd hkt hk
        | null => exact hkt ▸ hasKind_of_mem ht
        | stop j => exact absurd hstop (highestStop_ne_none ht hkt)
        | chaff => exact absurd (hkt ▸ hasKind_of_mem ht) hchaff
        | fault => exact absurd hkt (hf t ht)
      rw [if_pos hnull]
      exact ⟨_, _, rfl, rfl⟩

/-! ## Stores -/

section
variable {s : State} {i : Instr} {w : MWord} {f : Firing} {ops : Firing → List (Option Tok)}
  {chk : State → Firing → Except AccErr (List Nat)} {vas : Firing → List Nat} {scale : Firing → Nat}

theorem startStore_ok {pas : List Nat} (hr : ReadyM s w f ops) (hp : s.portTakes f = true)
    (hw : s.walkStalls f.core (vas f) = false) (hc : chk (s.fillTlb f.core (vas f)) f = .ok pas) :
    startStore s i w ops vas (storeRun i w chk scale) = .next ((s.fillTlb f.core (vas f)).buffer f w
      (plainStore f w (List.zip pas (storeBytes w.ty w.fmt (w.order.toNat.testBit 0) (scale f) f.rval)))) := by
  obtain ⟨hsel, hf, hd⟩ := hr
  simp [startStore, withSel_some _ hsel, plan_run hf hd, hp, hw, storeRun, hc]

theorem startStore_bubble {run : State → Firing → State} (hsel : s.sel = some f) (hf : Fires w.pm f)
    (hb : ∃ t : Tok, some t ∈ ops f ∧ t.kind ≠ .data) (hnf : ∀ t : Tok, some t ∈ ops f → t.kind ≠ .fault) :
    startStore s i w ops vas run = .next (s.countLsid f w.lsid.toNat) := by
  obtain ⟨k, v, hk, hkf⟩ := combine_of_bubble hb hnf
  simp [startStore, withSel_some _ hsel, plan, gate_fires hf, hk, State.nulled, hkf]

/-- A store that is buffered changes its own block alone. -/
theorem State.instOf_buffer {n : Inst} (b : BStore) (h : s.instOf f = some n) : (s.buffer f w b).instOf f =
    some { n with stores := n.stores ++ [b], counted := n.counted ||| BitVec.ofNat 32 (2 ^ w.lsid.toNat) } := by
  have hstored := State.instOf_modOwn (fun i => { i with stores := i.stores ++ [b] }) (fun _ => rfl) h
  have hcounted := State.instOf_modOwn (fun i => { i with counted := i.counted ||| BitVec.ofNat 32 (2 ^ w.lsid.toNat) })
    (fun _ => rfl) hstored
  rw [← hcounted]
  exact instOf_of_steady (State.markLines_steady ..) f

theorem State.modOwn_fabric (g : Inst → Inst) (d : Nat) : ((s.modOwn f g).core d).fabric = (s.core d).fabric :=
  State.setCx_core_field Core.fabric (fun _ _ => rfl) ..

theorem State.buffer_fabric (b : BStore) (d : Nat) : ((s.buffer f w b).core d).fabric = (s.core d).fabric := by
  unfold State.buffer State.countLsid
  rw [fabric_of_steady (State.markLines_steady ..), State.modOwn_fabric, State.modOwn_fabric]

end

theorem buffers_of {mk : MWord → Instr} {scale : Firing → Nat} {vas : MWord → Firing → List Nat}
    {chk : State → MWord → Firing → Except AccErr (List Nat)}
    (hexec : ∀ w s, exec (mk w) s = startStore s (mk w) w both (vas w) (storeRun (mk w) w (chk · w ·) scale)) :
    Buffers mk scale vas chk := by
  intro w s f i pas hr hp hw hi hc
  have hinst : (s.fillTlb f.core (vas w f)).instOf f = some i := by rw [instOf_of_steady (State.fillTlb_steady ..), hi]
  refine ⟨_, (hexec w s).trans (startStore_ok (chk := (chk · w ·)) hr hp hw hc), ⟨rfl, rfl⟩, fun hcache => ?_, received_nil ?_,
    State.instOf_buffer _ hinst⟩
  · have hk := coreKept_fillTlb (vas w f) (State.instOf_range hi).1 hcache
    exact ⟨hk.mem, hk.parts⟩
  · rw [State.buffer_fabric, fabric_of_steady (State.fillTlb_steady ..)]

/-- Settles O22: a store enters its block with the bytes at the checked addresses; one without data is only counted. -/
theorem stores : Obligations.Stores := by
  unfold Obligations.Stores
  refine ⟨⟨buffers_of fun _ _ => rfl, buffers_of fun _ _ => rfl, buffers_of fun w s => ?_⟩, ?_⟩
  · simp only [exec]
    rfl
  · intro w s f i hsel hf hi hb hnf o ho
    have hstart {i : Instr} {vas : Firing → List Nat} {run : State → Firing → State} :
        startStore s i w both vas run = .next (s.countLsid f w.lsid.toNat) := startStore_bubble hsel hf hb hnf
    have hnext : o = .next (s.countLsid f w.lsid.toNat) := by
      rcases ho with rfl | rfl | rfl <;> exact hstart
    exact ⟨_, hnext, ⟨rfl, rfl⟩, received_nil (State.modOwn_fabric ..), State.instOf_modOwn _ (fun _ => rfl) hi⟩

/-! ## The record of a failed access (R339, R340) -/

/-- What an access that fails a check leaves in the replay buffer. -/
def failRec (s : State) (f : Firing) (node lsid : Nat) (e : AccErr) (sseq : Nat) : FRec :=
  { s.newRec f e.code node lsid (BitVec.ofNat 64 e.addr) 0 sseq with
    repair := (s.cx f.core f.ctx).ctl.smode == 1 && e.code == 4
    frozen := (s.cx f.core f.ctx).ctl.smode == 2 }

/-- A record has been entered for a firing under a number, and of its core nothing but the replay buffer and the fault registers
has changed. -/
structure Recorded (s t : State) (f : Firing) (num : Nat) (r : FRec) : Prop where
  mem : t.mem = s.mem
  length : t.cores.length = s.cores.length
  small : num < 0x8000
  record : t.record f.core f.ctx num = some r
  core : ∃ rb fr, t.core f.core = { s.core f.core with rbuf := rb, fregs := fr }

section
variable {s t u : State} {f : Firing} {num : Nat} {r : FRec}

theorem Recorded.core_field {α : Type} (h : Recorded s t f num r) (g : Core → α)
    (hg : ∀ k rb fr, g { k with rbuf := rb, fregs := fr } = g k) : g (t.core f.core) = g (s.core f.core) := by
  obtain ⟨rb, fr, hk⟩ := h.core
  rw [hk, hg]

theorem Recorded.cx (h : Recorded s t f num r) (x : Nat) : t.cx f.core x = s.cx f.core x :=
  h.core_field (fun k => k.cxs.getD x Ctx.reset) fun _ _ _ => rfl

theorem Core.freeSlot_lt (k : Core) (port : Nat) : k.freeSlot port < 32 := by
  unfold Core.freeSlot
  cases hn : (List.range 32).find? fun n => !k.rbuf.any fun r => r.port == port && r.slot == n with
  | none => simp
  | some n => simpa using List.mem_of_find?_eq_some hn

theorem State.noteFault_core (s : State) (c x num : Nat) (r : FRec) (ord : Nat) (hc : c < s.cores.length) :
    ∃ fr, (s.noteFault c x num r ord).core c = { s.core c with fregs := fr } := by
  unfold State.noteFault
  dsimp only
  split
  · exact ⟨_, State.core_setCore_self _ _ _ hc⟩
  · split
    · exact ⟨_, State.core_setCore_self _ _ _ hc⟩
    · exact ⟨_, rfl⟩

theorem State.noteFault_length (s : State) (c x num : Nat) (r : FRec) (ord : Nat) :
    (s.noteFault c x num r ord).cores.length = s.cores.length := by
  unfold State.noteFault
  dsimp only
  split
  · simp
  · split <;> simp

/-- A record with a number of the replay buffers depends on these alone. -/
theorem State.record_of_rbuf {c x : Nat} (hn : num < 0x8000) (h : (t.core c).rbuf = (s.core c).rbuf) :
    t.record c x num = s.record c x num := by
  simp only [State.record, if_neg (Nat.not_le.mpr hn), h]

theorem State.portRecord_recorded {port : Nat} (src ord : Nat) (r : FRec) (hc : f.core < s.cores.length) (hx : f.ctx < 8)
    (hp : port < 32) : Recorded s (s.portRecord f.core f.ctx port r src ord).1 f (s.portRecord f.core f.ctx port r src ord).2 r := by
  have hslot := (s.core f.core).freeSlot_lt port
  set n := (s.core f.core).freeSlot port with hn
  set u := s.setCore f.core { s.core f.core with rbuf := ⟨port, n, f.ctx, src, none, r⟩ :: (s.core f.core).rbuf } with hu
  have hcore : u.core f.core = { s.core f.core with rbuf := ⟨port, n, f.ctx, src, none, r⟩ :: (s.core f.core).rbuf } :=
    State.core_setCore_self _ _ _ hc
  have hlen : f.core < u.cores.length := by simpa [hu]
  obtain ⟨fr, hfr⟩ := u.noteFault_core f.core f.ctx (32 * port + n) r ord hlen
  have heq : s.portRecord f.core f.ctx port r src ord = (u.noteFault f.core f.ctx (32 * port + n) r ord, 32 * port + n) := by
    rw [State.portRecord, if_neg (Nat.not_le.mpr hx)]
  have hsmall : 32 * port + n < 0x8000 := by omega
  rw [heq]
  refine ⟨by simp [hu], ?_, hsmall, ?_, ⟨_, fr, by rw [hfr, hcore]⟩⟩
  · simp [State.noteFault_length, hu]
  · have hdiv : (32 * port + n) / 32 = port := by omega
    have hmod : (32 * port + n) % 32 = n := by omega
    rw [State.record, if_neg (Nat.not_le.mpr hsmall), hfr, hcore, hdiv, hmod]
    simp

theorem portOf_lt {e : Nat} (h : e < 64) : portOf e < 32 := by
  unfold portOf
  omega

@[simp] theorem State.noteUe_cores (s : State) (pa : Nat) : (s.noteUe pa).cores = s.cores := by
  fun_cases State.noteUe <;> rfl

@[simp] theorem State.logViolation_cores (s : State) (p : Nat) (e : VEnt) : (s.logViolation p e).cores = s.cores := rfl

theorem State.core_congr (h : t.cores = s.cores) (c : Nat) : t.core c = s.core c := by rw [State.core, h, State.core]

theorem Recorded.of_cores (h : Recorded t u f num r) (hcores : t.cores = s.cores) (hmem : t.mem = s.mem) :
    Recorded s u f num r := by
  obtain ⟨rb, fr, hk⟩ := h.core
  exact ⟨h.mem.trans hmem, h.length.trans (congrArg _ hcores), h.small, h.record, rb, fr, by rw [hk, State.core_congr hcores]⟩

end

section
variable {s : State} {f : Firing} {port node lsid : Nat} {e : AccErr} {sseq : Nat} {k : AKind} {ord : Nat}

theorem State.accessRecord_recorded (hc : f.core < s.cores.length) (hx : f.ctx < 8) (hp : port < 32) :
    Recorded s (s.accessRecord f port node lsid e sseq k ord).1 f (s.accessRecord f port node lsid e sseq k ord).2
      (failRec s f node lsid e sseq) := by
  unfold State.accessRecord
  dsimp only
  have hue : (if e.code = 7 then s.noteUe e.addr else s).cores = s.cores ∧
      (if e.code = 7 then s.noteUe e.addr else s).mem = s.mem := by
    split <;> simp
  generalize (if e.code = 7 then s.noteUe e.addr else s) = u at hue
  generalize hv : (if e.code = 6 then (match u.partOfCore f.core with
      | some p => u.logViolation p ⟨e.addr, if 32 ≤ node then (if k.writes then 4 else 3) else k.source, f.core, f.ctx, node, 0⟩
      | none => u) else u) = v
  have hvc : v.cores = s.cores ∧ v.mem = s.mem := by
    rw [← hv]
    split
    · split
      · exact hue
      · exact hue
    · exact hue
  exact (State.portRecord_recorded _ _ _ (by rw [hvc.1]; exact hc) hx hp).of_cores hvc.1 hvc.2

variable (hc : f.core < s.cores.length) (hx : f.ctx < 8) (hp : port < 32)
include hc hx hp

/-- Under TRAP, and under NULLIFY but for NOT_PRESENT, an access that fails yields a FAULT with its record (R141). -/
theorem State.accessFails_fault (hm : (s.cx f.core f.ctx).ctl.smode = 0 ∨ (s.cx f.core f.ctx).ctl.smode = 1 ∧ e.code ≠ 4) :
    ∃ (t : State) (n : Nat), s.accessFails f port node lsid e sseq k ord = (t, .fault n) ∧
      Recorded s t f n (failRec s f node lsid e sseq) := by
  refine ⟨_, _, ?_, State.accessRecord_recorded (k := k) (ord := ord) hc hx hp⟩
  rcases hm with hm | ⟨hm, he⟩ <;> simp [State.accessFails, *]

/-- Under NULLIFY a NOT_PRESENT yields CHAFF and counts a repair. -/
theorem State.accessFails_chaff (hm : (s.cx f.core f.ctx).ctl.smode = 1) (he : e.code = 4) :
    ∃ (t : State) (n : Nat), Recorded s t f n (failRec s f node lsid e sseq) ∧
      s.accessFails f port node lsid e sseq k ord = (t.setCx f.core f.ctx { s.cx f.core f.ctx with
        ctl := { (s.cx f.core f.ctx).ctl with rpend := (s.cx f.core f.ctx).ctl.rpend + 1 } }, .chaff) := by
  have hrec := State.accessRecord_recorded (node := node) (lsid := lsid) (e := e) (sseq := sseq) (k := k) (ord := ord) hc hx hp
  exact ⟨_, _, hrec, by simp [State.accessFails, hm, he, hrec.cx]⟩

/-- Under FREEZE the node is frozen. -/
theorem State.accessFails_frozen (hm : (s.cx f.core f.ctx).ctl.smode = 2) :
    ∃ (t : State) (n : Nat), Recorded s t f n (failRec s f node lsid e sseq) ∧
      s.accessFails f port node lsid e sseq k ord = (t.freeze f.core node f.ctx, .frozen) :=
  ⟨_, _, State.accessRecord_recorded (k := k) (ord := ord) hc hx hp, by simp [State.accessFails, hm]⟩

end

theorem State.freeze_core_field {α : Type} (g : Core → α) (hg : ∀ k l, g { k with frozen := l } = g k) (s : State)
    (c node x : Nat) : g ((s.freeze c node x).core c) = g (s.core c) := by
  unfold State.freeze
  rcases Nat.lt_or_ge c s.cores.length with hc | hc
  · rw [State.core_setCore_self _ _ _ hc, hg]
  · rw [State.setCore_absent _ _ _ hc]

theorem State.freeze_cx (s : State) (c node x y : Nat) : (s.freeze c node x).cx c y = s.cx c y :=
  State.freeze_core_field (fun k => k.cxs.getD y Ctx.reset) (fun _ _ => rfl) ..

theorem State.isFrozen_freeze (s : State) (c node x : Nat) (hc : c < s.cores.length) :
    (s.freeze c node x).isFrozen c node x = true := by
  unfold State.isFrozen State.freeze
  rw [State.core_setCore_self _ _ _ hc]
  by_cases h : (s.core c).frozen.contains (node, x) = true <;> simp_all

/-! ## What a failed load comes to (R141) -/

section
variable {s u : State} {i : Instr} {f : Firing} {lsid : Nat} {e : AccErr} {k : AKind} (hc : f.core < s.cores.length)
  (he : f.elem < 64) (hx : f.ctx < 8) (hu : u.steady = s.steady)
include hc he hx hu

theorem readFails_fault
    (hm : (u.cx f.core f.ctx).ctl.smode = 0 ∨ (u.cx f.core f.ctx).ctl.smode = 1 ∧ e.code ≠ 4) :
    ∃ n : Nat, Received s (u.readFails i f lsid e k) f.core
        (sentBy (srcPort f.elem) (deliveries s f (instrTargets i).1 (instrTargets i).2 ⟨f.tag, .fault, faultVal n⟩)) ∧
      (u.readFails i f lsid e k).record f.core f.ctx n = some (failRec u f (portOf f.elem) lsid e 0) := by
  have hc' : f.core < u.cores.length := by rwa [cores_length_of_steady hu]
  obtain ⟨t, n, hfail, hrec⟩ := State.accessFails_fault (node := portOf f.elem) (lsid := lsid) (sseq := 0) (k := k) (ord := 0)
    hc' hx (portOf_lt he) hm
  have hrun : u.readFails i f lsid e k = t.emitPort f (instrTargets i).1 (instrTargets i).2 .fault (faultVal n) := by
    simp only [State.readFails, hfail]
  refine ⟨n, ?_, ?_⟩ <;> rw [hrun]
  · exact received_emitFrom _ _ _ _ _ _ (hrec.length ▸ hc')
      ((hrec.core_field Core.fabric fun _ _ _ => rfl).trans (fabric_of_steady hu _))
      ((hrec.core_field Core.elems fun _ _ _ => rfl).trans (elems_of_steady hu _))
  · rw [← hrec.record]
    exact State.record_of_rbuf hrec.small
      (State.emitFrom_core_field Core.rbuf (fun _ _ => rfl) (fun _ _ => rfl) ..)

theorem readFails_chaff (hxl : f.ctx < (s.core f.core).cxs.length) (hm : (u.cx f.core f.ctx).ctl.smode = 1) (hcode : e.code = 4) :
    Received s (u.readFails i f lsid e k) f.core
        (sentBy (srcPort f.elem) (deliveries s f (instrTargets i).1 (instrTargets i).2 ⟨f.tag, .chaff, .sc 0⟩)) ∧
      ((u.readFails i f lsid e k).cx f.core f.ctx).ctl.rpend = (s.cx f.core f.ctx).ctl.rpend + 1 := by
  have hc' : f.core < u.cores.length := by rwa [cores_length_of_steady hu]
  obtain ⟨t, n, hrec, hfail⟩ := State.accessFails_chaff (node := portOf f.elem) (lsid := lsid) (sseq := 0) (k := k) (ord := 0)
    hc' hx (portOf_lt he) hm hcode
  simp only [State.readFails, hfail, State.emitPort]
  have hct : f.core < t.cores.length := hrec.length ▸ hc'
  have hxt : f.ctx < (t.core f.core).cxs.length := by
    rw [hrec.core_field (·.cxs.length) fun _ _ _ => rfl, cxs_length_of_steady hu]
    exact hxl
  refine ⟨received_emitFrom _ _ _ _ _ _ (by simpa) ?_ ?_, ?_⟩
  · rw [State.setCx_core_field Core.fabric (fun _ _ => rfl), hrec.core_field Core.fabric fun _ _ _ => rfl, fabric_of_steady hu]
  · rw [State.setCx_core_field Core.elems (fun _ _ => rfl), hrec.core_field Core.elems fun _ _ _ => rfl, elems_of_steady hu]
  · rw [State.emitFrom_eq _ _ _ _ _ _ (.inl rfl), State.withTokens_cx, State.cx_setCx_self _ _ _ _ hct hxt, ctl_of_steady hu]

theorem readFails_frozen (hxl : f.ctx < (s.core f.core).cxs.length) (hm : (u.cx f.core f.ctx).ctl.smode = 2) :
    Received s (u.readFails i f lsid e k) f.core [] ∧
      (u.readFails i f lsid e k).isFrozen f.core (portOf f.elem) f.ctx = true ∧
      ((u.readFails i f lsid e k).cx f.core f.ctx).pend =
        (s.cx f.core f.ctx).pend ++ [⟨i, f, .frozen (portOf f.elem), 0⟩] := by
  have hc' : f.core < u.cores.length := by rwa [cores_length_of_steady hu]
  obtain ⟨t, n, hrec, hfail⟩ := State.accessFails_frozen (node := portOf f.elem) (lsid := lsid) (e := e) (sseq := 0) (k := k)
    (ord := 0) hc' hx (portOf_lt he) hm
  simp only [State.readFails, hfail]
  set v := t.freeze f.core (portOf f.elem) f.ctx with hv
  have hcv : f.core < v.cores.length := by
    rw [hv, State.freeze, State.setCore_cores_length, hrec.length]
    exact hc'
  have hxv : f.ctx < (v.core f.core).cxs.length := by
    rw [hv, State.freeze_core_field (·.cxs.length) (fun _ _ => rfl), hrec.core_field (·.cxs.length) fun _ _ _ => rfl,
      cxs_length_of_steady hu]
    exact hxl
  refine ⟨received_nil ?_, ?_, ?_⟩
  · rw [State.addPend, State.setCx_core_field Core.fabric (fun _ _ => rfl), hv,
      State.freeze_core_field Core.fabric (fun _ _ => rfl), hrec.core_field Core.fabric fun _ _ _ => rfl, fabric_of_steady hu]
  · rw [State.isFrozen, State.addPend, State.setCx_core_field Core.frozen (fun _ _ => rfl)]
    exact State.isFrozen_freeze _ _ _ _ (hrec.length ▸ hc')
  · rw [State.addPend_pend _ _ hcv hxv, hv, State.freeze_cx, hrec.cx, pend_of_steady hu]

end

/-- Settles O24: the load is not held, its check fails, and the stall mode decides what it comes to. -/
theorem failedLoads : Obligations.FailedLoads := by
  unfold Obligations.FailedLoads
  intro w s f e hr hp hw hc he hx hxl
  dsimp only
  intro hchk
  have hu : (s.fillTlb f.core (vasOf w f)).steady = s.steady := State.fillTlb_steady ..
  have hctl := ctl_of_steady hu f.core f.ctx
  have hexec : exec (.ld w) s = .next ((s.fillTlb f.core (vasOf w f)).readFails (.ld w) f w.lsid.toNat e .load) :=
    startLoad_error (i := .ld w) (chk := fun s f => s.checkMem f w .load) (vas := vasOf w) hr hp hw hchk
  refine ⟨fun hm => ?_, fun hm hcode => ?_, fun hm => ?_⟩
  · obtain ⟨n, hrecv, hrec⟩ := readFails_fault (i := .ld w) (lsid := w.lsid.toNat) (k := .load) hc he hx hu (hctl ▸ hm)
    exact ⟨_, n, _, hexec, hrecv, hrec, rfl, rfl, rfl, rfl, rfl, State.readFails_mem ..⟩
  · obtain ⟨hrecv, hpend⟩ := readFails_chaff (i := .ld w) (lsid := w.lsid.toNat) (k := .load) hc he hx hu hxl (hctl ▸ hm) hcode
    exact ⟨_, hexec, hrecv, State.readFails_mem .., hpend⟩
  · obtain ⟨hrecv, hfr, hpend⟩ := readFails_frozen (i := .ld w) (lsid := w.lsid.toNat) (e := e) (k := .load) hc he hx hu hxl
      (hctl ▸ hm)
    exact ⟨_, hexec, hrecv, State.readFails_mem .., hfr, hpend⟩

end Sys2Proof.Machine
end

section
/-! SUPPORT. XLAT for a core that is not there (R158). -/

namespace Sys2Proof.Machine

/-- XLAT of the physical-address token with bits 63:62 set, at a core beyond the 72 of the package. -/
def absentXlat : Firing :=
  { core := 72, elem := 0, ctx := 0, hdl := false, seq := 0, idx := 0, tag := 0, blk := 0
    l := some ⟨0, .data, .sc 0xC000000000000000⟩, r := none, p := none }

/-- The state at reset with that firing selected. -/
def absentState : State := { State.reset with sel := some absentXlat }

/-- An XLAT with no predicate that sends to the left operand of entry 0. -/
def xlatToLeft : GWord := { pm := .always, t0 := .left 0, t1 := .none, ty := .z64, mode := 0, imm := false, value := 0 }

theorem absentState_core : absentState.core 72 = Core.reset := rfl

theorem absentState_portTakes : absentState.portTakes absentXlat = true := by
  simp [State.portTakes, State.isFrozen, State.portFull, absentXlat, absentState_core, Core.reset]

theorem absentState_walkStalls (va : Nat) : absentState.walkStalls 72 [va] = false := by
  have hlinks : absentState.links.any (·.failed) = false := rfl
  simp [State.walkStalls, hlinks]

theorem absentXlat_dataOnly : DataOnly (leftOnly absentXlat) := by
  intro t ht
  simp_all [leftOnly, absentXlat]

/-- XLAT hands on a physical-address token. -/
theorem exec_xlat_token {w : GWord} {s : State} {f : Firing} (hsel : s.sel = some f) (hf : Fires w.pm f)
    (hd : DataOnly (leftOnly f)) (hp : s.portTakes f = true) (hw : s.walkStalls f.core [f.lval.scalar.toNat] = false)
    (ht : isPaToken f.lval.scalar.toNat = true) :
    exec (.xlat w) s = .next (s.emitPort f w.t0 w.t1 .data (.sc f.lval.scalar)) := by
  simp [exec, execXlat, fireAs_run _ _ _ _ _ hsel hf hd, hp, hw, ht]

/-- A token that is emitted at a core that is not there goes nowhere. -/
theorem exec_absentXlat : exec (.xlat xlatToLeft) absentState = .next absentState := by
  have habsent (l : List Flight) : absentState.withTokens 72 l = absentState := State.setCore_absent _ _ _ (Nat.le_refl 72)
  rw [exec_xlat_token (f := absentXlat) rfl (.inl rfl) absentXlat_dataOnly absentState_portTakes (absentState_walkStalls _)
    (by decide), State.emitPort, State.emitFrom_eq _ _ _ _ _ _ (.inl rfl)]
  exact congrArg _ (habsent _)

/-- Refutes O26: the clause on physical-address tokens does not ask that the core exists. Core 72 of the state at reset is
beyond the package, so its XLAT sends nothing, and the clause wants the token at entry 0. -/
theorem not_fencesAndTranslation : ¬ Obligations.FencesAndTranslation := by
  unfold Obligations.FencesAndTranslation
  rintro ⟨-, ⟨hxlat, -⟩⟩
  obtain ⟨-, -, htoken, -⟩ := hxlat xlatToLeft absentState absentXlat rfl (.inl rfl) absentXlat_dataOnly absentState_portTakes
    (absentState_walkStalls _)
  obtain ⟨t, ht, -, hsent⟩ := htoken (by decide)
  rw [exec_absentXlat] at ht
  cases ht
  have hnothing : Received absentState absentState absentXlat.core [] := received_nil rfl
  have hone : deliveries absentState absentXlat xlatToLeft.t0 xlatToLeft.t1
      ⟨absentXlat.tag, .data, .sc absentXlat.lval.scalar⟩ = [] := by
    simpa [sentBy] using List.append_cancel_left (hsent.symm.trans hnothing)
  exact absurd hone (by decide)

end Sys2Proof.Machine
end

section
/-! SUPPORT. Barriers and waits for completion tags (R163-R169). -/

namespace Sys2Proof.Machine

/-- A field of a core that the write of a core leaves alone. -/
theorem State.setCore_core_field {α : Type} (g : Core → α) (s : State) (c d : Nat) (k : Core) (hg : g k = g (s.core c)) :
    g ((s.setCore c k).core d) = g (s.core d) := by
  rcases Nat.lt_or_ge c s.cores.length with hc | hc
  · by_cases h : c = d
    · subst h
      rw [State.core_setCore_self _ _ _ hc, hg]
    · rw [State.core_setCore_ne _ _ _ _ h]
  · rw [State.setCore_absent _ _ _ hc]

/-! ## What a report asks for at commit -/

/-- After requests to clear tags of a core, nothing that reports and emissions look at has changed, but tags that have been
cleared at once. -/
structure AfterClears (s t : State) (c : Nat) : Prop where
  store : SameStore s t
  length : t.cores.length = s.cores.length
  fabric : (t.core c).fabric = (s.core c).fabric
  elems : (t.core c).elems = (s.core c).elems
  pend : ∀ x, (t.cx c x).pend = (s.cx c x).pend
  narrow : ∀ n, NarrowTag s c n → NarrowTag t c n

section
variable {s t u : State} {f : Firing} {c : Nat}

theorem AfterClears.refl (s : State) (c : Nat) : AfterClears s s c := ⟨⟨rfl, rfl⟩, rfl, rfl, rfl, fun _ => rfl, fun _ h => h⟩

theorem AfterClears.trans (h : AfterClears s t c) (h' : AfterClears t u c) : AfterClears s u c where
  store := ⟨h'.store.1.trans h.store.1, h'.store.2.trans h.store.2⟩
  length := h'.length.trans h.length
  fabric := h'.fabric.trans h.fabric
  elems := h'.elems.trans h.elems
  pend x := (h'.pend x).trans (h.pend x)
  narrow n hn := h'.narrow n (h.narrow n hn)

theorem State.modOwn_core_field {α : Type} (g : Core → α) (hg : ∀ k l, g { k with cxs := l } = g k) (h : Inst → Inst) (d : Nat) :
    g ((s.modOwn f h).core d) = g (s.core d) := State.setCx_core_field g hg ..

theorem State.modOwn_length (h : Inst → Inst) : (s.modOwn f h).cores.length = s.cores.length := by
  simp [State.modOwn, State.modInst]

theorem State.modOwn_pend (h : Inst → Inst) (d x : Nat) : ((s.modOwn f h).cx d x).pend = (s.cx d x).pend :=
  State.setCx_cx_field Ctx.pend _ _ _ _ _ _ (by unfold Ctx.setStrand; split <;> rfl)

theorem AfterClears.modOwn (h : Inst → Inst) : AfterClears s (s.modOwn f h) c where
  store := ⟨State.modOwn_mem .., State.modOwn_parts ..⟩
  length := State.modOwn_length h
  fabric := State.modOwn_core_field Core.fabric (fun _ _ => rfl) ..
  elems := State.modOwn_core_field Core.elems (fun _ _ => rfl) ..
  pend := State.modOwn_pend h c
  narrow n hn := by rwa [NarrowTag, State.modOwn_core_field (fun k => k.ctag n) fun _ _ => rfl]

theorem Core.ctag_set (k : Core) (n m : Nat) (v : Ctag) (hv : v.scope = 0) (h : (k.ctag m).scope < 2) :
    (({ k with ctags := k.ctags.set n v } : Core).ctag m).scope < 2 := by
  unfold Core.ctag at *
  by_cases hn : n = m
  · subst hn
    rcases Nat.lt_or_ge n k.ctags.length with hl | hl
    · simp [hl, hv]
    · simpa [set_of_length_le _ _ _ hl] using h
  · simpa [List.getD_eq_getElem?_getD, List.getElem?_set_ne hn] using h

theorem AfterClears.applyClear (d x n : Nat) (o : Option Owner) : AfterClears s (s.applyPost d x (.clearTag n o)) c := by
  unfold State.applyPost
  dsimp only
  split
  · refine ⟨⟨rfl, rfl⟩, by simp, ?_, ?_, fun y => ?_, fun m hm => ?_⟩
    · exact State.setCore_core_field Core.fabric _ _ _ _ rfl
    · exact State.setCore_core_field Core.elems _ _ _ _ rfl
    · exact State.setCore_core_field (fun k => (k.cxs.getD y Ctx.reset).pend) _ _ _ _ rfl
    · unfold NarrowTag at *
      rcases Nat.lt_or_ge d s.cores.length with hd | hd
      · by_cases h : d = c
        · subst h
          rw [State.core_setCore_self _ _ _ hd]
          exact Core.ctag_set _ _ _ _ rfl hm
        · rwa [State.core_setCore_ne _ _ _ _ h]
      · rwa [State.setCore_absent _ _ _ hd]
  · exact .refl s c

theorem AfterClears.addClear (n : Nat) (o : Option Owner) : AfterClears s (s.addPost f (.clearTag n o)) c := by
  unfold State.addPost
  split
  · exact .modOwn _
  · exact .applyClear ..

theorem AfterClears.postClears (l : List Nat) : AfterClears s (s.postClears f l) c :=
  List.foldlRecOn (motive := fun t => AfterClears s t c) l _ (.refl s c) fun _ ht _ _ => ht.trans (.addClear ..)

/-- While its block runs, the clears of a wait are entered there, each with the owner that the tag has. -/
theorem State.postClears_instOf {i : Inst} (l : List Nat) (h : s.instOf f = some i) :
    (s.postClears f l).instOf f = some (Clears s f.core i l) := by
  induction l generalizing s i with
  | nil => simpa [State.postClears, Clears] using h
  | cons n l ih =>
    have hpost := State.instOf_modOwn (fun i => { i with post := i.post ++ [.clearTag n ((s.core f.core).ctag n).owner] })
      (fun _ => rfl) h
    have hadd : s.addPost f (.clearTag n ((s.core f.core).ctag n).owner) =
        s.modOwn f fun i => { i with post := i.post ++ [.clearTag n ((s.core f.core).ctag n).owner] } := by
      simp [State.addPost, h]
    have htags (m : Nat) : ((s.addPost f (.clearTag n ((s.core f.core).ctag n).owner)).core f.core).ctag m =
        (s.core f.core).ctag m := by
      rw [hadd]
      exact State.modOwn_core_field (fun k => k.ctag m) (fun _ _ => rfl) ..
    rw [← hadd] at hpost
    have hrest := ih hpost
    simp only [Clears, htags] at hrest
    simpa [State.postClears, Clears] using hrest

/-! ## Reports -/

theorem State.acquireTags_narrow {l : List Nat} (h : ∀ n ∈ l, NarrowTag s c n) : s.acquireTags c l = s := by
  have hnone : l.any (fun n => wideScope ((s.core c).ctag n).scope) = false :=
    List.any_eq_false.mpr fun n hn => by
      have := h n hn
      unfold NarrowTag at this
      simp [wideScope, this]
  simp [State.acquireTags, hnone]

theorem State.reportVal_one (n : Nat) (v : Val) : s.reportVal c [n] v = marked ((s.core c).ctag n).mark v := by
  cases h : ((s.core c).ctag n).mark <;> simp [State.reportVal, h, marked]

theorem State.reportVal_unmarked {l : List Nat} (h : ∀ n ∈ l, ((s.core c).ctag n).mark = .none) (v : Val) :
    s.reportVal c l v = (.data, v) := by
  have hmarks : ∀ m ∈ l.map fun n => ((s.core c).ctag n).mark, m = .none := by
    rintro m hm
    obtain ⟨n, hn, rfl⟩ := List.mem_map.mp hm
    exact h n hn
  unfold State.reportVal
  dsimp only
  generalize l.map (fun n => ((s.core c).ctag n).mark) = ms at hmarks
  split
  · next n hn =>
    obtain ⟨m, hm, hf⟩ := List.exists_of_findSome?_eq_some hn
    rw [hmarks m hm] at hf
    simp at hf
  · have hchaff : Mark.chaff ∉ ms := fun hm => by simpa using hmarks _ hm
    simp [hchaff]

/-- What a report of tags comes to: the state after the clears it asks for has emitted its value. -/
structure Reported (s t : State) (f : Firing) (t0 t1 : Target) (k : Kind) (v : Val) : Prop where
  store : SameStore s t
  sent : Received s t f.core (deliveries s f t0 t1 ⟨f.tag, k, v⟩)
  pend : ∀ x, (t.cx f.core x).pend = (s.cx f.core x).pend

theorem AfterClears.emit (h : AfterClears s u f.core) (hc : f.core < s.cores.length) {t0 t1 : Target} {k : Kind} (v : Val)
    (hk : k.isFault = false ∨ t0 ≠ .none ∨ t1 ≠ .none) : Reported s (u.emit f t0 t1 k v) f t0 t1 k v := by
  rw [State.emit_eq _ _ _ _ _ _ hk, State.emits]
  refine ⟨h.store, ?_, fun x => ?_⟩
  · rw [← deliveries_congr h.elems]
    exact received_withTokens _ (h.length ▸ hc) h.fabric
  · rw [State.withTokens_cx, h.pend]

theorem State.report_reported {l : List Nat} {t0 t1 : Target} {k : Kind} {v v' : Val} (clr : Bool) (hc : f.core < s.cores.length)
    (hn : ∀ n ∈ l, NarrowTag s f.core n) (hv : s.reportVal f.core l v = (k, v'))
    (hk : k.isFault = false ∨ t0 ≠ .none ∨ t1 ≠ .none) :
    Reported s (s.report f t0 t1 l v clr) f t0 t1 k v' ∧
      ∀ i, s.instOf f = some i → (s.report f t0 t1 l v clr).instOf f = some (Clears s f.core i (if clr then l else [])) := by
  have hrun (u : State) (hu : AfterClears s u f.core) : u.acquireTags f.core l = u :=
    State.acquireTags_narrow fun n hm => hu.narrow n (hn n hm)
  unfold State.report
  rw [hv]
  cases clr with
  | true =>
    have hu : AfterClears s (s.postClears f l) f.core := .postClears l
    refine ⟨?_, fun i hi => ?_⟩
    · simpa [hrun _ hu] using hu.emit hc v' hk
    · simpa [hrun _ hu, State.emit_eq _ _ _ _ _ _ hk, State.emits] using State.postClears_instOf l hi
  | false =>
    refine ⟨?_, fun i hi => ?_⟩
    · simpa [hrun _ (.refl ..)] using (AfterClears.refl s f.core).emit hc v' hk
    · simpa [hrun _ (.refl ..), State.emit_eq _ _ _ _ _ _ hk, State.emits, Clears] using hi

/-- A report that clears nothing is its emission. -/
theorem State.report_eq {l : List Nat} {t0 t1 : Target} {k : Kind} {v v' : Val} (hn : ∀ n ∈ l, NarrowTag s f.core n)
    (hv : s.reportVal f.core l v = (k, v')) (hk : k.isFault = false ∨ t0 ≠ .none ∨ t1 ≠ .none) :
    s.report f t0 t1 l v false = s.emits f t0 t1 k v' := by
  simp [State.report, hv, State.acquireTags_narrow hn, State.emit_eq _ _ _ _ _ _ hk]

end

/-! ## The mask of CCLR -/

/-- The number with the bits of a list. -/
def bitSum (l : List Nat) : Nat := l.foldl (fun m t => m + 2 ^ t) 0

theorem bitSum_append (l : List Nat) (n : Nat) : bitSum (l ++ [n]) = bitSum l + 2 ^ n := by simp [bitSum]

theorem bitSum_filter (p : Nat → Bool) (n : Nat) : bitSum ((List.range n).filter p) < 2 ^ n ∧
    ∀ k, (bitSum ((List.range n).filter p)).testBit k = (decide (k < n) && p k) := by
  induction n with
  | zero => simp [bitSum]
  | succ n ih =>
    obtain ⟨hlt, hbit⟩ := ih
    rw [List.range_succ, List.filter_append]
    cases hp : p n with
    | false =>
      simp only [List.filter_cons, hp, List.filter_nil, List.append_nil, Bool.false_eq_true, if_false]
      refine ⟨by omega, fun k => ?_⟩
      rw [hbit]
      by_cases hk : k = n
      · simp [hk, hp]
      · congr 1
        simp only [decide_eq_decide]
        omega
    | true =>
      simp only [List.filter_cons, hp, List.filter_nil, if_true, bitSum_append]
      refine ⟨by omega, fun k => ?_⟩
      rw [Nat.add_comm]
      rcases Nat.lt_trichotomy k n with hk | rfl | hk
      · rw [Nat.testBit_two_pow_add_gt hk, hbit]
        congr 1
        simp only [decide_eq_decide]
        omega
      · rw [Nat.testBit_two_pow_add_eq, hbit]
        simp [hp]
      · rw [Nat.testBit_lt_two_pow]
        · simp
          omega
        · calc 2 ^ n + bitSum _ < 2 ^ (n + 1) := by omega
            _ ≤ 2 ^ k := Nat.pow_le_pow_right (by omega) hk

/-! ## Barriers -/

section
variable {s : State} {c x k : Nat} {q : Pend} {w : EWord}

/-- The state before a barrier operation keeps and emits its count: it waits no more, and the barrier has its new state. -/
def barrierApplied (s : State) (c x k : Nat) (w : EWord) (b : Barrier) : State :=
  let u := s.dropPend c x k
  let v := u.setCore c { u.core c with barriers := (u.core c).barriers.set (barOf w) b }
  if b.fired then v.letGo c (barOf w) else v

theorem State.letGo_core_field {α : Type} (g : Core → α) (hg : ∀ k l, g { k with cxs := l } = g k) (s : State) (c b d : Nat) :
    g ((s.letGo c b).core d) = g (s.core d) := State.setCore_core_field g _ _ _ _ (hg _ _)

theorem barrierApplied_length (b : Barrier) : (barrierApplied s c x k w b).cores.length = s.cores.length := by
  unfold barrierApplied
  dsimp only
  split <;> simp [State.letGo]

theorem barrierApplied_store (b : Barrier) : SameStore s (barrierApplied s c x k w b) := by
  unfold barrierApplied
  dsimp only
  split <;> exact ⟨rfl, rfl⟩

theorem barrierApplied_core_field {α : Type} (g : Core → α) (hg : ∀ k l, g { k with cxs := l } = g k) (b : Barrier)
    (hc : c < s.cores.length) :
    g ((barrierApplied s c x k w b).core c) = g { s.core c with barriers := (s.core c).barriers.set (barOf w) b } := by
  have hset : g (((s.dropPend c x k).setCore c { (s.dropPend c x k).core c with
      barriers := ((s.dropPend c x k).core c).barriers.set (barOf w) b }).core c) =
      g { s.core c with barriers := (s.core c).barriers.set (barOf w) b } := by
    rw [State.core_setCore_self _ _ _ (by simpa)]
    exact State.dropPend_core_field s c (fun k => g { k with barriers := k.barriers.set (barOf w) b })
      (fun k l => hg { k with barriers := k.barriers.set (barOf w) b } l) ..
  unfold barrierApplied
  dsimp only
  split
  · rw [State.letGo_core_field g hg, hset]
  · exact hset

theorem execBarrierApply_due (hq : (s.cx c x).pend[k]? = some q) (hst : q.st = .perform)
    (hi : q.i = .barinit w ∨ q.i = .baradd w ∨ q.i = .bararr w) (hdue : s.due q = true) :
    let b := barrierNew q.i (((s.dropPend c x k).core c).barrier (barOf w)) (BitVec.ofNat 32 q.f.lval.scalar.toNat)
    execBarrierApply c x k s = .next (((barrierApplied s c x k w b).keep q.f [(.data, .sc (b.count.signExtend 64))]).emitDue q
      w.t0 w.t1 .data (.sc (b.count.signExtend 64))) := by
  unfold execBarrierApply
  rw [hq]
  dsimp only
  rcases hi with hi | hi | hi <;> simp only [hst, hi, hdue, Bool.not_true, Bool.false_eq_true, if_false, barrierApplied]

/-- The three barrier operations wait and are applied alike: only the barrier that they make differs. -/
theorem barrierRule_of {mk : EWord → Instr} {op : Barrier → BitVec 32 → Barrier}
    (hexec : ∀ w s, exec (mk w) s = startBarrier s (mk w) w)
    (hi : ∀ w, mk w = .barinit w ∨ mk w = .baradd w ∨ mk w = .bararr w)
    (hop : ∀ w b x, barrierNew (mk w) b x = op b x) : BarrierRule mk op := by
  refine ⟨fun w s f hr hkept => ?_, fun w s c x k q hq hmk hst hdue hlen => ?_⟩
  · obtain ⟨hsel, hf, hd⟩ := hr
    have hrun : exec (mk w) s = .next ((s.adopt (mk w) f).getD (s.addPend ⟨mk w, f, .perform, 0⟩)) := by
      rw [hexec, startBarrier, fireAs_run _ _ _ _ _ hsel hf hd, hkept]
    exact ⟨fun ha => by simp [hrun, ha], fun t ha => by simp [hrun, ha]⟩
  · obtain ⟨hpend, hcore, -⟩ := hq
    have hc := (State.pend_range hpend).1
    have hbar : ((s.dropPend c x k).core c).barrier (barOf w) = (s.core c).barrier (barOf w) :=
      State.dropPend_core_field s c (·.barrier (barOf w)) (fun _ _ => rfl) ..
    refine ⟨_, execBarrierApply_due hpend hst (hmk ▸ hi w) hdue, ?_⟩
    rw [hbar, hmk, hop, show BitVec.ofNat 32 q.f.lval.scalar.toNat = q.f.lval.scalar.setWidth 32 from rfl]
    set b := op ((s.core c).barrier (barOf w)) (q.f.lval.scalar.setWidth 32) with hb
    set u := (barrierApplied s c x k w b).keep q.f [(.data, .sc (b.count.signExtend 64))] with hu
    have husteady : u.steady = (barrierApplied s c x k w b).steady := State.keep_steady ..
    have hulen : c < u.cores.length := by rwa [cores_length_of_steady husteady, barrierApplied_length]
    have hubars : (u.core c).barriers = (s.core c).barriers.set (barOf w) b :=
      (core_of_steady husteady Core.barriers (fun _ => rfl) c).trans
        (barrierApplied_core_field Core.barriers (fun _ _ => rfl) b hc)
    have hufab : (u.core c).fabric = (s.core c).fabric :=
      (fabric_of_steady husteady c).trans (barrierApplied_core_field Core.fabric (fun _ _ => rfl) b hc)
    have huelems : (u.core c).elems = (s.core c).elems :=
      (elems_of_steady husteady c).trans (barrierApplied_core_field Core.elems (fun _ _ => rfl) b hc)
    have hemit : (u.emitDue q w.t0 w.t1 .data (.sc (b.count.signExtend 64))) =
        u.withTokens c (if q.sseq = 1 then [] else deliveries s q.f w.t0 w.t1 ⟨q.f.tag, .data, .sc (b.count.signExtend 64)⟩) := by
      unfold State.emitDue
      split
      · exact (State.withTokens_nil u c).symm
      · subst hcore
        rw [State.emit_data, State.emits, deliveries_congr huelems]
    rw [hemit]
    have hbars : ((u.withTokens c (if q.sseq = 1 then [] else
        deliveries s q.f w.t0 w.t1 ⟨q.f.tag, .data, .sc (b.count.signExtend 64)⟩)).core c).barriers =
        (s.core c).barriers.set (barOf w) b := by
      rw [State.withTokens_core_field Core.barriers fun _ _ => rfl, hubars]
    have hlt : barOf w < (s.core c).barriers.length := by
      rw [hlen]
      exact Nat.mod_lt _ (by decide)
    refine ⟨⟨?_, ?_⟩, ?_, fun n hn => ?_, received_withTokens _ hulen hufab⟩
    · exact (State.keep_mem ..).trans (barrierApplied_store b).1
    · exact (parts_of_steady husteady).trans (barrierApplied_store b).2
    · simp [Core.barrier, hbars, hlt]
    · simp only [Core.barrier, hbars]
      rw [List.getD_eq_getElem?_getD, List.getElem?_set_ne (Ne.symm hn), ← List.getD_eq_getElem?_getD]

theorem barrierNew_baradd (b : Barrier) (x : BitVec 32) :
    barrierNew (.baradd w) b x = ⟨b.count + x, b.fired || (x != 0 && b.count + x == 0)⟩ := by
  by_cases h : x = 0#32
  · simp [barrierNew, h]
  · have hne : (x != 0#32) = true := by simpa using h
    simp [barrierNew, h, hne]

theorem barrierNew_bararr (b : Barrier) (x : BitVec 32) :
    barrierNew (.bararr w) b x = ⟨b.count - 1, b.fired || b.count == 1⟩ := by
  have hsub : b.count + (-1) = b.count - 1 := by bv_omega
  have hzero : (b.count - 1 == 0) = (b.count == 1) := by
    rw [Bool.eq_iff_iff]
    simp only [beq_iff_eq]
    bv_omega
  simp only [barrierNew]
  rw [if_neg (by decide), hsub, hzero]

theorem execBarwait_token {s : State} {f : Firing} {t : Tok} (hsel : s.sel = some f) (hf : Fires w.pm f) (hl : f.l = some t)
    (hk : t.kind = .data ∨ ∃ j, t.kind = .stop j) : exec (.barwait w) s =
      if ((s.core f.core).barrier (barOf w)).fired then .next (s.emits f w.t0 w.t1 t.kind t.val)
      else .next (s.addPend ⟨.barwait w, f, .wait, 0⟩) := by
  have hemit : s.emit f w.t0 w.t1 t.kind t.val = s.emits f w.t0 w.t1 t.kind t.val :=
    State.emit_eq _ _ _ _ _ _ (.inl (by obtain h | ⟨j, h⟩ := hk <;> simp [h, Kind.isFault]))
  rw [← hemit]
  rw [exec_barwait]
  obtain h | ⟨j, h⟩ := hk <;> simp [execBarwait, withSel_some _ hsel, gate_fires hf, hl, h]

end

/-! ## What waits and is taken out -/

section
variable {s : State} {c x k : Nat} {q : Pend} {t : State} {t0 t1 : Target} {d : Kind} {v : Val}

/-- What emits once it has been taken out of the operations that wait. -/
theorem Reported.of_dropPend (hq : PendAt s c x k q) (h : Reported (s.dropPend c x k) t q.f t0 t1 d v) :
    SameStore s t ∧ (t.cx c x).pend = (s.cx c x).pend.eraseIdx k ∧ Received s t c (deliveries s q.f t0 t1 ⟨q.f.tag, d, v⟩) := by
  obtain ⟨hpend, hcore, -⟩ := hq
  subst hcore
  obtain ⟨hc, hx⟩ := State.pend_range hpend
  refine ⟨h.store, (h.pend x).trans (State.dropPend_pend _ _ _ _ hc hx), ?_⟩
  have hsent := h.sent
  rwa [Received, State.dropPend_core_field s _ Core.fabric (fun _ _ => rfl),
    deliveries_congr (State.dropPend_core_field s _ Core.elems (fun _ _ => rfl) ..)] at hsent

theorem State.dropPend_ctag (n : Nat) : ((s.dropPend c x k).core c).ctag n = (s.core c).ctag n :=
  State.dropPend_core_field s c (·.ctag n) (fun _ _ => rfl) ..

theorem State.dropPend_ctl (y : Nat) : ((s.dropPend c x k).cx c y).ctl = (s.cx c y).ctl :=
  State.setCx_cx_field Ctx.ctl _ _ _ _ _ _ rfl

theorem State.dropPend_selTags (hcore : q.f.core = c) : (s.dropPend c x k).selTags q.f = s.selTags q.f := by
  subst hcore
  simp only [State.selTags, State.dropPend_ctl]

theorem State.dropPend_doneTags (hcore : q.f.core = c) : (s.dropPend c x k).doneTags q.f = s.doneTags q.f := by
  subst hcore
  simp only [State.doneTags, State.dropPend_selTags, State.dropPend_ctag]

theorem NarrowTag.dropPend {n : Nat} (h : NarrowTag s c n) : NarrowTag (s.dropPend c x k) c n := by
  rwa [NarrowTag, State.dropPend_ctag]

end

/-! ## The parts of the statement -/

theorem barwait_release {w : EWord} {s : State} {c x k : Nat} {q : Pend} {t : Tok} (hq : PendAt s c x k q)
    (hi : q.i = .barwait w) (hst : q.st = .wait) (hl : q.f.l = some t) (hk : t.kind ≠ .fault)
    (hfired : ((s.core c).barrier (barOf w)).fired = true) :
    ∃ u : State, exec (.barwaitRelease c x k) s = .next u ∧ SameStore s u ∧ (u.cx c x).pend = (s.cx c x).pend.eraseIdx k ∧
      Received s u c (deliveries s q.f w.t0 w.t1 ⟨q.f.tag, t.kind, t.val⟩) := by
  have hexec : exec (.barwaitRelease c x k) s = .next ((s.dropPend c x k).emit q.f w.t0 w.t1 t.kind t.val) := by
    rw [exec_barwaitRelease]
    simp [execBarwaitRelease, hq.1, hi, hst, hl, hfired]
  have hkind : t.kind.isFault = false := by cases h : t.kind <;> simp_all [Kind.isFault]
  have hc : q.f.core < (s.dropPend c x k).cores.length := by
    rw [hq.2.1]
    simpa using (State.pend_range hq.1).1
  exact ⟨_, hexec, ((AfterClears.refl _ _).emit hc t.val (.inl hkind)).of_dropPend hq⟩

section
variable {w : EWord} {s : State} {f : Firing} {i : Inst} (hr : ReadyE s w f leftOnly)
include hr

theorem ffr_run : exec (.ffr w) s = .next (match s.doneTags f with
    | [] => s.emit f w.t0 w.t1 .data (.sc 64)
    | t :: _ => s.report f w.t0 w.t1 [t] (scNat t) false) :=
  (exec_ffr w s).trans (fireAs_run _ _ _ _ _ hr.1 hr.2.1 hr.2.2)

theorem waitany_run : exec (.waitany w) s = .next ((s.waitAnyRun f w).getD (s.addPend ⟨.waitany w, f, .wait, 0⟩)) :=
  (exec_waitany w s).trans (fireAs_run _ _ _ _ _ hr.1 hr.2.1 hr.2.2)

theorem waitall_run : exec (.waitall w) s = .next ((s.waitAllRun f w).getD (s.addPend ⟨.waitall w, f, .wait, 0⟩)) :=
  (exec_waitall w s).trans (fireAs_run _ _ _ _ _ hr.1 hr.2.1 hr.2.2)

/-- The tags that CCLR finds BUSY. -/
theorem cclr_run : exec (.cclr w) s = .next ((s.postClears f ((s.selTags f).filter fun n =>
      decide (((s.core f.core).ctag n).st ≠ .busy))).emit f w.t0 w.t1 .data
    (scNat (bitSum ((s.selTags f).filter fun n => ((s.core f.core).ctag n).st == .busy)))) := by
  refine (exec_cclr w s).trans ((fireAs_run _ _ _ _ _ hr.1 hr.2.1 hr.2.2).trans ?_)
  have hrest : ((s.selTags f).filter fun t => !((s.selTags f).filter fun n =>
      ((s.core f.core).ctag n).st == .busy).contains t) =
      (s.selTags f).filter fun n => decide (((s.core f.core).ctag n).st ≠ .busy) := by
    refine List.filter_congr fun n hn => ?_
    simp [hn]
  dsimp only
  rw [hrest]
  rfl

theorem cclr_reports (hi : s.instOf f = some i) :
    ∃ (t : State) (v : Word), exec (.cclr w) s = .next t ∧ SameStore s t ∧
      Received s t f.core (deliveries s f w.t0 w.t1 ⟨f.tag, .data, .sc v⟩) ∧
      (∀ n : Nat, n < 64 → v.getLsbD n = (decide (n ∈ s.selTags f) && decide (((s.core f.core).ctag n).st = .busy))) ∧
      t.instOf f = some (Clears s f.core i ((s.selTags f).filter fun n => decide (((s.core f.core).ctag n).st ≠ .busy))) := by
  obtain ⟨hstore, hsent, -⟩ := (AfterClears.postClears (s := s) (f := f) ((s.selTags f).filter fun n =>
      decide (((s.core f.core).ctag n).st ≠ .busy))).emit (t0 := w.t0) (t1 := w.t1) (k := .data) (State.instOf_range hi).1
    (scNat (bitSum ((s.selTags f).filter fun n => ((s.core f.core).ctag n).st == .busy))) (.inl rfl)
  refine ⟨_, _, cclr_run hr, hstore, hsent, fun n hn => ?_, ?_⟩
  · unfold State.selTags
    dsimp only
    rw [List.filter_filter, BitVec.getLsbD_ofNat, (bitSum_filter _ _).2]
    simp [hn, List.mem_filter, Bool.and_comm, Bool.beq_eq_decide_eq]
  · rw [State.emit_data, State.emits, State.withTokens_instOf]
    exact State.postClears_instOf _ hi

end

/-- Settles O27: barriers by their new state, waits by the report that they make. -/
theorem barriersAndCompletionTags : Obligations.BarriersAndCompletionTags := by
  unfold Obligations.BarriersAndCompletionTags
  refine ⟨⟨?_, ?_, ?_, ?_, ?_⟩, ?_, ?_, ?_⟩
  · exact barrierRule_of (fun _ _ => rfl) (fun _ => .inl rfl) fun _ _ _ => rfl
  · exact barrierRule_of (fun _ _ => rfl) (fun _ => .inr (.inl rfl)) fun _ => barrierNew_baradd
  · exact barrierRule_of (fun _ _ => rfl) (fun _ => .inr (.inr rfl)) fun _ => barrierNew_bararr
  · intro w s f t hsel hf hl hk
    rw [execBarwait_token hsel hf hl hk]
    exact ⟨fun h => by simp [h], fun h => by simp [h]⟩
  · exact fun w s c x k q t hq hi hst hl hk hfired => barwait_release hq hi hst hl hk hfired
  · intro w s f i hr hi
    have hc := (State.instOf_range hi).1
    dsimp only
    refine ⟨fun hd => ?_, fun ha => ?_, fun ha hd => ?_, fun hne => ?_, fun n rest hd hn ht => ?_, fun hd hall => ?_,
      cclr_reports hr hi⟩
    · rw [ffr_run hr, hd, State.emit_data]
    · rw [waitany_run hr, State.waitAnyRun, if_pos ha, State.emit_data]
      rfl
    · rw [waitany_run hr, State.waitAnyRun, if_neg ha, hd]
      rfl
    · rw [waitall_run hr, State.waitAllRun, if_neg hne]
      rfl
    · have hn' : ∀ m ∈ [n], NarrowTag s f.core m := by simpa using hn
      have hv := s.reportVal_one (c := f.core) n (scNat n)
      refine ⟨by rw [ffr_run hr, hd]; exact congrArg _ (State.report_eq hn' hv (.inr ht)), ?_⟩
      have hsel : s.selTags f ≠ [] := fun h => by simp [State.doneTags, h] at hd
      obtain ⟨⟨hstore, hsent, -⟩, hinst⟩ := State.report_reported (EWord.clr w) hc hn' hv (.inr ht)
      exact ⟨_, by rw [waitany_run hr, State.waitAnyRun, if_neg hsel, hd]; rfl, hstore, hsent, hinst i hi⟩
    · obtain ⟨⟨hstore, hsent, -⟩, hinst⟩ := State.report_reported (t0 := w.t0) (t1 := w.t1) (EWord.clr w) hc
        (fun n hn => (hall n hn).1) (State.reportVal_unmarked (fun n hn => (hall n hn).2) _) (.inl rfl)
      exact ⟨_, by rw [waitall_run hr, State.waitAllRun, if_pos hd]; rfl, hstore, hsent, hinst i hi⟩
  · intro w s c x k q hq hst
    obtain ⟨hpend, hcore, hctx⟩ := hq
    have hc : q.f.core < (s.dropPend c x k).cores.length := by
      rw [hcore]
      simpa using (State.pend_range hpend).1
    refine ⟨fun hi hd hall => ?_, fun hi n rest hd hn hm => ?_⟩
    · obtain ⟨hrep, -⟩ := State.report_reported (s := s.dropPend c x k) (l := s.selTags q.f) (t0 := w.t0) (t1 := w.t1)
        (EWord.clr w) hc (fun n hn => hcore ▸ (hall n hn).1.dropPend)
        (State.reportVal_unmarked (fun n hn => by rw [hcore, State.dropPend_ctag, (hall n hn).2])
          (.sc (q.f.lval.scalar &&& (s.cx c x).ctl.ctagmask))) (.inl rfl)
      refine ⟨_, ?_, hrep.of_dropPend ⟨hpend, hcore, hctx⟩⟩
      rw [exec_waitSatisfied]
      simp only [execWaitSatisfied, hpend, hst, hi, State.waitAllRun, State.dropPend_doneTags hcore,
        State.dropPend_selTags hcore, hd, if_true, Option.getD_some, hcore, hctx, State.dropPend_ctl]
    · obtain ⟨hrep, -⟩ := State.report_reported (s := s.dropPend c x k) (l := [n]) (v := scNat n) (t0 := w.t0) (t1 := w.t1)
        (EWord.clr w) hc (by simpa [hcore] using hn.dropPend)
        (State.reportVal_unmarked (by simpa [hcore, State.dropPend_ctag] using hm) _) (.inl rfl)
      have hsel : s.selTags q.f ≠ [] := fun h => by simp [State.doneTags, h] at hd
      refine ⟨_, ?_, hrep.of_dropPend ⟨hpend, hcore, hctx⟩⟩
      rw [exec_waitSatisfied]
      simp only [execWaitSatisfied, hpend, hst, hi, State.waitAnyRun, State.dropPend_doneTags hcore,
        State.dropPend_selTags hcore, hd, if_neg hsel, Option.getD_some]
  · intro w s c x k q hq hst hform
    rw [exec_completionTagTake]
    simp only [execCompletionTagTake, hq.1, hst, hform]
    split <;> rfl

end Sys2Proof.Machine
end

section
/-! SUPPORT. Writes under way (R325, R326) and what comes before an access at its coherence point (R152, R320). -/

namespace Sys2Proof.Machine

/-! ## Writes under way -/

theorem State.core_mem_cores {s : State} {c : Nat} (hc : c < s.cores.length) : s.core c ∈ s.cores := by
  rw [State.core, List.getD_eq_getElem _ _ hc]
  exact List.getElem_mem hc

theorem State.late_absent {s : State} {c : Nat} (hc : s.cores.length ≤ c) : (s.core c).late = [] := by
  rw [State.core, List.getD_eq_default _ _ hc]
  rfl

/-- Core by core: no write of a completed command is to these bytes. -/
theorem noLate_iff {s : State} {pas : List Nat} :
    NoLate s pas ↔ ∀ d, ∀ l ∈ (s.core d).late, l.runs = false → ∀ b ∈ l.bytes, b.1 ∉ pas := by
  constructor
  · intro h d l hl
    rcases Nat.lt_or_ge d s.cores.length with hd | hd
    · exact h _ (State.core_mem_cores hd) l hl
    · rw [State.late_absent hd] at hl
      exact absurd hl (by simp)
  · intro h o ho l hl
    obtain ⟨d, hd, rfl⟩ := List.getElem_of_mem ho
    have hcore : s.core d = s.cores[d] := by rw [State.core, List.getD_eq_getElem _ _ hd]
    exact h d l (by rwa [hcore])

theorem Late.without_some {l r : Late} {p : Nat → Bool} (h : l.without p = some r) :
    r = { l with bytes := l.bytes.filter fun x => !p x.1 } ∧ r.bytes ≠ [] := by
  unfold Late.without at h
  dsimp only at h
  split at h
  · cases h
  · next hne =>
    cases h
    exact ⟨rfl, by simpa using hne⟩

theorem Late.without_none {l : Late} {p : Nat → Bool} : l.without p = none ↔ l.bytes.filter (fun x => !p x.1) = [] := by
  unfold Late.without
  dsimp only
  cases l.bytes.filter (fun x => !p x.1) <;> simp

/-- What is under way after a write was under way before, with at most its bytes. -/
theorem Core.mem_overtaken {k : Core} {l : List (Nat × Byte)} {w : Late} (h : w ∈ k.overtaken l) :
    ∃ v ∈ k.late, v.runs = w.runs ∧ ∀ b ∈ w.bytes, b ∈ v.bytes := by
  obtain ⟨v, hv, h⟩ := List.mem_filterMap.mp h
  split at h
  · cases h
    exact ⟨_, hv, rfl, fun _ hb => hb⟩
  · obtain ⟨rfl, -⟩ := Late.without_some h
    exact ⟨v, hv, rfl, fun _ hb => (List.mem_filter.mp hb).1⟩

theorem NoLate.store {s : State} {pas : List Nat} (h : NoLate s pas) (l : List (Nat × Byte)) (z : List Nat) :
    NoLate (s.store l z) pas := by
  rw [noLate_iff] at h ⊢
  intro d w hw hr b hb
  rcases Nat.lt_or_ge d s.cores.length with hd | hd
  · rw [State.store_core _ _ _ hd] at hw
    obtain ⟨v, hv, hvr, hbytes⟩ := Core.mem_overtaken hw
    exact h d v hv (hvr.trans hr) b (hbytes b hb)
  · rw [State.late_absent (by simpa)] at hw
    exact absurd hw (by simp)

/-! ## An access that nothing comes before -/

/-- Memory and what an emission of core `c` looks at are as they were; core `c` holds no CACHE line, and no write of a completed
command is to the bytes `pas`. -/
structure AtRest (s t : State) (c : Nat) (pas : List Nat) : Prop where
  mem : t.mem = s.mem
  parts : t.parts = s.parts
  length : t.cores.length = s.cores.length
  fabric : (t.core c).fabric = (s.core c).fabric
  elems : (t.core c).elems = (s.core c).elems
  split : ∀ d, (t.core d).split = (s.core d).split
  cache : (t.core c).cache = []
  noLate : NoLate t pas

section
variable {s t u : State} {c : Nat} {pas : List Nat}

theorem AtRest.refl (hcache : (s.core c).cache = []) (h : NoLate s pas) : AtRest s s c pas :=
  ⟨rfl, rfl, rfl, rfl, rfl, fun _ => rfl, hcache, h⟩

/-- A step that moves no byte of memory and nothing that is under way. -/
theorem AtRest.of_steady (h : AtRest s t c pas) (hu : u.steady = t.steady) (hmem : u.mem = t.mem)
    (hcache : (u.core c).cache = []) (hl : NoLate u pas) : AtRest s u c pas where
  mem := hmem.trans h.mem
  parts := (parts_of_steady hu).trans h.parts
  length := (cores_length_of_steady hu).trans h.length
  fabric := (fabric_of_steady hu c).trans h.fabric
  elems := (elems_of_steady hu c).trans h.elems
  split d := (split_of_steady hu d).trans (h.split d)
  cache := hcache
  noLate := hl

theorem NoLate.setCore {d : Nat} {k : Core} (h : NoLate t pas) (hk : k.late = (t.core d).late) : NoLate (t.setCore d k) pas := by
  rw [noLate_iff] at h ⊢
  intro e w hw
  rw [State.setCore_core_field Core.late _ _ _ _ hk] at hw
  exact h e w hw

/-- A write of a core that touches neither memory traffic nor what emissions look at. -/
theorem AtRest.setCore (h : AtRest s t c pas) {d : Nat} {k : Core} (hf : k.fabric = (t.core d).fabric)
    (he : k.elems = (t.core d).elems) (hs : k.split = (t.core d).split) (hl : k.late = (t.core d).late)
    (hc : k.cache = (t.core d).cache ∨ k.cache = []) : AtRest s (t.setCore d k) c pas where
  mem := h.mem
  parts := h.parts
  length := by simpa using h.length
  fabric := (State.setCore_core_field Core.fabric _ _ _ _ hf).trans h.fabric
  elems := (State.setCore_core_field Core.elems _ _ _ _ he).trans h.elems
  split e := (State.setCore_core_field Core.split _ _ _ _ hs).trans (h.split e)
  cache := by
    rcases hc with hc | hc
    · exact (State.setCore_core_field Core.cache _ _ _ _ hc).trans h.cache
    · rcases Nat.lt_or_ge d t.cores.length with hd | hd
      · by_cases hdc : d = c
        · subst hdc
          rw [State.core_setCore_self _ _ _ hd, hc]
        · rw [State.core_setCore_ne _ _ _ _ hdc, h.cache]
      · rw [State.setCore_absent _ _ _ hd, h.cache]
  noLate := h.noLate.setCore hl

theorem AtRest.setCx (h : AtRest s t c pas) (d x : Nat) (v : Ctx) : AtRest s (t.setCx d x v) c pas :=
  h.setCore rfl rfl rfl rfl (.inl rfl)

theorem State.store_cache (l : List (Nat × Byte)) (z : List Nat) (d : Nat) :
    ((s.store l z).core d).cache = (s.core d).cache := by
  rcases Nat.lt_or_ge d s.cores.length with hd | hd
  · rw [State.store_core _ _ _ hd]
  · have habsent (v : State) (hv : v.cores.length ≤ d) : v.core d = Core.reset := List.getD_eq_default _ _ hv
    rw [habsent _ hd, habsent _ (by simpa)]

theorem AtRest.store_nil (h : AtRest s t c pas) : AtRest s (t.store []) c pas :=
  h.of_steady (State.store_steady ..) rfl ((State.store_cache ..).trans h.cache) (h.noLate.store [] [])

/-- With no line in CACHE, a release writes nothing back. -/
theorem AtRest.writeBack (h : AtRest s t c pas) (p : CLine → Bool) : AtRest s (t.writeBack c p) c pas := by
  unfold State.writeBack
  rw [h.cache]
  exact h.store_nil.setCore rfl rfl rfl rfl (.inr (by simp [h.store_nil.cache]))

theorem AtRest.dropLines (h : AtRest s t c pas) (p : CLine → Bool) : AtRest s (t.dropLines c p) c pas :=
  h.setCore rfl rfl rfl rfl (.inr (by simp [h.cache]))

theorem AtRest.cacheRelease (h : AtRest s t c pas) : AtRest s (t.cacheRelease c) c pas := h.writeBack _

theorem AtRest.cacheAcquire (h : AtRest s t c pas) : AtRest s (t.cacheAcquire c) c pas := h.cacheRelease.dropLines _

theorem AtRest.cacheForAtomic (h : AtRest s t c pas) (l : List Nat) : AtRest s (t.cacheForAtomic c l) c pas :=
  List.foldlRecOn (motive := fun u => AtRest s u c pas) l _ h fun _ hu _ _ => (hu.writeBack _).dropLines _

theorem AtRest.fillTlb (h : AtRest s t c pas) (vas : List Nat) : AtRest s (t.fillTlb c vas) c pas := by
  unfold State.fillTlb
  refine List.foldlRecOn (motive := fun u => AtRest s u c pas) vas _ h fun u hu va _ => ?_
  split
  · exact hu
  · dsimp only
    split
    · exact hu.cacheAcquire.setCore rfl rfl rfl rfl (.inl rfl)
    · exact hu.cacheAcquire

/-- Nothing under way comes before an access to these bytes. -/
theorem State.settleBytes_of_noLate (h : NoLate s pas) : s.settleBytes pas = s := by
  refine List.foldlRecOn (motive := fun t : State => t = s) _ _ rfl fun t ht d _ => ?_
  subst ht
  have hnone : ((t.core d).late.filter fun l => !l.runs && l.bytes.any fun x => pas.contains x.1).isEmpty = true := by
    rw [List.isEmpty_iff, List.filter_eq_nil_iff]
    intro l hl
    have hbytes := noLate_iff.mp h d l hl
    cases hr : l.runs with
    | true => simp
    | false => simpa using hbytes hr
  dsimp only
  rw [if_pos hnone]

theorem AtRest.settleBytes (h : AtRest s t c pas) : AtRest s (t.settleBytes pas) c pas := by
  rwa [State.settleBytes_of_noLate h.noLate]

theorem AtRest.inSize (h : AtRest s t c pas) (pa : Nat) : t.inSize pa = s.inSize pa := by
  unfold State.inSize
  split
  · rw [h.split]
  · rfl

end

/-! ## The bytes that a check answers (R140) -/

section
variable {s : State} {c : Nat} {pas : List Nat}

theorem forall_of_find_none {α : Type} {l : List α} {p : α → Bool} (h : (l.find? fun a => !p a) = none) :
    ∀ a ∈ l, p a = true := by
  simpa using h

theorem State.checkPhys_ok {k : AKind} {l : List Nat} (h : s.checkPhys c k l = .ok pas) : ∀ pa ∈ pas, s.ownedBy c pa = true := by
  unfold State.checkPhys at h
  split at h
  · cases h
  · next hown =>
    split at h
    · cases h
    · cases h
      exact forall_of_find_none hown

theorem State.checkVirt_ok {k : AKind} {vas : List Nat} (h : s.checkVirt c k vas = .ok pas) :
    ∀ pa ∈ pas, s.ownedBy c pa = true := by
  unfold State.checkVirt at h
  dsimp only at h
  split at h
  · cases h
  · split at h
    · cases h
    · split at h
      · cases h
      · next hown =>
        split at h
        · cases h
        · cases h
          exact forall_of_find_none hown

theorem State.check_ok {k : AKind} {ea n al : Nat} (h : s.check c k ea n al = .ok pas) : ∀ pa ∈ pas, s.ownedBy c pa = true := by
  unfold State.check at h
  dsimp only at h
  split at h
  · cases h
  · split at h
    · split at h
      · cases h
      · split at h
        · cases h
        · exact State.checkPhys_ok h
    · exact State.checkVirt_ok h

/-- A byte that a partition owns lies within the present size of its role (R219). -/
theorem State.inSize_of_ownedBy {pa : Nat} (h : s.ownedBy c pa = true) : s.inSize pa = true := by
  unfold State.ownedBy State.owned at h
  unfold State.inSize
  split at h
  · split <;> simp_all
  · simp at h

end

/-! ## Performing an atomic (R151, R152) -/

/-- The state in which an atomic reads its element: what comes before it has been made visible. -/
def atomicBefore (s : State) (q : Pend) (w : MWord) (pas : List Nat) : State :=
  let s := s.showBelow q.f w.lsid.toNat (MWord.rel w) pas
  let s := if MWord.rel w && wideScope w.scope.code then s.cacheRelease q.f.core else s
  let s := (s.settleBytes pas).cacheForAtomic q.f.core pas
  s.rememberOld q.f (placeOf q.i) pas

section
variable {s t : State} {q : Pend} {w : MWord} {pas : List Nat}

theorem AtRest.rememberOld {c : Nat} (h : AtRest s t c pas) (f : Firing) (place : Nat) (l : List Nat) :
    AtRest s (t.rememberOld f place l) c pas := by
  unfold State.rememberOld
  split
  · exact h.setCx ..
  · exact h

theorem AtRest.showBelow (h : AtRest s t q.f.core pas) (hs : ∀ i, t.instOf q.f = some i → i.stores = []) (n : Nat)
    (rel : Bool) : AtRest s (t.showBelow q.f n rel pas) q.f.core pas := by
  unfold State.showBelow
  split
  · exact h
  · next i hi =>
    have hshown (p : BStore → Bool) : AtRest s (t.showStores q.f p) q.f.core pas := by
      have hpick : ((List.range 32).flatMap fun k => i.stores.filter fun b => b.lsid == k && !b.shown && p b) = [] := by
        simp [hs i hi]
      unfold State.showStores
      rw [hi]
      dsimp only
      rw [hpick]
      exact h.setCx ..
    dsimp only
    split
    · exact (hshown _).cacheRelease
    · exact hshown _

theorem AtRest.atomicBefore (h : AtRest s t q.f.core pas) (hs : ∀ i, t.instOf q.f = some i → i.stores = []) :
    AtRest s (atomicBefore t q w pas) q.f.core pas := by
  have hshow := h.showBelow hs w.lsid.toNat (MWord.rel w)
  have hrel : AtRest s (if MWord.rel w && wideScope w.scope.code then
      (t.showBelow q.f w.lsid.toNat (MWord.rel w) pas).cacheRelease q.f.core else
      t.showBelow q.f w.lsid.toNat (MWord.rel w) pas) q.f.core pas := by
    split
    · exact hshow.cacheRelease
    · exact hshow
  exact (hrel.settleBytes.cacheForAtomic _).rememberOld ..

/-- What follows the write of an atomic moves no byte of memory. -/
theorem State.atomicStore_mem (c scope : Nat) (rel : Bool) (l : List (Nat × Byte)) :
    (t.atomicStore c scope rel l).mem = Memory.putAll t.mem (l.filter fun x => t.inSize x.1) := by
  unfold State.atomicStore State.noteRelease
  dsimp only
  split <;> rfl

theorem State.atomicStore_cache (c scope : Nat) (rel : Bool) (l : List (Nat × Byte)) (d : Nat) :
    ((t.atomicStore c scope rel l).core d).cache = (t.core d).cache := by
  have hstore : ((t.store l).core d).cache = (t.core d).cache := State.store_cache ..
  unfold State.atomicStore State.noteRelease
  dsimp only
  split <;> exact hstore

theorem State.markLines_cache (l : List Nat) (d : Nat) : ((t.markLines l).core d).cache = (t.core d).cache := by
  unfold State.markLines State.core
  rcases Nat.lt_or_ge d t.cores.length with hd | hd
  · simp [List.getD, List.getElem?_eq_getElem hd]
  · simp [List.getD, List.getElem?_eq_none hd]

theorem State.atomicAcquire_mem_of_empty {c : Nat} (rel : Bool) (hc : c < t.cores.length) (h : (t.core c).cache = []) :
    (t.atomicAcquire c w rel).mem = t.mem := by
  have hacq := (coreKept_cacheAcquire hc h).mem
  unfold State.atomicAcquire State.acquireAt
  split
  · exact hacq
  · split
    · exact hacq
    · rfl

/-- The state after the write of an atomic, before it keeps and emits its result. -/
def atomicAfter (s : State) (c : Nat) (w : MWord) (pas : List Nat) (x : Nat) (released : Bool) : State :=
  ((s.atomicStore c w.scope.code (MWord.rel w) (List.zip pas (natBytes (fmtBytes w.fmt) x))).markLines pas).atomicAcquire c w
    released

theorem atomicAfter_steady (c x : Nat) (rel : Bool) : (atomicAfter t c w pas x rel).steady = t.steady := by simp [atomicAfter]

theorem atomicAfter_mem {c : Nat} (x : Nat) (rel : Bool) (hc : c < t.cores.length) (h : (t.core c).cache = [])
    (hsize : ∀ pa ∈ pas, t.inSize pa = true) :
    (atomicAfter t c w pas x rel).mem = Memory.putAll t.mem (List.zip pas (natBytes (fmtBytes w.fmt) x)) := by
  have hall : (List.zip pas (natBytes (fmtBytes w.fmt) x)).filter (fun x => t.inSize x.1) =
      List.zip pas (natBytes (fmtBytes w.fmt) x) := List.filter_eq_self.mpr fun y hy => hsize _ (List.of_mem_zip hy).1
  unfold atomicAfter
  rw [State.atomicAcquire_mem_of_empty rel]
  · show (State.atomicStore ..).mem = _
    rw [State.atomicStore_mem, hall]
  · rw [cores_length_of_steady (t := State.markLines ..) (s := t) (by simp)]
    exact hc
  · rw [State.markLines_cache, State.atomicStore_cache, h]

theorem State.atomicAct_eq {x res : Nat} (hnew : atomicNew q.i w.ty (8 * fmtBytes w.fmt)
      (bytesToNat (pas.map (Memory.get (atomicBefore t q w pas).mem))) q.f.rval.wide = some (x, res)) :
    ∃ rel, t.atomicAct q w pas =
      ((atomicAfter (atomicBefore t q w pas) q.f.core w pas x rel).keep q.f
        [(.data, atomicVal w.ty (8 * fmtBytes w.fmt) res)]).emitAfter q w.t0 w.t1 .data
          (atomicVal w.ty (8 * fmtBytes w.fmt) res) := by
  unfold State.atomicAct
  unfold atomicBefore at hnew ⊢
  dsimp only at hnew ⊢
  rw [hnew]
  exact ⟨_, rfl⟩

end

end Sys2Proof.Machine
end

section
/-! SUPPORT. The ten atomics (R151-R154). -/

namespace Sys2Proof.Machine

theorem startsAtomic_of {mk : MWord → Instr} (hexec : ∀ w s, exec (mk w) s = startAtomic s (mk w) w) : StartsAtomic mk := by
  intro w s f hr hkept
  obtain ⟨hsel, hf, hd⟩ := hr
  have hrun : exec (mk w) s = match s.adopt (mk w) f with
      | some t => .next (t.countLsid f w.lsid.toNat)
      | none => if !s.portTakes f then .next (s.hold (mk w) f)
        else .next ((s.countLsid f w.lsid.toNat).addPend ⟨mk w, f, .perform, 0⟩) := by
    rw [hexec, startAtomic, withSel_some _ hsel]
    simp only [plan_run hf hd, hkept] <;> rfl
  exact ⟨fun ha hp => by simp [hrun, ha, hp], fun t ha => by simp [hrun, ha]⟩

/-- The result token holds the old element, extended as its type says (R109). -/
theorem atomicVal_eq (ty : RType) (n x : Nat) : atomicVal ty n x = .sc (BitVec.ofInt 64 (toInt n (isSigned ty) x)) := by
  unfold atomicVal toInt scNat
  congr 1
  cases isSigned ty with
  | false => simp
  | true =>
    apply BitVec.eq_of_toNat_eq
    simp [wrap, BitVec.toNat_ofInt]
    omega

section
variable {s : State} {c x k : Nat} {q : Pend} {w : MWord} {pas : List Nat}

theorem execAtomicPerform_ok (hq : (s.cx c x).pend[k]? = some q) (hst : q.st = .perform) (hmw : mwordOf q.i = some w)
    (hmk : memKind q.i = .atomic) (hkv : ∀ v, q.i ≠ .kvapp v)
    (hbefore : s.atomicAllowed q w (MWord.rel w) (s.atomicBytes q) = true) (hwalk : s.walkStalls c (vasOf w q.f) = false)
    (hchk : (s.fillTlb c (vasOf w q.f)).checkMem q.f w .atomic = .ok pas)
    (hallow : s.atomicAllowed q w (MWord.rel w) pas = true) :
    execAtomicPerform c x k s = .next (((s.fillTlb c (vasOf w q.f)).dropPend c x k).atomicAct q w pas) := by
  have hvas : MWord.vas w q.f = vasOf w q.f := rfl
  unfold execAtomicPerform
  rw [hq]
  dsimp only
  rw [hst, hmw, hmk]
  cases hi : q.i
  case kvapp v => exact absurd hi (hkv v)
  all_goals simp [hbefore, hwalk, hvas, hchk, hallow]

/-- The result is sent at the port, but for a squashed one. -/
theorem State.emitAfter_data (t0 t1 : Target) (v : Val) : s.emitAfter q t0 t1 .data v = s.withTokens q.f.core
    (if q.sseq = 1 then [] else sentBy (srcPort q.f.elem) (deliveries s q.f t0 t1 ⟨q.f.tag, .data, v⟩)) := by
  unfold State.emitAfter
  split
  · rw [State.withTokens_nil]
  · exact State.emitFrom_eq _ _ _ _ _ _ (.inl rfl)

theorem State.dropPend_instOf (f : Firing) : (s.dropPend c x k).instOf f = s.instOf f :=
  State.setCx_cx_field (fun v => v.inst f.hdl f.seq) _ _ _ _ _ _ rfl

/-- The ten atomics are performed alike: only the new element and the result differ. -/
theorem performsAtomic_of {mk : MWord → Instr} {op : RType → Nat → Nat → Nat → Nat × Nat}
    (hmw : ∀ w, mwordOf (mk w) = some w) (hmk : ∀ w, memKind (mk w) = .atomic) (hkv : ∀ w v, mk w ≠ .kvapp v)
    (hop : ∀ w ty n m r, atomicNew (mk w) ty n m r = some (op ty n m r)) : PerformsAtomic mk op := by
  intro w s c x k q pas hq hi hst hchk hbefore hallow hwalk hcache hlate hstores
  obtain ⟨hpend, hcore, hctx⟩ := hq
  subst hcore
  have hc := (State.pend_range hpend).1
  dsimp only
  set u := (s.fillTlb q.f.core (vasOf w q.f)).dropPend q.f.core x k with hu
  have hrest : AtRest s u q.f.core pas := ((AtRest.refl hcache hlate).fillTlb _).setCx ..
  have hinst (i : Inst) (hui : u.instOf q.f = some i) : i.stores = [] := by
    rw [hu, State.dropPend_instOf, instOf_of_steady (State.fillTlb_steady ..)] at hui
    exact hstores i hui
  have hb : AtRest s (atomicBefore u q w pas) q.f.core pas := hrest.atomicBefore hinst
  set out := op w.ty (8 * fmtBytes w.fmt) (bytesToNat (pas.map (Memory.get s.mem))) q.f.rval.wide with hout
  obtain ⟨rel, hact⟩ := State.atomicAct_eq (t := u) (q := q) (w := w) (pas := pas) (x := out.1) (res := out.2)
    (by rw [hb.mem, hi]; exact hop ..)
  have hsize : ∀ pa ∈ pas, (atomicBefore u q w pas).inSize pa = true := by
    intro pa hpa
    rw [hb.inSize, ← ((AtRest.refl hcache hlate).fillTlb (vasOf w q.f)).inSize]
    exact State.inSize_of_ownedBy (State.check_ok hchk pa hpa)
  set a := atomicBefore u q w pas with ha
  set v := atomicAfter a q.f.core w pas out.1 rel with hv
  have hvs : v.steady = a.steady := atomicAfter_steady ..
  have hlen : q.f.core < a.cores.length := hb.length ▸ hc
  refine ⟨u.atomicAct q w pas, ?_, ?_, ?_, ?_⟩
  · rw [exec_atomicPerform]
    exact execAtomicPerform_ok hpend hst (hi ▸ hmw w) (hi ▸ hmk w) (hi ▸ hkv w) hbefore hwalk hchk hallow
  · rw [hact, State.emitAfter_mem, State.keep_mem, atomicAfter_mem _ _ hlen hb.cache hsize, hb.mem]
  · rw [hact, State.emitAfter_data, State.withTokens_parts, parts_of_steady (State.keep_steady ..), parts_of_steady hvs,
      hb.parts]
  · have hks := (State.keep_steady v q.f [(.data, atomicVal w.ty (8 * fmtBytes w.fmt) out.2)]).trans hvs
    rw [hact, State.emitAfter_data, deliveries_of_steady hks, deliveries_congr hb.elems, ← atomicVal_eq]
    exact received_withTokens _ (by rwa [cores_length_of_steady hks]) ((fabric_of_steady hks _).trans hb.fabric)

end

/-- Settles O25: the start counts the access, and the action is one write of the checked bytes with one result. -/
theorem atomics : Obligations.Atomics := by
  unfold Obligations.Atomics
  refine ⟨⟨?_, ?_, ?_, ?_, ?_, ?_, ?_, ?_, ?_, ?_⟩, ?_⟩
  · exact startsAtomic_of fun _ _ => rfl
  · exact startsAtomic_of fun _ _ => rfl
  · exact startsAtomic_of fun _ _ => rfl
  · exact startsAtomic_of fun _ _ => rfl
  · exact startsAtomic_of fun _ _ => rfl
  · exact startsAtomic_of fun _ _ => rfl
  · exact startsAtomic_of fun _ _ => rfl
  · exact startsAtomic_of fun _ _ => rfl
  · exact startsAtomic_of fun _ _ => rfl
  · exact startsAtomic_of fun _ _ => rfl
  refine ⟨?aadd, ?aand, ?aor, ?axor, ?axchg, ?acas, ?atset, ?amax, ?amin, ?afadd⟩ <;>
    refine performsAtomic_of (fun _ => rfl) (fun _ => rfl) (by simp) fun w ty n m r => ?_
  case acas => simp [atomicNew, Nat.shiftRight_eq_div_pow]
  case atset =>
    simp only [atomicNew, Nat.shiftRight_eq_div_pow, ← Nat.toNat_testBit]
    cases m.testBit (r % 2 ^ n % n) <;> rfl
  case aadd => simp [atomicNew]
  all_goals rfl

end Sys2Proof.Machine
end

section
/-! SUPPORT. Shootdowns (R159, R242, R385, R391). -/

namespace Sys2Proof.Machine

/-! ## Writes under way only shrink -/

/-- From each place on, every write was there before, with at least its bytes. -/
def LateShrinks (new old : List Late) : Prop :=
  ∀ n, ∀ l ∈ new.drop n, ∃ v ∈ old.drop n, v.runs = l.runs ∧ ∀ b ∈ l.bytes, b ∈ v.bytes

theorem LateShrinks.refl (l : List Late) : LateShrinks l l := fun _ w hw => ⟨w, hw, rfl, fun _ hb => hb⟩

theorem LateShrinks.trans {a b c : List Late} (h : LateShrinks a b) (h' : LateShrinks b c) : LateShrinks a c := by
  intro n l hl
  obtain ⟨v, hv, hvr, hvb⟩ := h n l hl
  obtain ⟨w, hw, hwr, hwb⟩ := h' n v hv
  exact ⟨w, hw, hwr.trans hvr, fun b hb => hwb b (hvb b hb)⟩

theorem LateShrinks.filterMap {f : Late → Option Late}
    (hf : ∀ v l, f v = some l → v.runs = l.runs ∧ ∀ b ∈ l.bytes, b ∈ v.bytes) (old : List Late) :
    LateShrinks (old.filterMap f) old := by
  induction old with
  | nil => exact .refl []
  | cons v old ih =>
    intro n l hl
    cases hv : f v with
    | none =>
      rw [List.filterMap_cons_none hv] at hl
      obtain ⟨w, hw, hrest⟩ := ih n l hl
      refine ⟨w, ?_, hrest⟩
      cases n with
      | zero => exact List.mem_cons_of_mem _ (by simpa using hw)
      | succ n =>
        rw [List.drop_succ_cons]
        exact List.mem_of_mem_drop (by rwa [List.drop_drop] : w ∈ (old.drop n).drop 1)
    | some u =>
      rw [List.filterMap_cons_some hv] at hl
      cases n with
      | zero =>
        rcases List.mem_cons.mp hl with rfl | hl
        · exact ⟨v, List.mem_cons_self, hf v _ hv⟩
        · obtain ⟨w, hw, hrest⟩ := ih 0 l hl
          exact ⟨w, List.mem_cons_of_mem _ hw, hrest⟩
      | succ n => exact ih n l hl

theorem Core.overtaken_shrinks (k : Core) (l : List (Nat × Byte)) : LateShrinks (k.overtaken l) k.late := by
  refine .filterMap (fun v w h => ?_) _
  split at h
  · cases h
    exact ⟨rfl, fun _ hb => hb⟩
  · obtain ⟨rfl, -⟩ := Late.without_some h
    exact ⟨rfl, fun _ hb => (List.mem_filter.mp hb).1⟩

section
variable (s : State) (c : Nat)

theorem State.store_shrinks (l : List (Nat × Byte)) (z : List Nat) :
    LateShrinks ((s.store l z).core c).late (s.core c).late := by
  rcases Nat.lt_or_ge c s.cores.length with hc | hc
  · rw [State.store_core _ _ _ hc]
    exact Core.overtaken_shrinks _ _
  · rw [State.late_absent hc, State.late_absent (by simpa)]
    exact .refl []

theorem State.setCore_cache_late (d : Nat) (l : List CLine) :
    ((s.setCore d { s.core d with cache := l }).core c).late = (s.core c).late := State.setCore_core_field Core.late _ _ _ _ rfl

theorem State.cachePut_late (d : Nat) (l : List (Nat × Byte)) (b : Bool) : ((s.cachePut d l b).core c).late = (s.core c).late := by
  unfold State.cachePut
  dsimp only
  split
  · rfl
  · exact State.setCore_cache_late ..

theorem State.lateOut_shrinks (d : Nat) (l : Late) (p : Nat → Bool) :
    LateShrinks ((s.lateOut d l p).core c).late (s.core c).late := by
  unfold State.lateOut State.storeIsland
  rw [State.cachePut_late]
  exact State.store_shrinks _ _ _ _

theorem State.writeBack_shrinks (d : Nat) (p : CLine → Bool) :
    LateShrinks ((s.writeBack d p).core c).late (s.core c).late := by
  unfold State.writeBack
  dsimp only
  rw [State.setCore_cache_late]
  exact State.store_shrinks _ _ _ _

/-- What one write has left after some of its bytes are made. -/
def lateLeft (l : List Late) (n : Nat) (w : Late) (p : Nat → Bool) : List Late :=
  match w.without p with
  | some r => l.set n r
  | none => l.eraseIdx n

theorem State.lateWrite_eq {n : Nat} {w : Late} (p : Nat → Bool) (hw : (s.core c).late[n]? = some w) :
    s.lateWrite c n p = (s.setCore c { s.core c with late := lateLeft (s.core c).late n w p }).lateOut c w p := by
  unfold State.lateWrite lateLeft
  dsimp only
  rw [hw] <;> rfl

end

/-! ## A core that has settled -/

/-- A write of a completed command is not to these bytes. -/
def Late.clear (p : Nat → Bool) (l : Late) : Prop := l.runs = false → ∀ b ∈ l.bytes, p b.1 = false

theorem LateShrinks.clear {p : Nat → Bool} {new old : List Late} (h : LateShrinks new old) {n : Nat}
    (hold : ∀ l ∈ old.drop n, l.clear p) : ∀ l ∈ new.drop n, l.clear p := by
  intro l hl hr b hb
  obtain ⟨v, hv, hvr, hvb⟩ := h n l hl
  exact hold v hv (hvr.trans hr) b (hvb b hb)

theorem LateShrinks.clear_all {p : Nat → Bool} {new old : List Late} (h : LateShrinks new old) (hold : ∀ l ∈ old, l.clear p) :
    ∀ l ∈ new, l.clear p := by
  simpa using h.clear (n := 0) (by simpa using hold)

/-- One write less, the writes from its place on are clear. -/
theorem lateLeft_clear {p : Nat → Bool} {l : List Late} {n : Nat} (w : Late) (h : ∀ v ∈ l.drop (n + 1), v.clear p) :
    ∀ v ∈ (lateLeft l n w p).drop n, v.clear p := by
  unfold lateLeft
  split
  · next r hr =>
    intro v hv
    obtain ⟨rfl, -⟩ := Late.without_some hr
    rcases Nat.lt_or_ge n l.length with hn | hn
    · rw [List.set_eq_take_append_cons_drop, if_pos hn, List.drop_left' (by simp; omega)] at hv
      rcases List.mem_cons.mp hv with rfl | hv
      · intro _ b hb
        simpa using (List.mem_filter.mp hb).2
      · exact h v hv
    · simp [List.drop_eq_nil_of_le, hn] at hv
  · intro v hv
    rw [List.eraseIdx_eq_take_drop_succ] at hv
    rcases Nat.lt_or_ge n l.length with hn | hn
    · rw [List.drop_left' (by simp; omega)] at hv
      exact h v hv
    · rw [List.drop_eq_nil_of_le (by simp; omega)] at hv
      exact absurd hv (by simp)

section
variable {s : State} {c n : Nat} {p : Nat → Bool}

theorem State.lateWrite_clear {w : Late} (hw : (s.core c).late[n]? = some w) (hc : c < s.cores.length)
    (h : ∀ v ∈ (s.core c).late.drop (n + 1), v.clear p) : ∀ v ∈ ((s.lateWrite c n p).core c).late.drop n, v.clear p := by
  rw [State.lateWrite_eq _ _ _ hw]
  refine (State.lateOut_shrinks _ _ _ _ _).clear ?_
  rw [State.core_setCore_self _ _ _ hc]
  exact lateLeft_clear w h

/-- The writes under way of a core after those of completed commands have been made from the last on. -/
theorem settled_late_clear (hc : c < s.cores.length) :
    ∀ v ∈ (((downTo (s.core c).late.length).foldl (fun s n =>
      if ((s.core c).late[n]?).any (!·.runs) then s.lateWrite c n p else s) s).core c).late, v.clear p := by
  suffices h : ∀ n (t : State), c < t.cores.length → (∀ v ∈ (t.core c).late.drop n, v.clear p) →
      ∀ v ∈ (((downTo n).foldl (fun s n => if ((s.core c).late[n]?).any (!·.runs) then s.lateWrite c n p else s) t).core c).late,
        v.clear p from h _ s hc (by simp)
  intro n
  induction n with
  | zero => exact fun t _ ht => by simpa [downTo] using ht
  | succ n ih =>
    intro t hct ht
    have hdown : downTo (n + 1) = n :: downTo n := by simp [downTo, List.range_succ]
    rw [hdown, List.foldl_cons]
    cases hn : (t.core c).late[n]? with
    | none =>
      have hlen := List.getElem?_eq_none_iff.mp hn
      simp only [Option.any_none, Bool.false_eq_true, if_false]
      exact ih t hct (by simp [List.drop_eq_nil_of_le hlen])
    | some w =>
      cases hr : w.runs with
      | true =>
        simp only [Option.any_some, hr, Bool.not_true, Bool.false_eq_true, if_false]
        refine ih t hct fun v hv => ?_
        obtain ⟨hlen, hget⟩ := List.getElem?_eq_some_iff.mp hn
        rw [List.drop_eq_getElem_cons hlen, hget] at hv
        rcases List.mem_cons.mp hv with rfl | hv
        · exact fun h => absurd (hr.symm.trans h) (by simp)
        · exact ht v hv
      | false =>
        simp only [Option.any_some, hr, Bool.not_false, if_true]
        exact ih _ (by rwa [cores_length_of_steady (State.lateWrite_steady ..)]) (State.lateWrite_clear hn hct ht)

end

/-- No dirty byte and no write of a completed command of a core is under a translation that it removed. -/
def ShootDone (s : State) (h : Shoot) (c : Nat) : Prop :=
  (∀ l ∈ (s.core c).cache, ∀ b ∈ l.dirtyBytes, h.covers c b.1 = false) ∧ ∀ l ∈ (s.core c).late, l.clear (h.covers c)

section
variable {s : State} {h : Shoot} {c d : Nat}

theorem shootDone_absent (hc : s.cores.length ≤ c) : ShootDone s h c := by
  have hcore : s.core c = Core.reset := List.getD_eq_default _ _ hc
  rw [ShootDone, hcore]
  exact ⟨fun l hl => absurd hl (by simp [Core.reset]), fun l hl => absurd hl (by simp [Core.reset])⟩

theorem CLine.dirtyBytes_clean (l : CLine) : ({ l with dirty := 0 } : CLine).dirtyBytes = [] := by
  simp [CLine.dirtyBytes, bit]

theorem State.shootSettle_length : (s.shootSettle h d).cores.length = s.cores.length := by
  refine cores_length_of_steady ?_
  unfold State.shootSettle
  rw [State.writeBack_steady]
  refine foldl_steady fun t n => ?_
  split
  · exact State.lateWrite_steady ..
  · rfl

theorem State.shootSettle_parts : (s.shootSettle h d).parts = s.parts := by
  refine parts_of_steady ?_
  unfold State.shootSettle
  rw [State.writeBack_steady]
  refine foldl_steady fun t n => ?_
  split
  · exact State.lateWrite_steady ..
  · rfl

theorem shootSettle_done : ShootDone (s.shootSettle h c) h c := by
  rcases Nat.lt_or_ge c s.cores.length with hc | hc
  · have hlate := settled_late_clear (p := h.covers c) hc
    unfold State.shootSettle
    dsimp only
    generalize hu : ((downTo (s.core c).late.length).foldl (fun s n =>
      if ((s.core c).late[n]?).any (!·.runs) then s.lateWrite c n (h.covers c) else s) s) = u at hlate
    have hlen : c < u.cores.length := by
      have := State.shootSettle_length (s := s) (h := h) (d := c)
      unfold State.shootSettle at this
      dsimp only at this
      rw [hu, cores_length_of_steady (State.writeBack_steady ..)] at this
      omega
    refine ⟨?_, (State.writeBack_shrinks _ _ _ _).clear_all hlate⟩
    unfold State.writeBack
    dsimp only
    rw [State.core_setCore_self _ _ _ (by simpa)]
    intro l hl b hb
    obtain ⟨m, -, rfl⟩ := List.mem_map.mp hl
    split at hb
    · rw [CLine.dirtyBytes_clean] at hb
      exact absurd hb (by simp)
    · next hp => simpa using fun hcov => hp (List.any_eq_true.mpr ⟨b, hb, hcov⟩)
  · exact shootDone_absent (by rwa [State.shootSettle_length])

theorem State.lateWrite_shrinks (n : Nat) (p : Nat → Bool) (hd : d ≠ c) :
    LateShrinks ((s.lateWrite d n p).core c).late (s.core c).late ∧ ((s.lateWrite d n p).core c).cache = (s.core c).cache := by
  cases hn : (s.core d).late[n]? with
  | none => simp [State.lateWrite, hn, LateShrinks.refl]
  | some w =>
    rw [State.lateWrite_eq _ _ _ hn]
    set u := s.setCore d { s.core d with late := lateLeft (s.core d).late n w p } with hu
    have hcore : u.core c = s.core c := State.core_setCore_ne _ _ _ _ hd
    refine ⟨hcore ▸ State.lateOut_shrinks u c d w p, ?_⟩
    unfold State.lateOut State.storeIsland State.cachePut
    dsimp only
    split
    · rw [State.store_cache, hcore]
    · rw [State.core_setCore_ne _ _ _ _ hd, State.store_cache, hcore]

theorem ShootDone.shootSettle (hs : ShootDone s h c) : ShootDone (s.shootSettle h d) h c := by
  by_cases hd : d = c
  · exact hd ▸ shootSettle_done
  · have hkeep (t : State) (ht : ShootDone t h c) (n : Nat) : ShootDone (t.lateWrite d n (h.covers d)) h c := by
      obtain ⟨hlate, hcache⟩ := t.lateWrite_shrinks (c := c) n (h.covers d) hd
      exact ⟨hcache ▸ ht.1, hlate.clear_all ht.2⟩
    unfold State.shootSettle
    dsimp only
    have hfold := List.foldlRecOn (motive := fun t => ShootDone t h c) (downTo (s.core d).late.length) (fun s n =>
      if ((s.core d).late[n]?).any (!·.runs) then s.lateWrite d n (h.covers d) else s) hs fun t ht n _ => by
        split
        · exact hkeep t ht n
        · exact ht
    revert hfold
    generalize List.foldl (fun s n =>
      if ((s.core d).late[n]?).any (!·.runs) then s.lateWrite d n (h.covers d) else s) s (downTo (s.core d).late.length) = u
    intro hfold
    refine ⟨?_, (u.writeBack_shrinks c d _).clear_all hfold.2⟩
    have hcache : ((u.writeBack d fun l => l.dirtyBytes.any fun x => h.covers d x.1).core c).cache = (u.core c).cache := by
      unfold State.writeBack
      dsimp only
      rw [State.core_setCore_ne _ _ _ _ hd, State.store_cache]
    exact hcache ▸ hfold.1

theorem shootDone_all {l : List Nat} (hc : c ∈ l ∨ ShootDone s h c) : ShootDone (l.foldl (fun s c => s.shootSettle h c) s) h c := by
  induction l generalizing s with
  | nil => exact hc.resolve_left (by simp)
  | cons d l ih =>
    refine ih ?_
    rcases hc with hc | hc
    · rcases List.mem_cons.mp hc with rfl | hc
      · exact .inr shootSettle_done
      · exact .inl hc
    · exact .inr hc.shootSettle

end

/-! ## The three commands -/

theorem State.setPart_absent {s : State} {p : Nat} (v : Part) (h : s.parts.length ≤ p) : s.setPart p v = s := by
  simp [State.setPart, set_of_length_le _ _ _ h]

theorem refuseWrite_refused (s : State) (p pa : Nat) : Refused s (.next (s.refuseWrite p pa)) := by
  refine ⟨_, rfl, rfl, rfl, rfl, fun q => ?_⟩
  unfold State.refuseWrite State.logViolation
  dsimp only
  by_cases h : p = q
  · subst h
    rcases Nat.lt_or_ge p s.parts.length with hp | hp
    · rw [State.part_setPart_self _ _ _ hp]
      exact ⟨rfl, rfl, rfl⟩
    · rw [State.setPart_absent _ hp]
      exact ⟨rfl, rfl, rfl⟩
  · rw [State.part_setPart_ne _ _ _ _ h]
    exact ⟨rfl, rfl, rfl⟩

theorem partShoot_rule (s : State) (cc p : Nat) (value : Word) :
    ((s.ccOwns cc p = false ∨ bits value 1 0 = 3) → Refused s (exec (.partShoot cc p value) s)) ∧
    (s.ccOwns cc p = true → bits value 1 0 ≠ 3 →
      let size := if bits value 1 0 = 0 then 2 ^ 16 else if bits value 1 0 = 1 then 2 ^ 21 else 2 ^ 30
      exec (.partShoot cc p value) s = .next (s.setPart p { s.part p with shoots := (s.part p).shoots ++
        [⟨value.toNat / size * size, size, if (s.part p).shoots.isEmpty then (s.part p).coreList else [], [], []⟩] })) := by
  rw [exec_partShoot]
  unfold execPartShoot
  refine ⟨fun h => ?_, fun ho hv => ?_⟩
  · have hrefuse : (!s.ccOwns cc p || decide (bits value 1 0 = 3)) = true := by
      rcases h with h | h <;> simp [h]
    rw [if_pos (by simpa using hrefuse)]
    exact refuseWrite_refused ..
  · have hno : (!s.ccOwns cc p || decide (bits value 1 0 = 3)) = false := by simp [ho, hv]
    rw [hno]
    rfl

/-- Does a removed page overlap the page of a translation? -/
def Shoot.hits (h : Shoot) (e : TlbE) : Bool := e.vbase < h.base + h.size && h.base < e.vbase + e.size

/-- What a shootdown records of a core that has done it. -/
def shootNoted (s : State) (c : Nat) (h : Shoot) : Shoot :=
  let gone := ((s.core c).tlb ++ (s.core c).spent).filter h.hits
  { h with left := h.left.filter (· != c)
           drain := h.drain ++ ((s.checkedAccs c).filter fun a => coversPa gone a.2).map (·.1)
           gone := h.gone ++ gone.map fun e => (c, e) }

/-- A core after it has removed the translations of a page. -/
def coreShot (k : Core) (h : Shoot) : Core :=
  { k with tlb := k.tlb.filter fun e => !h.hits e, spent := k.spent.filter fun e => !h.hits e, xgen := k.xgen + 1 }

/-- The shootdowns that are left when one has ended: the next begins with the cores that the partition has then. -/
def nextShoots (cores : List Nat) : List Shoot → List Shoot
  | [] => []
  | g :: gs => { g with left := cores } :: gs

section
variable {s : State} {c p : Nat} {h : Shoot} {rest : List Shoot}

theorem execShootdown_eq (hp : p < 8) (hs : (s.part p).shoots = h :: rest) (hc : c ∈ h.left)
    (hbefore : ∀ q, q < p → ∀ g l, (s.part q).shoots = g :: l → c ∉ g.left) :
    execShootdown c s = if s.streamHolds c h.base h.size then .next s else
      .next ((s.setCore c (coreShot (s.core c) h)).setPart p { s.part p with shoots := shootNoted s c h :: rest }) := by
  have hfind : ((List.range 8).find? fun p => match (s.part p).shoots with
      | h :: _ => h.left.contains c
      | [] => false) = some p := by
    rw [List.find?_range_eq_some]
    refine ⟨by simpa [hs] using hc, by simpa using hp, fun q hq => ?_⟩
    cases hqs : (s.part q).shoots with
    | nil => rfl
    | cons g l => simpa using hbefore q hq g l hqs
  unfold execShootdown
  split
  · next hnone => exact absurd (hfind.symm.trans hnone) (by simp)
  · next q hsome =>
    obtain rfl : p = q := Option.some.inj (hfind.symm.trans hsome)
    simp only [hs]
    rfl

/-- A load that was checked under a translation that is removed is among the accesses that the shootdown waits for. -/
theorem mem_shootNoted_drain {x k : Nat} {q : Pend} {pas : List Nat} {gs : List (Nat × Byte)} {e : TlbE} {pa : Nat}
    (hq : (s.cx c x).pend[k]? = some q) (hst : q.st = .load pas gs) (he : e ∈ (s.core c).tlb) (hhit : h.hits e = true)
    (hpa : pa ∈ pas) (hlo : e.pbase ≤ pa) (hhi : pa < e.pbase + e.size) (hx : x < (s.core c).cxs.length) :
    (⟨c, q.f.ctx, q.f.hdl, q.f.seq⟩, q.f.idx) ∈ (shootNoted s c h).drain := by
  have hcx : s.cx c x ∈ (s.core c).cxs := by
    rw [State.cx, List.getD_eq_getElem _ _ hx]
    exact List.getElem_mem hx
  refine List.mem_append_right _ (List.mem_map.mpr ⟨((⟨c, q.f.ctx, q.f.hdl, q.f.seq⟩, q.f.idx), pas),
    List.mem_filter.mpr ⟨?_, ?_⟩, rfl⟩)
  · refine List.mem_append_left _ (List.mem_append_left _ (List.mem_flatMap.mpr ⟨_, hcx, List.mem_filterMap.mpr
      ⟨q, List.mem_of_getElem? hq, ?_⟩⟩))
    rw [hst]
  · exact List.any_eq_true.mpr ⟨e, List.mem_filter.mpr ⟨List.mem_append_left _ he, hhit⟩,
      List.any_eq_true.mpr ⟨pa, hpa, by simp [hlo, hhi]⟩⟩

theorem execShootdownComplete_done (hs : (s.part p).shoots = h :: rest) (hleft : h.left = []) (hdrain : h.drain = [])
    (hlinks : ∀ l ∈ s.links, l.failed = false) :
    execShootdownComplete p s = .next (((h.gone.map (·.1)).eraseDups.foldl (fun s c => s.shootSettle h c) s).setPart p
      { s.part p with shoots := nextShoots (s.part p).coreList rest }) := by
  have hup : s.links.any (·.failed) = false := List.any_eq_false.mpr fun l hl => by simp [hlinks l hl]
  unfold execShootdownComplete
  simp only [hs, hleft, hdrain, hup, List.isEmpty_nil, List.any_nil, Bool.false_and, Bool.not_false, Bool.and_self, if_true]
  cases rest <;> rfl

theorem shootdown_rule (hp : p < 8) (hpl : p < s.parts.length) (hcl : c < s.cores.length) (hs : (s.part p).shoots = h :: rest)
    (hc : c ∈ h.left) (hbefore : ∀ q, q < p → ∀ g l, (s.part q).shoots = g :: l → c ∉ g.left)
    (hstream : s.streamHolds c h.base h.size = false) :
    ∃ t : State, exec (.shootdown c) s = .next t ∧ t.mem = s.mem ∧ t.core c = coreShot (s.core c) h ∧
      (t.part p).shoots = shootNoted s c h :: rest := by
  refine ⟨_, ((exec_shootdown c s).trans (execShootdown_eq hp hs hc hbefore)).trans (if_neg (by simp [hstream])), rfl, ?_, ?_⟩
  · rw [State.core_setPart, State.core_setCore_self _ _ _ hcl]
  · rw [State.part_setPart_self (s.setCore c _) _ _ hpl]

theorem shootdownComplete_done (hs : (s.part p).shoots = h :: rest) (hleft : h.left = []) (hdrain : h.drain = [])
    (hlinks : ∀ l ∈ s.links, l.failed = false) :
    ∃ t : State, exec (.shootdownComplete p) s = .next t ∧ (h.gone = [] → t.mem = s.mem) ∧
      (t.part p).shoots = nextShoots (s.part p).coreList rest ∧ ∀ c ∈ h.gone.map (·.1), ShootDone t h c := by
  set u := (h.gone.map (·.1)).eraseDups.foldl (fun s c => s.shootSettle h c) s with hu
  have hparts : u.parts = s.parts := List.foldlRecOn (motive := fun t : State => t.parts = s.parts) _ _ rfl
    fun t ht c _ => State.shootSettle_parts.trans ht
  have hpl : p < s.parts.length := by
    by_contra hge
    have hreset : s.part p = Part.reset := List.getD_eq_default _ _ (by omega)
    rw [hreset] at hs
    exact absurd hs (by simp [Part.reset])
  refine ⟨_, (exec_shootdownComplete ..).trans (execShootdownComplete_done hs hleft hdrain hlinks), fun hgone => ?_, ?_,
    fun c hc => ?_⟩
  · rw [hgone]
    rfl
  · rw [State.part_setPart_self _ _ _ (hparts ▸ hpl)]
  · have hdone : ShootDone u h c := shootDone_all (.inl (List.mem_eraseDups.mpr hc))
    exact hdone

end

/-- Settles O49: the page is entered, each core removes its translations, and the end leaves nothing written under them. -/
theorem shootdowns : Obligations.Shootdowns := by
  unfold Obligations.Shootdowns
  refine ⟨partShoot_rule, fun s c p h rest hp hpl hcl hs hc hbefore => ⟨fun hstream => ?_, fun hstream => ?_⟩,
    fun s p h rest hs => ⟨fun hleft => ?_, fun hleft hdrain hlinks => ?_⟩⟩
  · rw [exec_shootdown, execShootdown_eq hp hs hc hbefore, hstream]
    rfl
  · obtain ⟨t, hexec, hmem, hcore, hshoots⟩ := shootdown_rule hp hpl hcl hs hc hbefore hstream
    have hhit {e : TlbE} (hlo : e.vbase < h.base + h.size) (hhi : h.base < e.vbase + e.size) : h.hits e = true := by
      simp [Shoot.hits, hlo, hhi]
    refine ⟨t, shootNoted s c h, hexec, hmem, by rw [hcore]; rfl, ?_, hshoots, rfl, rfl, rfl,
      fun d hd => List.mem_append_left _ hd, fun e he hlo hhi => ?_, ?_⟩
    · rw [hcore]
      refine List.filter_congr fun e _ => ?_
      rw [Bool.eq_iff_iff]
      simp only [Shoot.hits, Bool.not_eq_true', Bool.and_eq_false_iff, Bool.or_eq_true, decide_eq_false_iff_not,
        decide_eq_true_eq, not_lt]
    · exact List.mem_append_right _ (List.mem_map.mpr
        ⟨e, List.mem_filter.mpr ⟨List.mem_append_left _ he, hhit hlo hhi⟩, rfl⟩)
    · exact fun x k q pas gs e pa hq hst he hlo hhi hpa hplo hphi hx =>
        mem_shootNoted_drain hq hst he (hhit hlo hhi) hpa hplo hphi hx
  · have hne : h.left.isEmpty = false := by simpa using hleft
    rw [exec_shootdownComplete]
    simp [execShootdownComplete, hs, hne]
  · obtain ⟨t, hexec, hmem, hshoots, hdone⟩ := shootdownComplete_done hs hleft hdrain hlinks
    refine ⟨t, hexec, hmem, fun hrest => by rw [hshoots, hrest]; rfl, fun g l hrest => by rw [hshoots, hrest]; rfl,
      fun c e he pa hlo hhi => ?_⟩
    obtain ⟨hcache, hlate⟩ := hdone c (List.mem_map.mpr ⟨_, he, rfl⟩)
    have hcov : h.covers c pa = true := List.any_eq_true.mpr ⟨_, he, by simp [hlo, hhi]⟩
    refine ⟨fun l hl b hb hpa => ?_, fun l hl hr b hb hpa => ?_⟩
    · exact absurd ((hcache l hl b hb).symm.trans (hpa ▸ hcov)) (by simp)
    · exact absurd ((hlate l hl hr b hb).symm.trans (hpa ▸ hcov)) (by simp)

end Sys2Proof.Machine
end

section
/-! SUPPORT. Completion of engine commands (R167, R238, R320). -/

namespace Sys2Proof.Machine

/-- What a step of an engine leaves alone while it sends and completes: memory, partitions, elements and commands of core `c`;
CACHE stays without dirty bytes. -/
structure EngineKept (s t : State) (c : Nat) : Prop where
  store : SameStore s t
  length : t.cores.length = s.cores.length
  elems : (t.core c).elems = (s.core c).elems
  cmds : (t.core c).cmds = (s.core c).cmds
  tags : (t.core c).ctags.length = (s.core c).ctags.length
  clean : NoDirty s c → NoDirty t c

section
variable {s t u : State} {c : Nat}

theorem EngineKept.refl (s : State) (c : Nat) : EngineKept s s c := ⟨⟨rfl, rfl⟩, rfl, rfl, rfl, rfl, id⟩

theorem EngineKept.trans (h : EngineKept s t c) (h' : EngineKept t u c) : EngineKept s u c where
  store := ⟨h'.store.1.trans h.store.1, h'.store.2.trans h.store.2⟩
  length := h'.length.trans h.length
  elems := h'.elems.trans h.elems
  cmds := h'.cmds.trans h.cmds
  tags := h'.tags.trans h.tags
  clean hs := h'.clean (h.clean hs)

theorem EngineKept.withTokens (d : Nat) (l : List Flight) : EngineKept s (s.withTokens d l) c where
  store := ⟨rfl, rfl⟩
  length := by simp
  elems := State.withTokens_core_field Core.elems (fun _ _ => rfl) ..
  cmds := by simp
  tags := by simp
  clean hs := by simpa [NoDirty] using hs

theorem EngineKept.setCx (d x : Nat) (v : Ctx) : EngineKept s (s.setCx d x v) c where
  store := ⟨rfl, rfl⟩
  length := by simp
  elems := State.setCx_core_field Core.elems (fun _ _ => rfl) ..
  cmds := State.setCx_core_field Core.cmds (fun _ _ => rfl) ..
  tags := State.setCx_core_field (·.ctags.length) (fun _ _ => rfl) ..
  clean hs := by rwa [NoDirty, State.setCx_core_field Core.cache fun _ _ => rfl]

theorem EngineKept.keep (f : Firing) (l : List (Kind × Val)) : EngineKept s (s.keep f l) c := by
  unfold State.keep
  dsimp only
  split
  · exact .refl s c
  · exact .setCx ..

/-! ## The release of a completion -/

theorem CLine.dirtyBytes_of_clean {l : CLine} (h : l.dirty = 0) : l.dirtyBytes = [] := by simp [CLine.dirtyBytes, h, bit]

/-- A release that finds no dirty byte changes no memory. -/
theorem EngineKept.cacheRelease (h : NoDirty s c) : EngineKept s (s.cacheRelease c) c := by
  have hsteady : (s.cacheRelease c).steady = s.steady := State.cacheRelease_steady ..
  have hout : (((s.core c).cache.filter fun _ => true).flatMap CLine.dirtyBytes) = [] := by
    rw [List.flatMap_eq_nil_iff]
    exact fun l hl => CLine.dirtyBytes_of_clean (h l (List.mem_filter.mp hl).1)
  refine ⟨⟨?_, parts_of_steady hsteady⟩, cores_length_of_steady hsteady, elems_of_steady hsteady c, cmds_of_steady hsteady c,
    congrArg _ (ctags_of_steady hsteady c), fun _ => ?_⟩
  · unfold State.cacheRelease State.writeBack
    rw [hout]
    rfl
  · unfold State.cacheRelease State.writeBack NoDirty
    rw [hout]
    intro l hl
    rcases Nat.lt_or_ge c s.cores.length with hc | hc
    · rw [State.core_setCore_self _ _ _ (by simpa)] at hl
      obtain ⟨m, -, rfl⟩ := List.mem_map.mp hl
      simp
    · rw [State.setCore_absent _ _ _ (by simpa), State.store_cache] at hl
      exact h l hl

theorem EngineKept.releaseAt {scope : Nat} (h : scope < 2 ∨ NoDirty s c) : EngineKept s (s.releaseAt c scope) c := by
  unfold State.releaseAt
  split
  · next hw =>
    have hscope : 2 ≤ scope := of_decide_eq_true hw
    exact .cacheRelease (h.resolve_left (by omega))
  · exact .refl s c

theorem State.releaseAt_core_field {α : Type} (g : Core → α) (hg : ∀ k : Core, g k.steady = g k) (scope d : Nat) :
    g ((s.releaseAt c scope).core d) = g (s.core d) := core_of_steady (State.releaseAt_steady ..) g hg d

/-! ## Tags -/

theorem State.ctag_setCtag_self {n : Nat} (v : Ctag) (hc : c < s.cores.length) (hn : n < (s.core c).ctags.length) :
    ((s.setCtag c n v).core c).ctag n = v := by
  unfold State.setCtag Core.ctag
  rw [State.core_setCore_self _ _ _ hc]
  simp [hn]

theorem State.ctag_setCtag_ne {n m : Nat} (v : Ctag) (h : n ≠ m) :
    ((s.setCtag c n v).core c).ctag m = (s.core c).ctag m := by
  unfold State.setCtag Core.ctag
  rcases Nat.lt_or_ge c s.cores.length with hc | hc
  · rw [State.core_setCore_self _ _ _ hc]
    simp [List.getD_eq_getElem?_getD, List.getElem?_set_ne h]
  · rw [State.setCore_absent _ _ _ hc]

theorem State.setCtag_core_field {α : Type} (g : Core → α) (hg : ∀ k l, g { k with ctags := l } = g k) (n : Nat) (v : Ctag)
    (d : Nat) : g ((s.setCtag c n v).core d) = g (s.core d) := State.setCore_core_field g _ _ _ _ (hg _ _)

theorem EngineKept.setCtag (n : Nat) (v : Ctag) : EngineKept s (s.setCtag c n v) c where
  store := ⟨rfl, rfl⟩
  length := by simp [State.setCtag]
  elems := State.setCore_core_field Core.elems _ _ _ _ rfl
  cmds := State.setCore_core_field Core.cmds _ _ _ _ rfl
  tags := State.setCore_core_field (·.ctags.length) _ _ _ _ (by simp)
  clean hs := by rwa [NoDirty, State.setCtag_core_field Core.cache fun _ _ => rfl]

theorem EngineKept.finishTag (tag : Option Nat) (mark : Mark) : EngineKept s (s.finishTag c tag mark) c := by
  cases tag with
  | none => exact .refl s c
  | some n => exact .setCtag ..

theorem State.finishTag_core_field {α : Type} (g : Core → α) (hg : ∀ k l, g { k with ctags := l } = g k) (tag : Option Nat)
    (mark : Mark) (d : Nat) : g ((s.finishTag c tag mark).core d) = g (s.core d) := by
  cases tag with
  | none => rfl
  | some n => exact State.setCtag_core_field g hg ..

/-- The tag of a command that ends is DONE with its mark. -/
theorem State.finishTag_done {n : Nat} (mark : Mark) (hc : c < s.cores.length) (hn : n < (s.core c).ctags.length) :
    (((s.finishTag c (some n) mark).core c).ctag n).st = .done ∧ (((s.finishTag c (some n) mark).core c).ctag n).mark = mark := by
  simp [State.finishTag, State.ctag_setCtag_self _ hc hn]

/-- Another command's tag stays DONE and unmarked. -/
theorem TagDone.finishTag {m : Cmd} (h : TagDone s c m) (tag : Option Nat) : TagDone (s.finishTag c tag .none) c m := by
  intro n hn hm
  obtain ⟨hst, hmark⟩ := h n hn hm
  cases tag with
  | none => exact ⟨hst, hmark⟩
  | some k =>
    by_cases hk : k = n
    · subst hk
      rcases Nat.lt_or_ge c s.cores.length with hc | hc
      · rcases Nat.lt_or_ge k (s.core c).ctags.length with hl | hl
        · exact State.finishTag_done _ hc hl
        · unfold State.finishTag State.setCtag
          dsimp only
          rw [set_of_length_le _ _ _ hl, State.setCore_core]
          exact ⟨hst, hmark⟩
      · unfold State.finishTag State.setCtag
        dsimp only
        rw [State.setCore_absent _ _ _ hc]
        exact ⟨hst, hmark⟩
    · rw [State.finishTag, State.ctag_setCtag_ne _ hk]
      exact ⟨hst, hmark⟩

theorem TagDone.of_ctags {m : Cmd} (h : TagDone s c m) (ht : (t.core c).ctags = (s.core c).ctags) : TagDone t c m := by
  simpa only [TagDone, Core.ctag, ht] using h

/-! ## Completion -/

section
variable {m : Cmd} {mark : Mark}

theorem EngineKept.complete (h : m.scope < 2 ∨ NoDirty s c) : EngineKept s (s.complete c m mark) c :=
  (EngineKept.releaseAt h).trans (.finishTag ..)

theorem State.complete_fabric : ((s.complete c m mark).core c).fabric = (s.core c).fabric := by
  unfold State.complete
  rw [State.finishTag_core_field Core.fabric fun _ _ => rfl, State.releaseAt_core_field Core.fabric fun _ => rfl]

theorem State.complete_tagDone (hc : c < s.cores.length) (hl : (s.core c).ctags.length = 64) :
    TagDone (s.complete c m .none) c m := by
  intro n hn hm
  unfold State.complete
  rw [hm]
  refine State.finishTag_done _ (by rwa [cores_length_of_steady (State.releaseAt_steady ..)]) ?_
  rw [ctags_of_steady (State.releaseAt_steady ..), hl]
  exact hn

theorem TagDone.complete {o : Cmd} (h : TagDone s c o) : TagDone (s.complete c m .none) c o :=
  (h.of_ctags (ctags_of_steady (State.releaseAt_steady ..) c)).finishTag _

end

end

end Sys2Proof.Machine
end

section
/-! SUPPORT. Gather units (R255-R257). -/

namespace Sys2Proof.Machine

/-! ## A request fires -/

section
variable {w : EWord} {s : State} {f : Firing}

/-- The translations, the span and the alignment of a GATH. -/
def gathVas (w : EWord) (f : Firing) : List Nat :=
  vasIf f.lval.scalar.toNat (fmtBytes (gathFmt w)) (spanBytes (gathType w) (gathFmt w))

/-- The check of a GATH. -/
def gathCheck (s : State) (w : EWord) (f : Firing) : Except AccErr (List Nat) :=
  s.check f.core .island f.lval.scalar.toNat (spanBytes (gathType w) (gathFmt w)) (fmtBytes (gathFmt w))

/-- The next sequence number of a context at a gather unit. -/
def gseqOf (s : State) (f : Firing) (port : Nat) : Nat := (s.cx f.core f.ctx).gseq.getD (port - 34) 0

/-- The tag that a GATH takes. -/
def gathTag (w : EWord) (t : Take) : Option Nat := if t = .free then some w.ctag.toNat else none

/-- What a GATH whose check fails comes to. -/
def gathFailed (w : EWord) (f : Firing) (t : Take) (n : Nat) : State × AccOut → State
  | (s, .frozen) =>
    let s := s.gseqStep f w.port.toNat
    let m : Cmd := { mkCmd (.gath w) f w.port.toNat (gathTag w t) (gathScope w) with gseq := n, frozen := true }
    if t = .free then (s.claimTag f w.ctag.toNat (gathScope w)).addCmd f.core m else s.addCmd f.core m
  | (s, .chaff) =>
    let s := (s.gseqStep f w.port.toNat).emitHeld w.port.toNat f w.t0 w.t1 (gathTag w t) .chaff (.sc 0)
    if t = .free then (s.claimTag f w.ctag.toNat (gathScope w)).finishTag f.core (some w.ctag.toNat) .chaff else s
  | (s, .fault num) => (s.gseqStep f w.port.toNat).emitFrom (srcIsland w.port.toNat) f w.t0 w.t1 .fault (faultVal num)

/-- The request that a GATH without a tag becomes. -/
def gathNew (s : State) (w : EWord) (f : Firing) (pas : List Nat) : Cmd :=
  { mkCmd (.gath w) f w.port.toNat none (gathScope w) with
    st := .accepted, gseq := gseqOf s f w.port.toNat, pas
    opened := match ((s.gseqStep f w.port.toNat).core f.core).cmds.find? fun m =>
        m.opn w.port.toNat && m.block == pas.headD 0 / 1024 with
      | some m => m.opened
      | none => ((s.gseqStep f w.port.toNat).core f.core).cycle.toNat }

theorem gathEnter_eq (s : State) (w : EWord) (f : Firing) (pas : List Nat) : gathEnter s w f w.port.toNat none pas =
    (s.gseqStep f w.port.toNat).addCmd f.core (gathNew s w f pas) := rfl

variable (hr : ReadyE s w f leftOnly) (hn : NodeTakes s f w.port.toNat) (ht : s.stallsTile (.gath w) f = false)
  (hw : s.walkStalls f.core (gathVas w f) = false)
include hr hn ht hw

theorem execGath_ok {pas : List Nat} (htag : s.takeTag f w.ctag.toNat = .noTag)
    (hopen : ((s.core f.core).gathOpen w.port.toNat).length < 64)
    (hchk : gathCheck (s.fillTlb f.core (gathVas w f)) w f = .ok pas) :
    exec (.gath w) s = .next (gathEnter (s.fillTlb f.core (gathVas w f)) w f w.port.toNat none pas) := by
  obtain ⟨hsel, hf, hd⟩ := hr
  set u := s.fillTlb f.core (gathVas w f) with hu
  have hus : u.steady = s.steady := State.fillTlb_steady ..
  have hroom (b : Nat) : u.gathRoom f.core w.port.toNat b = some u := by
    have hopen' : ((u.core f.core).gathOpen w.port.toNat).length < 64 := by
      rwa [Core.gathOpen, cmds_of_steady hus]
    unfold State.gathRoom
    dsimp only
    cases hq : (u.core f.core).gathOpen w.port.toNat with
    | nil => rfl
    | cons b' rest =>
      have hlen : rest.length + 1 < 64 := by simpa [hq] using hopen'
      have hlen' : rest.length < 63 := by omega
      simp [hlen']
  have hfr : u.isFrozen f.core w.port.toNat f.ctx = false := (isFrozen_of_steady hus ..).trans hn.1
  rw [exec_gath]
  refine (fireAs_run _ _ _ _ _ hsel hf hd).trans ?_
  simp only [hn.1, hn.2, ht, htag, Bool.or_self, Bool.false_eq_true, if_false]
  simp only [gathVas, gathCheck] at hw hchk hu
  simp only [hw, ← hu, hchk, hroom, hfr, Bool.false_eq_true, if_false]
  rfl

theorem execGath_error {e : AccErr} (htag : s.takeTag f w.ctag.toNat = .noTag ∨ s.takeTag f w.ctag.toNat = .free)
    (hchk : gathCheck (s.fillTlb f.core (gathVas w f)) w f = .error e) :
    exec (.gath w) s = .next (gathFailed w f (s.takeTag f w.ctag.toNat) (gseqOf s f w.port.toNat)
      ((s.fillTlb f.core (gathVas w f)).engineFails f w.port.toNat e (gseqOf s f w.port.toNat) .island)) := by
  obtain ⟨hsel, hf, hd⟩ := hr
  rw [exec_gath]
  refine (fireAs_run _ _ _ _ _ hsel hf hd).trans ?_
  simp only [hn.1, hn.2, ht, Bool.or_self, Bool.false_eq_true, if_false]
  simp only [gathVas, gathCheck] at hw hchk
  simp only [gseqOf, gathVas]
  rcases htag with htag | htag
  · simp only [htag, hw, hchk, Bool.false_eq_true, if_false]
    generalize State.engineFails .. = r
    obtain ⟨t, o⟩ := r
    cases o <;> rfl
  · simp only [htag, hw, hchk, Bool.false_eq_true, if_false]
    generalize State.engineFails .. = r
    obtain ⟨t, o⟩ := r
    cases o <;> rfl

end

/-! ## Numbers and requests that are entered -/

section
variable {w : EWord} {s t : State} {f : Firing}

theorem State.gseqStep_core_field {α : Type} (g : Core → α) (hg : ∀ k l, g { k with cxs := l } = g k) (port d : Nat) :
    g ((s.gseqStep f port).core d) = g (s.core d) := State.setCx_core_field g hg ..

theorem gseqStepped_gseqStep {u : State} (port : Nat) (hc : f.core < u.cores.length) (hx : f.ctx < (u.core f.core).cxs.length)
    (hg : (u.cx f.core f.ctx).gseq = (s.cx f.core f.ctx).gseq) : GseqStepped s (u.gseqStep f port) f port := by
  unfold GseqStepped State.gseqStep
  rw [State.cx_setCx_self _ _ _ _ hc hx, hg]

theorem State.addCmd_core_field {α : Type} (g : Core → α) (hg : ∀ k l, g { k with cmds := l } = g k) (c d : Nat) (m : Cmd) :
    g ((s.addCmd c m).core d) = g (s.core d) := State.setCore_core_field g _ _ _ _ (hg _ _)

end

/-! ## An entry is issued -/

/-- A request that is read when its entry is issued. -/
def gathRead (s : State) (c port block ord : Nat) (m : Cmd) : Cmd :=
  if m.opn port && m.block == block then { m with st := .issued, ord, a := s.readPas c m.pas } else m

section
variable {s : State} {c : Nat}

/-- Where every byte can be read and nothing is frozen or waits to be checked again, each open request of the block is read. -/
theorem gathIssue_fold (port block ord : Nat) (l done : List Cmd)
    (hl : ∀ o ∈ l, o.frozen = false ∧ o.st ≠ .sent ∧ ∀ pa ∈ o.pas, s.badIsland c pa = false)
    (hd : ∀ o ∈ done, o.frozen = false ∧ o.st ≠ .sent) :
    l.foldl (fun (t : State × List Cmd) (m : Cmd) =>
      if m.opn port && m.block == block && !m.frozen &&
          !(t.2.any fun o => o.port == port && o.f.ctx == m.f.ctx && (o.frozen || o.st == .sent)) then
        let r := t.1.gathTake c ord m
        (r.1, t.2 ++ r.2.toList)
      else (t.1, t.2 ++ [m])) (s, done) = (s, done ++ l.map (gathRead s c port block ord)) := by
  induction l generalizing done with
  | nil => simp
  | cons m l ih =>
    obtain ⟨hfr, hst, hbad⟩ := hl m List.mem_cons_self
    have hfree : (done.any fun o => o.port == port && o.f.ctx == m.f.ctx && (o.frozen || o.st == .sent)) = false :=
      List.any_eq_false.mpr fun o ho => by
        obtain ⟨hof, hos⟩ := hd o ho
        simp [hof, hos]
    have htake : s.gathTake c ord m = (s, some { m with st := .issued, ord, a := s.readPas c m.pas }) := by
      have hnone : m.pas.find? (s.badIsland c) = none := List.find?_eq_none.mpr fun pa hpa => by simp [hbad pa hpa]
      simp [State.gathTake, hnone]
    have hstep : (if m.opn port && m.block == block && !m.frozen &&
          !(done.any fun o => o.port == port && o.f.ctx == m.f.ctx && (o.frozen || o.st == .sent)) then
        let r := s.gathTake c ord m
        (r.1, done ++ r.2.toList)
      else (s, done ++ [m])) = (s, done ++ [gathRead s c port block ord m]) := by
      have hcond : (m.opn port && m.block == block && !m.frozen &&
          !(done.any fun o => o.port == port && o.f.ctx == m.f.ctx && (o.frozen || o.st == .sent))) =
          (m.opn port && m.block == block) := by
        simp [hfree, hfr]
      rw [hcond, htake]
      unfold gathRead
      cases m.opn port && m.block == block <;> rfl
    have hread : (gathRead s c port block ord m).frozen = false ∧ (gathRead s c port block ord m).st ≠ .sent := by
      unfold gathRead
      split
      · exact ⟨hfr, by simp⟩
      · exact ⟨hfr, hst⟩
    rw [List.foldl_cons]
    dsimp only at hstep ⊢
    rw [hstep, ih _ (fun o ho => hl o (List.mem_cons_of_mem _ ho)) fun o ho => ?_]
    · simp
    · rcases List.mem_append.mp ho with ho | ho
      · exact hd o ho
      · rw [List.mem_singleton.mp ho]
        exact hread

theorem State.gathIssue_eq (port block : Nat)
    (hl : ∀ o ∈ (s.core c).cmds, o.frozen = false ∧ o.st ≠ .sent ∧ ∀ pa ∈ o.pas, s.badIsland c pa = false) :
    ∃ ord, s.gathIssue c port block =
      s.setCore c { s.core c with cmds := (s.core c).cmds.map (gathRead s c port block ord) } := by
  refine ⟨(((s.core c).cmds.filter fun m => m.port == port && m.st == .issued).map (·.ord + 1)).foldl max 1, ?_⟩
  unfold State.gathIssue
  dsimp only
  rw [gathIssue_fold port block _ _ [] hl (by simp)]
  rfl

theorem gatherEntryIssue_reads {w : EWord} {k : Nat} {m : Cmd} (hm : s.cmd? c k = some m) (hi : m.i = .gath w)
    (hst : m.st = .accepted) (hlink : s.linkDown c m.pas = false) (hage : m.opened + 256 ≤ (s.core c).cycle.toNat)
    (hl : ∀ o ∈ (s.core c).cmds, o.frozen = false ∧ o.st ≠ .sent ∧ ∀ pa ∈ o.pas, s.badIsland c pa = false) :
    ∃ t : State, exec (.gatherEntryIssue c k) s = .next t ∧ SameStore s t ∧ Received s t c [] ∧
      ∀ n : Nat, (t.cmd? c n).map (fun o => (o.st, o.a)) = (s.cmd? c n).map fun o =>
        if o.port = m.port ∧ o.st = .accepted ∧ o.pas.headD 0 / 1024 = m.pas.headD 0 / 1024
        then (.issued, s.readPas c o.pas) else (o.st, o.a) := by
  obtain ⟨ord, hissue⟩ := State.gathIssue_eq m.port m.block hl
  have hexec : exec (.gatherEntryIssue c k) s = .next (s.gathIssue c m.port m.block) := by
    rw [exec_gatherEntryIssue]
    simp [execGatherEntryIssue, hm, hi, hst, hlink, hage]
  refine ⟨_, hexec.trans (congrArg _ hissue), ⟨rfl, rfl⟩, received_nil ?_, fun n => ?_⟩
  · exact State.setCore_core_field Core.fabric _ _ _ _ rfl
  · unfold State.cmd?
    rw [State.core_setCore_self _ _ _ (State.cmd_range hm), List.getElem?_map, Option.map_map]
    refine congrArg (Option.map · _) (funext fun o => ?_)
    have hcond : (o.opn m.port && o.block == m.block) = true ↔
        o.port = m.port ∧ o.st = .accepted ∧ o.pas.headD 0 / 1024 = m.pas.headD 0 / 1024 := by
      simp [Cmd.opn, Cmd.block, and_assoc]
    simp only [Function.comp_apply, gathRead]
    by_cases h : o.port = m.port ∧ o.st = .accepted ∧ o.pas.headD 0 / 1024 = m.pas.headD 0 / 1024
    · rw [if_pos (hcond.mpr h), if_pos h]
    · rw [if_neg (fun hc => h (hcond.mp hc)), if_neg h]

/-! ## An entry returns -/

/-- A result of two tokens is sent to a target each. -/
theorem State.emitKept_pair (f : Firing) (t0 t1 : Target) (a b : Kind × Val) (hdl : Bool) (seq idx : Nat) :
    s.emitKept f t0 t1 ⟨hdl, seq, idx, [a, b]⟩ =
      s.withTokens f.core (sendsTo s f t0 0 ⟨f.tag, a.1, a.2⟩ ++ sendsTo s f t1 1 ⟨f.tag, b.1, b.2⟩) := by
  have hsend (u : State) (t : Target) (o : Nat) (tok : Tok) :
      (if t = .none then u else u.sendTok f t o tok) = u.withTokens f.core (sendsTo u f t o tok) := by
    split
    · next h =>
      subst h
      exact (State.withTokens_nil ..).symm
    · next h => exact State.sendTok_eq _ _ _ _ _ h
  simp only [State.emitKept]
  rw [hsend, hsend, State.withTokens_withTokens, sendsTo_withTokens]

/-- What a returning request has sent, kept and completed. -/
theorem State.gathReturn_kept {m : Cmd} {w : EWord} (hp : PlainCmd s c m) (hi : m.i = .gath w) (hc : c < s.cores.length) :
    EngineKept s (s.gathReturn c m) c ∧ Received s (s.gathReturn c m) c (gathSends s m) ∧ TagDone (s.gathReturn c m) c m ∧
      ∀ o, TagDone s c o → TagDone (s.gathReturn c m) c o := by
  obtain ⟨horph, hrel, hcore, htags⟩ := hp
  set v := loadValue (gathType w) (gathFmt w) oneF32 m.a with hv
  set u := if m.ctag.isSome then s.keep m.f [(.data, v), (.data, scNat m.gseq)] else s with hu
  have hkept : EngineKept s u c := by
    rw [hu]
    split
    · exact .keep ..
    · exact .refl s c
  have hus : u.steady = s.steady := by
    rw [hu]
    split
    · exact State.keep_steady ..
    · rfl
  have hrun : s.gathReturn c m = (u.withTokens c (gathSends s m)).complete c m .none := by
    unfold State.gathReturn gathSends
    rw [hi]
    dsimp only
    rw [← hv, ← hu, horph]
    subst hcore
    have hsend : sendsTo u m.f = sendsTo s m.f := by
      funext t o tok
      simp only [sendsTo, elem_of_steady hus]
    rw [State.emitKept_pair, State.relabel_withTokens, hsend]
    rfl
  have htok : EngineKept s (u.withTokens c (gathSends s m)) c := hkept.trans (.withTokens ..)
  rw [hrun]
  refine ⟨htok.trans (.complete (hrel.imp_right htok.clean)), ?_, ?_, fun o ho => ?_⟩
  · rw [Received, State.complete_fabric]
    exact received_withTokens _ (hkept.length ▸ hc) (fabric_of_steady hus c)
  · exact State.complete_tagDone (htok.length ▸ hc) (htok.tags.trans htags)
  · refine TagDone.complete (ho.of_ctags ?_)
    rw [State.withTokens_ctags, ctags_of_steady hus]

theorem EngineKept.plainCmd {t : State} {m : Cmd} (h : EngineKept s t c) (hp : PlainCmd s c m) : PlainCmd t c m := by
  obtain ⟨horph, hrel, hcore, htags⟩ := hp
  exact ⟨horph, hrel.imp_right h.clean, hcore, h.tags.trans htags⟩

theorem gathSends_of_kept {t : State} {m : Cmd} (h : EngineKept s t c) (hcore : m.f.core = c) :
    gathSends t m = gathSends s m := by
  subst hcore
  unfold gathSends
  split
  · simp only [sendsTo, State.elem, h.elems]
  · rfl

theorem gathReturn_all {l : List Cmd} (hl : ∀ o ∈ l, PlainCmd s c o ∧ ∃ w, o.i = .gath w) (hc : c < s.cores.length) :
    let t := l.foldl (fun s o => s.gathReturn c o) s
    EngineKept s t c ∧ Received s t c (l.flatMap (gathSends s)) ∧ (∀ o ∈ l, TagDone t c o) ∧
      ∀ o, TagDone s c o → TagDone t c o := by
  induction l generalizing s with
  | nil => exact ⟨.refl s c, received_nil rfl, by simp, fun _ h => h⟩
  | cons m l ih =>
    obtain ⟨hp, w, hi⟩ := hl m List.mem_cons_self
    obtain ⟨hkept, hrecv, hdone, hstay⟩ := State.gathReturn_kept hp hi hc
    have hrest : ∀ o ∈ l, PlainCmd (s.gathReturn c m) c o ∧ ∃ w, o.i = .gath w := fun o ho =>
      (hl o (List.mem_cons_of_mem _ ho)).imp_left hkept.plainCmd
    obtain ⟨hkept', hrecv', hdone', hstay'⟩ := ih hrest (hkept.length ▸ hc)
    refine ⟨hkept.trans hkept', ?_, fun o ho => ?_, fun o ho => hstay' o (hstay o ho)⟩
    · have hsends : l.flatMap (gathSends (s.gathReturn c m)) = l.flatMap (gathSends s) :=
        List.flatMap_congr fun o ho => gathSends_of_kept hkept (hl o (List.mem_cons_of_mem _ ho)).1.2.2.1
      rw [List.flatMap_cons, ← hsends]
      exact received_trans hrecv hrecv'
    · rcases List.mem_cons.mp ho with rfl | ho
      · exact hstay' _ hdone
      · exact hdone' o ho

end

theorem gatherReturn_returns {s : State} {c k : Nat} {m : Cmd} (hm : s.cmd? c k = some m) (hst : m.st = .issued)
    (hfirst : ∀ o ∈ (s.core c).cmds, o.port = m.port → o.st = .issued → m.ord ≤ o.ord) :
    let entry (o : Cmd) : Bool := o.port == m.port && o.st == .issued && o.ord == m.ord
    let out := (s.core c).cmds.filter entry
    (∀ o ∈ out, PlainCmd s c o ∧ ∃ w : EWord, o.i = .gath w) →
    ∃ t : State, exec (.gatherReturn c k) s = .next t ∧ SameStore s t ∧ (∀ o ∈ out, TagDone t c o) ∧
      CmdsAre t c ((s.core c).cmds.filter fun o => !entry o) ∧ Received s t c (out.flatMap (gathSends s)) := by
  intro entry out hout
  have hc := State.cmd_range hm
  set u := s.setCore c { s.core c with cmds := (s.core c).cmds.filter fun o => !entry o } with hu
  have hcore : u.core c = { s.core c with cmds := (s.core c).cmds.filter fun o => !entry o } :=
    State.core_setCore_self _ _ _ hc
  have hexec : exec (.gatherReturn c k) s = .next (out.foldl (fun s o => s.gathReturn c o) u) := by
    have hnone : ((s.core c).cmds.any fun o => o.port == m.port && o.st == .issued && decide (o.ord < m.ord)) = false :=
      List.any_eq_false.mpr fun o ho => by
        have := hfirst o ho
        simp only [Bool.and_eq_true, beq_iff_eq, decide_eq_true_eq, not_and, not_lt, and_imp]
        exact this
    rw [exec_gatherReturn]
    unfold execGatherReturn
    rw [hm]
    dsimp only
    rw [hnone]
    simp only [hst, beq_self_eq_true, Bool.and_self, Bool.not_true, Bool.or_self, Bool.false_eq_true, if_false]
    rfl
  have hplain : ∀ o ∈ out, PlainCmd u c o ∧ ∃ w : EWord, o.i = .gath w := fun o ho =>
    (hout o ho).imp_left fun ⟨horph, hrel, hf, htags⟩ => ⟨horph, hrel.imp_right fun h => by rwa [NoDirty, hcore], hf, by rwa [hcore]⟩
  obtain ⟨hkept, hrecv, hdone, -⟩ := gathReturn_all hplain (by simpa [hu] using hc)
  refine ⟨_, hexec, hkept.store, hdone, ?_, ?_⟩
  · rw [CmdsAre, hkept.cmds, hcore]
  · have hsends : out.flatMap (gathSends u) = out.flatMap (gathSends s) := List.flatMap_congr fun o ho => by
      have hfc := (hout o ho).1.2.2.1
      unfold gathSends
      split
      · simp only [sendsTo, State.elem, hfc, hcore]
      · rfl
    rwa [Received, hcore, hsends] at hrecv

/-! ## A request whose check fails -/

section
variable {w : EWord} {s u t : State} {f : Firing} {r : FRec} {num : Nat}

/-- What the sequence number leaves: the record, and every field of the core but its contexts. -/
theorem Recorded.gseqStep (h : Recorded s t f num r) (hu : s.steady = u.steady) (hc : f.core < u.cores.length)
    (hx : f.ctx < (u.core f.core).cxs.length) (port : Nat) :
    GseqStepped u (t.gseqStep f port) f port ∧ (t.gseqStep f port).cores.length = u.cores.length ∧
      (t.gseqStep f port).record f.core f.ctx num = some r := by
  have hlen : t.cores.length = u.cores.length := h.length.trans (cores_length_of_steady hu)
  have hcxs : (t.core f.core).cxs.length = (u.core f.core).cxs.length :=
    (h.core_field (·.cxs.length) fun _ _ _ => rfl).trans (cxs_length_of_steady hu _)
  refine ⟨gseqStepped_gseqStep port (hlen ▸ hc) (hcxs ▸ hx) ?_, ?_, ?_⟩
  · rw [h.cx, gseq_of_steady hu]
  · simpa [State.gseqStep] using hlen
  · rw [← h.record]
    exact State.record_of_rbuf h.small (State.gseqStep_core_field Core.rbuf (fun _ _ => rfl) ..)

/-- A field of the firing's core that neither the record nor the number changes. -/
theorem Recorded.gseqStep_core_field {α : Type} (h : Recorded s t f num r) (hu : s.steady = u.steady) (g : Core → α)
    (hrec : ∀ k rb fr, g { k with rbuf := rb, fregs := fr } = g k) (hcx : ∀ k l, g { k with cxs := l } = g k)
    (hs : ∀ k : Core, g k.steady = g k) (port : Nat) : g ((t.gseqStep f port).core f.core) = g (u.core f.core) :=
  (State.gseqStep_core_field g hcx ..).trans ((h.core_field g hrec).trans (core_of_steady hu g hs _))

theorem markKeeps_gseq : MarkKeeps Ctx.gseq where
  strand v b l := by
    unfold Ctx.setStrand
    split <;> rfl
  fails _ := rfl

theorem GseqStepped.of_gseq {port : Nat} (h : GseqStepped u s f port) (hg : (t.cx f.core f.ctx).gseq = (s.cx f.core f.ctx).gseq) :
    GseqStepped u t f port := by
  rwa [GseqStepped, hg]

variable {e : AccErr} {k : Take} {n : Nat} (hc : f.core < s.cores.length) (he : f.elem < 64) (hx : f.ctx < 8)
  (hxl : f.ctx < (s.core f.core).cxs.length) (hu : u.steady = s.steady)
include hc he hx hxl hu

theorem gathFailed_fault
    (hm : (s.cx f.core f.ctx).ctl.smode = 0 ∨ (s.cx f.core f.ctx).ctl.smode = 1 ∧ e.code ≠ 4) :
    ∃ num : Nat, let t := gathFailed w f k n (u.engineFails f w.port.toNat e n .island)
      Received s t f.core (sentBy (srcIsland w.port.toNat) (deliveries s f w.t0 w.t1 ⟨f.tag, .fault, faultVal num⟩)) ∧
      t.record f.core f.ctx num = some (failRec u f w.port.toNat 0 e n) ∧ GseqStepped s t f w.port.toNat ∧
      (t.core f.core).ctags = (s.core f.core).ctags ∧ (t.core f.core).cmds = (s.core f.core).cmds ∧ t.mem = u.mem := by
  have hcu : f.core < u.cores.length := by rwa [cores_length_of_steady hu]
  obtain ⟨t, num, hfail, hrec⟩ := State.accessFails_fault (node := w.port.toNat) (lsid := 0) (sseq := n) (k := .island)
    (ord := 0) hcu hx (portOf_lt he) (ctl_of_steady hu f.core f.ctx ▸ hm)
  obtain ⟨hg, hlen, hrecord⟩ := hrec.gseqStep hu hc hxl w.port.toNat
  refine ⟨num, ?_⟩
  dsimp only
  rw [State.engineFails, hfail]
  unfold gathFailed
  dsimp only
  refine ⟨received_emitFrom _ _ _ _ _ _ (hlen ▸ hc) ?_ ?_, ?_, ?_, ?_, ?_, ?_⟩
  · exact hrec.gseqStep_core_field hu Core.fabric (fun _ _ _ => rfl) (fun _ _ => rfl) (fun _ => rfl) _
  · exact hrec.gseqStep_core_field hu Core.elems (fun _ _ _ => rfl) (fun _ _ => rfl) (fun _ => rfl) _
  · rw [← hrecord]
    exact State.record_of_rbuf hrec.small (State.emitFrom_core_field Core.rbuf (fun _ _ => rfl) (fun _ _ => rfl) ..)
  · exact hg.of_gseq (State.emitFrom_cx_field markKeeps_gseq ..)
  · rw [State.emitFrom_core_field Core.ctags (fun _ _ => rfl) (fun _ _ => rfl)]
    exact hrec.gseqStep_core_field hu Core.ctags (fun _ _ _ => rfl) (fun _ _ => rfl) (fun _ => rfl) _
  · rw [State.emitFrom_core_field Core.cmds (fun _ _ => rfl) (fun _ _ => rfl)]
    exact hrec.gseqStep_core_field hu Core.cmds (fun _ _ _ => rfl) (fun _ _ => rfl) (fun _ => rfl) _
  · exact (State.emitFrom_mem ..).trans hrec.mem

theorem gathFailed_frozen (hm : (s.cx f.core f.ctx).ctl.smode = 2) :
    ∃ m : Cmd, let t := gathFailed w f k n (u.engineFails f w.port.toNat e n .island)
      Received s t f.core [] ∧ t.mem = u.mem ∧ t.isFrozen f.core w.port.toNat f.ctx = true ∧ GseqStepped s t f w.port.toNat ∧
      CmdsAre t f.core ((s.core f.core).cmds ++ [m]) ∧ m.i = .gath w ∧ m.f = f ∧ m.frozen = true ∧ m.st = .sent ∧
      m.gseq = n := by
  have hcu : f.core < u.cores.length := by rwa [cores_length_of_steady hu]
  obtain ⟨t, num, hrec, hfail⟩ := State.accessFails_frozen (node := w.port.toNat) (lsid := 0) (e := e) (sseq := n)
    (k := .island) (ord := 0) hcu hx (portOf_lt he) (ctl_of_steady hu f.core f.ctx ▸ hm)
  set m : Cmd := { mkCmd (.gath w) f w.port.toNat (gathTag w k) (gathScope w) with gseq := n, frozen := true } with hmdef
  set a := (t.freeze f.core w.port.toNat f.ctx).gseqStep f w.port.toNat with ha
  have hfield {α : Type} (g : Core → α) (hrec' : ∀ k rb fr, g { k with rbuf := rb, fregs := fr } = g k)
      (hfr : ∀ k l, g { k with frozen := l } = g k) (hcx : ∀ k l, g { k with cxs := l } = g k)
      (hs : ∀ k : Core, g k.steady = g k) : g (a.core f.core) = g (s.core f.core) :=
    (State.gseqStep_core_field g hcx ..).trans ((State.freeze_core_field g hfr ..).trans
      ((hrec.core_field g hrec').trans (core_of_steady hu g hs _)))
  have hflen : (t.freeze f.core w.port.toNat f.ctx).cores.length = s.cores.length := by
    simpa [State.freeze] using hrec.length.trans (cores_length_of_steady hu)
  have halen : a.cores.length = s.cores.length := by simpa [ha, State.gseqStep] using hflen
  have hgseq : GseqStepped s a f w.port.toNat := by
    refine gseqStepped_gseqStep _ (hflen ▸ hc) ?_ ?_
    · rw [State.freeze_core_field (·.cxs.length) (fun _ _ => rfl), hrec.core_field (·.cxs.length) fun _ _ _ => rfl,
        cxs_length_of_steady hu]
      exact hxl
    · rw [State.freeze_cx, hrec.cx, gseq_of_steady hu]
  set b := if k = .free then a.claimTag f w.ctag.toNat (gathScope w) else a with hb
  have hbfield {α : Type} (g : Core → α) (hg : ∀ k l, g { k with ctags := l } = g k) :
      g (b.core f.core) = g (a.core f.core) := by
    rw [hb]
    split
    · exact State.setCtag_core_field g hg ..
    · rfl
  have hblen : b.cores.length = s.cores.length := by
    rw [← halen, hb]
    split
    · simp [State.claimTag, State.setCtag]
    · rfl
  have hrun : gathFailed w f k n (u.engineFails f w.port.toNat e n .island) = b.addCmd f.core m := by
    rw [State.engineFails, hfail, gathFailed, hb]
    dsimp only
    split <;> rfl
  refine ⟨m, ?_⟩
  dsimp only
  rw [hrun]
  refine ⟨received_nil ?_, ?_, ?_, ?_, ?_, rfl, rfl, rfl, rfl, rfl⟩
  · rw [State.addCmd_core_field Core.fabric (fun _ _ => rfl), hbfield Core.fabric (fun _ _ => rfl)]
    exact hfield Core.fabric (fun _ _ _ => rfl) (fun _ _ => rfl) (fun _ _ => rfl) fun _ => rfl
  · have hbmem : b.mem = a.mem := by
      rw [hb]
      split <;> rfl
    exact hbmem.trans hrec.mem
  · rw [State.isFrozen, State.addCmd_core_field Core.frozen (fun _ _ => rfl), hbfield Core.frozen (fun _ _ => rfl),
      State.gseqStep_core_field Core.frozen (fun _ _ => rfl)]
    exact State.isFrozen_freeze _ _ _ _ (hrec.length ▸ hcu)
  · refine hgseq.of_gseq ?_
    refine (State.addCmd_core_field (fun k => (k.cxs.getD f.ctx Ctx.reset).gseq) (fun _ _ => rfl) ..).trans ?_
    exact hbfield (fun k => (k.cxs.getD f.ctx Ctx.reset).gseq) fun _ _ => rfl
  · rw [CmdsAre, State.addCmd_cmds _ _ _ (hblen ▸ hc), hbfield Core.cmds (fun _ _ => rfl)]
    exact congrArg (· ++ [m]) (hfield Core.cmds (fun _ _ _ => rfl) (fun _ _ => rfl) (fun _ _ => rfl) fun _ => rfl)

theorem gathFailed_chaff (hm : (s.cx f.core f.ctx).ctl.smode = 1) (hcode : e.code = 4)
    (hl : (s.core f.core).ctags.length = 64) :
    let t := gathFailed w f k n (u.engineFails f w.port.toNat e n .island)
    t.mem = u.mem ∧
      Received s t f.core (sentBy (srcIsland w.port.toNat) (deliveries s f w.t0 w.t1 ⟨f.tag, .chaff, .sc 0⟩)) ∧
      GseqStepped s t f w.port.toNat ∧ (t.core f.core).cmds = (s.core f.core).cmds ∧
      (k = .free → ((t.core f.core).ctag w.ctag.toNat).st = .done ∧ ((t.core f.core).ctag w.ctag.toNat).mark = .chaff) := by
  have hcu : f.core < u.cores.length := by rwa [cores_length_of_steady hu]
  obtain ⟨t, num, hrec, hfail⟩ := State.accessFails_chaff (node := w.port.toNat) (lsid := 0) (e := e) (sseq := n)
    (k := .island) (ord := 0) hcu hx (portOf_lt he) (ctl_of_steady hu f.core f.ctx ▸ hm) hcode
  set v := t.setCx f.core f.ctx { u.cx f.core f.ctx with
    ctl := { (u.cx f.core f.ctx).ctl with rpend := (u.cx f.core f.ctx).ctl.rpend + 1 } } with hv
  set a := v.gseqStep f w.port.toNat with ha
  have hfield {α : Type} (g : Core → α) (hrec' : ∀ k rb fr, g { k with rbuf := rb, fregs := fr } = g k)
      (hcx : ∀ k l, g { k with cxs := l } = g k) (hs : ∀ k : Core, g k.steady = g k) :
      g (a.core f.core) = g (s.core f.core) :=
    (State.gseqStep_core_field g hcx ..).trans ((State.setCx_core_field g hcx ..).trans
      ((hrec.core_field g hrec').trans (core_of_steady hu g hs _)))
  have hvlen : v.cores.length = s.cores.length := by simpa [hv] using hrec.length.trans (cores_length_of_steady hu)
  have halen : a.cores.length = s.cores.length := by simpa [ha, State.gseqStep] using hvlen
  have htcxs : f.ctx < (t.core f.core).cxs.length := by
    rw [hrec.core_field (·.cxs.length) fun _ _ _ => rfl, cxs_length_of_steady hu]
    exact hxl
  have hvcxs : f.ctx < (v.core f.core).cxs.length := by
    rw [hv, State.setCx, State.core_setCore_self _ _ _ (hrec.length ▸ hcu)]
    simpa using htcxs
  have hgseq : GseqStepped s a f w.port.toNat := by
    refine gseqStepped_gseqStep _ (hvlen ▸ hc) hvcxs ?_
    rw [hv, State.cx_setCx_self _ _ _ _ (hrec.length ▸ hcu) htcxs]
    exact gseq_of_steady hu ..
  set b := if (gathTag w k).isSome then a.keep f [(.chaff, .sc 0)] else a with hb
  have hbs : b.steady = a.steady := by
    rw [hb]
    split
    · exact State.keep_steady ..
    · rfl
  set x := b.withTokens f.core (sentBy (srcIsland w.port.toNat) (deliveries s f w.t0 w.t1 ⟨f.tag, .chaff, .sc 0⟩)) with hxdef
  have hbelems : (b.core f.core).elems = (s.core f.core).elems :=
    (elems_of_steady hbs _).trans (hfield Core.elems (fun _ _ _ => rfl) (fun _ _ => rfl) fun _ => rfl)
  have hemit : a.emitHeld w.port.toNat f w.t0 w.t1 (gathTag w k) .chaff (.sc 0) = x := by
    rw [State.emitHeld, ← hb, State.emitFrom_eq _ _ _ _ _ _ (.inl rfl), deliveries_congr hbelems]
  have hrun : gathFailed w f k n (u.engineFails f w.port.toNat e n .island) =
      if k = .free then (x.claimTag f w.ctag.toNat (gathScope w)).finishTag f.core (some w.ctag.toNat) .chaff else x := by
    rw [State.engineFails, hfail, gathFailed, hemit]
  dsimp only
  rw [hrun]
  set y := if k = .free then (x.claimTag f w.ctag.toNat (gathScope w)).finishTag f.core (some w.ctag.toNat) .chaff else x with hy
  have hyfield {α : Type} (g : Core → α) (hg : ∀ k l, g { k with ctags := l } = g k) : g (y.core f.core) = g (x.core f.core) := by
    rw [hy]
    split
    · exact (State.finishTag_core_field g hg ..).trans (State.setCtag_core_field g hg ..)
    · rfl
  have hxlen : f.core < x.cores.length := by
    rw [hxdef, State.withTokens_length, cores_length_of_steady hbs, halen]
    exact hc
  refine ⟨?_, ?_, ?_, ?_, fun hk => ?_⟩
  · have hymem : y.mem = x.mem := by
      rw [hy]
      split <;> rfl
    have hbmem : b.mem = a.mem := by
      rw [hb]
      split
      · exact State.keep_mem ..
      · rfl
    exact hymem.trans (hbmem.trans hrec.mem)
  · rw [Received, hyfield Core.fabric (fun _ _ => rfl)]
    refine received_withTokens _ (by rw [cores_length_of_steady hbs, halen]; exact hc) ?_
    exact (fabric_of_steady hbs _).trans (hfield Core.fabric (fun _ _ _ => rfl) (fun _ _ => rfl) fun _ => rfl)
  · refine hgseq.of_gseq ?_
    refine (hyfield (fun k => (k.cxs.getD f.ctx Ctx.reset).gseq) fun _ _ => rfl).trans ?_
    exact (congrArg Ctx.gseq (State.withTokens_cx ..)).trans (gseq_of_steady hbs ..)
  · rw [hyfield Core.cmds (fun _ _ => rfl), hxdef, State.withTokens_cmds, cmds_of_steady hbs]
    exact hfield Core.cmds (fun _ _ _ => rfl) (fun _ _ => rfl) fun _ => rfl
  · rw [hy, if_pos hk]
    have hctags : (x.core f.core).ctags.length = 64 := by
      rw [hxdef, State.withTokens_ctags, ctags_of_steady hbs,
        hfield Core.ctags (fun _ _ _ => rfl) (fun _ _ => rfl) fun _ => rfl, hl]
    refine State.finishTag_done _ (by simpa [State.claimTag, State.setCtag] using hxlen) ?_
    rw [State.claimTag, (EngineKept.setCtag ..).tags, hctags]
    exact w.ctag.isLt

end

/-- Settles O31: requests enter by their check, an entry is read whole, its requests return in turn, and a failed one by mode. -/
theorem gatherUnits : Obligations.GatherUnits := by
  unfold Obligations.GatherUnits
  refine ⟨?_, ?_, ?_, ?_⟩
  · intro w s f pas hr hn ht htag hopen
    dsimp only
    intro hw hchk hc
    set u := s.fillTlb f.core (gathVas w f) with hu
    have hus : u.steady = s.steady := State.fillTlb_steady ..
    have hlen : f.core < (u.gseqStep f w.port.toNat).cores.length := by
      simpa [State.gseqStep, cores_length_of_steady hus] using hc
    have hexec := execGath_ok hr hn ht hw htag hopen hchk
    rw [← hu, gathEnter_eq] at hexec
    have hcmds : ((u.gseqStep f w.port.toNat).core f.core).cmds = (s.core f.core).cmds :=
      (State.gseqStep_core_field Core.cmds (fun _ _ => rfl) ..).trans (cmds_of_steady hus _)
    have hadded := State.addCmd_cmds (u.gseqStep f w.port.toNat) f.core (gathNew u w f pas) hlen
    rw [hcmds] at hadded
    refine ⟨_, gathNew u w f pas, hexec, ⟨rfl, rfl⟩, received_nil ?_, hadded, rfl, rfl, rfl, rfl, ?_⟩
    · rw [State.addCmd_core_field Core.fabric (fun _ _ => rfl),
        State.gseqStep_core_field Core.fabric (fun _ _ => rfl), fabric_of_steady hus]
    · exact congrArg (·.getD (w.port.toNat - 34) 0) (gseq_of_steady hus ..)
  · exact fun w s c k m hm hi hst hlink hage hl => gatherEntryIssue_reads hm hi hst hlink hage hl
  · exact fun s c k m hm hst hfirst => gatherReturn_returns hm hst hfirst
  · intro w s f e hr hn ht hc he hx hxl hl
    dsimp only
    intro htag hw hchk
    have hus : (s.fillTlb f.core (gathVas w f)).steady = s.steady := State.fillTlb_steady ..
    have hexec := execGath_error hr hn ht hw htag hchk
    refine ⟨fun hm => ?_, fun hm hcode => ?_, fun hm => ?_⟩
    · obtain ⟨num, hrecv, hrec, hg, htags, hcmds, hmem⟩ := gathFailed_fault (w := w) (k := s.takeTag f w.ctag.toNat)
        (n := gseqOf s f w.port.toNat) hc he hx hxl hus hm
      exact ⟨_, num, _, hexec, hrecv, hrec, rfl, rfl, rfl, hg, htags, hcmds, hmem⟩
    · obtain ⟨hmem, hrecv, hg, hcmds, hdone⟩ := gathFailed_chaff (w := w) (k := s.takeTag f w.ctag.toNat)
        (n := gseqOf s f w.port.toNat) hc he hx hxl hus hm hcode hl
      exact ⟨_, hexec, hmem, hrecv, hg, hcmds, hdone⟩
    · obtain ⟨m, hrecv, hmem, hfr, hg, hcmds, hi, hmf, hmfr, hst, hgs⟩ := gathFailed_frozen (w := w) (e := e)
        (k := s.takeTag f w.ctag.toNat) (n := gseqOf s f w.port.toNat) hc he hx hxl hus hm
      exact ⟨_, m, hexec, hrecv, hmem, hfr, hg, hcmds, hi, hmf, hmfr, hst, hgs⟩

end Sys2Proof.Machine
end

section
/-! SUPPORT. The writes of engine commands: under way, and made as a scope asks (R243, R315, R326). -/

namespace Sys2Proof.Machine

/-! ## What memory reads as -/

theorem Memory.get_putAll {m : Memory} (l : List (Nat × Byte)) (j : Nat) (h : Memory.wf m = true) :
    Memory.get (Memory.putAll m l) j = (lastWrite l j).getD (Memory.get m j) := by
  induction l generalizing m with
  | nil => rfl
  | cons x l ih =>
    rw [Memory.putAll_cons, ih (Memory.put_wf _ _ h), lastWrite_cons, Memory.get_put _ _ _ h]
    cases lastWrite l j with
    | some b => rfl
    | none =>
      by_cases hx : x.1 = j
      · simp [hx]
      · simp [hx, Ne.symm hx]

theorem Memory.putAll_append (m : Memory) (a b : List (Nat × Byte)) :
    Memory.putAll m (a ++ b) = Memory.putAll (Memory.putAll m a) b := List.foldl_append ..

theorem lastWrite_filter (p : Nat → Bool) (l : List (Nat × Byte)) (pa : Nat) :
    lastWrite (l.filter fun x => p x.1) pa = if p pa then lastWrite l pa else none := by
  induction l with
  | nil => simp [lastWrite]
  | cons x l ih =>
    rw [lastWrite_cons]
    by_cases hx : p x.1 = true
    · rw [List.filter_cons_of_pos (p := fun x : Nat × Byte => p x.1) hx, lastWrite_cons, ih]
      by_cases hpa : p pa = true
      · simp [hpa]
      · have hne : x.1 ≠ pa := fun h => hpa (h ▸ hx)
        simp [hpa, hne]
    · rw [List.filter_cons_of_neg (p := fun x : Nat × Byte => p x.1) hx, ih]
      by_cases hpa : p pa = true
      · have hne : x.1 ≠ pa := fun h => hx (h ▸ hpa)
        simp [hpa, hne]
      · simp [hpa]

/-! ## Writes under way that another write passes by -/

/-- No write of a completed command among these is to some bytes. -/
def LateClear (l : List Late) (pas : List Nat) : Prop := ∀ v ∈ l, v.runs = false → ∀ b ∈ v.bytes, b.1 ∉ pas

/-- Without the bytes that it does not have, a write is left whole. -/
theorem Late.without_of_clear {l : Late} {p : Nat → Bool} (h : ∀ b ∈ l.bytes, p b.1 = false) :
    l.without p = if l.bytes.isEmpty then none else some l := by
  have hrest : l.bytes.filter (fun x => !p x.1) = l.bytes := List.filter_eq_self.mpr fun b hb => by simp [h b hb]
  unfold Late.without
  rw [hrest]

/-- Writes to other bytes leave what is under way, but for entries that have no byte left. -/
theorem Core.overtaken_underWay {k : Core} {l : List (Nat × Byte)} (h : LateClear k.late (l.map (·.1))) :
    (k.overtaken l).filter (fun v => !v.bytes.isEmpty) = k.late.filter fun v => !v.bytes.isEmpty := by
  unfold Core.overtaken
  induction hl : k.late generalizing k with
  | nil => rfl
  | cons v rest ih =>
    have hrest := ih (k := { k with late := rest }) (fun w hw => h w (hl ▸ List.mem_cons_of_mem _ hw)) rfl
    cases hr : v.runs with
    | true =>
      rw [List.filterMap_cons_some (by rw [hr]; rfl), List.filter_cons, hrest, List.filter_cons]
    | false =>
      have hclear : ∀ b ∈ v.bytes, (l.any fun x => x.1 == b.1) = false := fun b hb => by
        have hnot := h v (hl ▸ List.mem_cons_self) hr b hb
        rw [List.any_eq_false]
        intro x hx hxb
        exact hnot (List.mem_map.mpr ⟨x, hx, by simpa using hxb⟩)
      have hwithout := Late.without_of_clear (p := fun pa => l.any (·.1 == pa)) hclear
      cases he : v.bytes.isEmpty with
      | true =>
        rw [List.filterMap_cons_none (by rw [hr, hwithout, he]; rfl), hrest, List.filter_cons, he]
        rfl
      | false =>
        rw [List.filterMap_cons_some (by rw [hr, hwithout, he]; rfl), List.filter_cons, hrest, List.filter_cons]

/-- What a landing keeps: everything that memory traffic does not change, what is under way, and a CACHE without dirty bytes. -/
structure Passes (s t : State) (c : Nat) (l : List (Nat × Byte)) : Prop where
  steady : t.steady = s.steady
  mem : t.mem = Memory.putAll s.mem (l.filter fun x => s.inSize x.1)
  underWay : underWay t c = underWay s c
  noLate : ∀ pas, NoLate s pas → NoLate t pas
  clean : NoDirty s c → NoDirty t c

section
variable {s t u : State} {c : Nat}

theorem Passes.refl (s : State) (c : Nat) : Passes s s c [] := ⟨rfl, rfl, rfl, fun _ h => h, id⟩

theorem Passes.trans {l l' : List (Nat × Byte)} (h : Passes s t c l) (h' : Passes t u c l') : Passes s u c (l ++ l') where
  steady := h'.steady.trans h.steady
  mem := by
    have hsize : (fun x : Nat × Byte => t.inSize x.1) = fun x => s.inSize x.1 := funext fun x => inSize_of_steady h.steady _
    rw [h'.mem, h.mem, List.filter_append, Memory.putAll_append, hsize]
  underWay := h'.underWay.trans h.underWay
  noLate pas hl := h'.noLate pas (h.noLate pas hl)
  clean hc := h'.clean (h.clean hc)

theorem State.underWay_store {l : List (Nat × Byte)} (z : List Nat) (h : NoLate s (l.map (·.1))) :
    underWay (s.store l z) c = underWay s c := by
  unfold underWay
  rcases Nat.lt_or_ge c s.cores.length with hc | hc
  · rw [State.store_core _ _ _ hc]
    refine Core.overtaken_underWay fun v hv hr b hb hmem => ?_
    obtain ⟨x, hx, hxb⟩ := List.mem_map.mp hmem
    exact noLate_iff.mp h c v hv hr b hb (List.mem_map.mpr ⟨x, (List.mem_filter.mp hx).1, hxb⟩)
  · rw [State.late_absent hc, State.late_absent (by simpa)]

theorem Passes.store {l : List (Nat × Byte)} (z : List Nat) (h : NoLate s (l.map (·.1))) : Passes s (s.store l z) c l where
  steady := State.store_steady ..
  mem := rfl
  underWay := State.underWay_store z h
  noLate _ hl := hl.store l z
  clean hc := by rwa [NoDirty, State.store_cache]

theorem CLine.put_clean {l : CLine} (x : Nat × Byte) (h : l.dirty = 0) : (CLine.put l x false).dirty = 0 := by
  unfold CLine.put
  split
  · simp [h]
  · exact h

/-- What is written through leaves no byte dirty. -/
theorem State.cachePut_clean (l : List (Nat × Byte)) (h : NoDirty s c) : NoDirty (s.cachePut c l false) c := by
  unfold State.cachePut
  dsimp only
  split
  · exact h
  · rcases Nat.lt_or_ge c s.cores.length with hc | hc
    · intro ln hln
      rw [State.core_setCore_self _ _ _ hc] at hln
      obtain ⟨m, hm, rfl⟩ := List.mem_map.mp hln
      exact List.foldlRecOn (motive := fun ln : CLine => ln.dirty = 0) _ _ (h m hm) fun ln hl x _ => CLine.put_clean x hl
    · rwa [State.setCore_absent _ _ _ hc]

theorem NoLate.cachePut {pas : List Nat} (h : NoLate s pas) (d : Nat) (l : List (Nat × Byte)) (b : Bool) :
    NoLate (s.cachePut d l b) pas := by
  rw [noLate_iff] at h ⊢
  intro e
  rw [State.cachePut_late]
  exact h e

theorem Passes.cachePut (l : List (Nat × Byte)) : Passes s (s.cachePut c l false) c [] where
  steady := State.cachePut_steady ..
  mem := by
    unfold State.cachePut
    dsimp only
    split <;> rfl
  underWay := by rw [Machine.underWay, State.cachePut_late, Machine.underWay]
  noLate _ h := h.cachePut c l false
  clean := State.cachePut_clean l

theorem Passes.lateOut {l : Late} {p : Nat → Bool} (h : NoLate s (l.bytes.map (·.1))) :
    Passes s (s.lateOut c l p) c (l.bytes.filter fun x => p x.1) := by
  have hsub : NoLate s ((l.bytes.filter fun x => p x.1).map (·.1)) := by
    rw [noLate_iff] at h ⊢
    intro d v hv hr b hb hmem
    obtain ⟨x, hx, hxb⟩ := List.mem_map.mp hmem
    exact h d v hv hr b hb (List.mem_map.mpr ⟨x, (List.mem_filter.mp hx).1, hxb⟩)
  have hput := Passes.cachePut (s := s.store (l.bytes.filter fun x => p x.1)
    (l.zero.filter fun n => l.bytes.all fun x => x.1 / 64 != n || p x.1)) (c := c) (l.bytes.filter fun x => p x.1)
  have := (Passes.store (c := c) (l.zero.filter fun n => l.bytes.all fun x => x.1 / 64 != n || p x.1) hsub).trans hput
  rwa [List.append_nil] at this

theorem Passes.lateOuts {ws : List Late} {p : Nat → Bool} (h : ∀ l ∈ ws, NoLate s (l.bytes.map (·.1))) :
    Passes s (ws.foldl (fun s l => s.lateOut c l p) s) c ((ws.flatMap (·.bytes)).filter fun x => p x.1) := by
  induction ws generalizing s with
  | nil => exact .refl s c
  | cons l ws ih =>
    have hone := Passes.lateOut (c := c) (p := p) (h l List.mem_cons_self)
    have hrest := ih (s := s.lateOut c l p) fun m hm => hone.noLate _ (h m (List.mem_cons_of_mem _ hm))
    rw [List.flatMap_cons, List.filter_append]
    exact hone.trans hrest

theorem Passes.cacheRelease (h : NoDirty s c) : Passes s (s.cacheRelease c) c [] where
  steady := State.cacheRelease_steady ..
  mem := (EngineKept.cacheRelease h).store.1
  underWay := by
    have hout : (((s.core c).cache.filter fun _ => true).flatMap CLine.dirtyBytes) = [] := by
      rw [List.flatMap_eq_nil_iff]
      exact fun l hl => CLine.dirtyBytes_of_clean (h l (List.mem_filter.mp hl).1)
    unfold State.cacheRelease State.writeBack
    rw [hout]
    unfold Machine.underWay
    dsimp only
    rw [State.setCore_cache_late]
    exact State.underWay_store [] (by rw [noLate_iff]; simp)
  noLate pas hl := by
    rw [noLate_iff] at hl ⊢
    intro d w hw hr b hb
    obtain ⟨v, hv, hvr, hvb⟩ := State.writeBack_shrinks s d c (fun _ => true) 0 w (by rw [List.drop_zero]; exact hw)
    exact hl d v (by simpa using hv) (hvr.trans hr) b (hvb b hb)
  clean := (EngineKept.cacheRelease h).clean

theorem Passes.releaseAt {scope : Nat} (h : scope < 2 ∨ NoDirty s c) : Passes s (s.releaseAt c scope) c [] := by
  unfold State.releaseAt
  split
  · next hw =>
    have hscope : 2 ≤ scope := of_decide_eq_true hw
    exact .cacheRelease (h.resolve_left (by omega))
  · exact .refl s c

end

end Sys2Proof.Machine
end

section
/-! SUPPORT. The end of an engine command: its writes are made as its scope asks, and its tag is DONE (R167, R243, R315). -/

namespace Sys2Proof.Machine

/-- Does a byte that is written at a scope stay under way when the write completes (R315)? -/
def staysFar (scope pa : Nat) : Bool := decide (scope < 3) && cacheable pa

/-- What is left under way of the writes of a command that has completed. -/
def slowWrites (scope : Nat) (ws : List Late) : List Late :=
  ws.filterMap fun l => ({ l with reach := max 1 scope, job := 0 } : Late).without fun pa => !staysFar scope pa

/-- What the writes of a command leave under way, written out. -/
theorem slowWrites_eq (scope ord : Nat) (late : List Late) : slowWrites scope (late.filter fun l => l.job == ord) =
    ((late.filter fun l => !l.bytes.isEmpty).filter fun l => l.job == ord && l.bytes.any fun x => staysFar scope x.1).map
      fun l => { l with reach := max 1 scope, job := 0, bytes := l.bytes.filter fun x => staysFar scope x.1 } := by
  have hwithout (l : Late) : ({ l with reach := max 1 scope, job := 0 } : Late).without (fun pa => !staysFar scope pa) =
      if l.bytes.any fun x => staysFar scope x.1 then
        some { l with reach := max 1 scope, job := 0, bytes := l.bytes.filter fun x => staysFar scope x.1 }
      else none := by
    unfold Late.without
    simp only [Bool.not_not]
    cases hany : l.bytes.any fun x => staysFar scope x.1 with
    | true =>
      obtain ⟨x, hx, hxf⟩ := List.any_eq_true.mp hany
      have hne : (l.bytes.filter fun x => staysFar scope x.1).isEmpty = false := by
        rw [List.isEmpty_eq_false_iff_exists_mem]
        exact ⟨x, List.mem_filter.mpr ⟨hx, hxf⟩⟩
      simp [hne]
    | false =>
      have hnil : (l.bytes.filter fun x => staysFar scope x.1) = [] :=
        List.filter_eq_nil_iff.mpr fun x hx => List.any_eq_false.mp hany x hx
      simp [hnil]
  induction late with
  | nil => rfl
  | cons l late ih =>
    unfold slowWrites at ih ⊢
    cases hj : l.job == ord with
    | false =>
      rw [List.filter_cons_of_neg (by simp [hj]), ih, List.filter_filter, List.filter_filter,
        List.filter_cons_of_neg (by simp [hj])]
    | true =>
      rw [List.filter_cons_of_pos (by simp [hj]), List.filter_filter]
      cases hany : l.bytes.any fun x => staysFar scope x.1 with
      | false =>
        rw [List.filterMap_cons_none (by rw [hwithout, hany]; rfl), ih, List.filter_filter,
          List.filter_cons_of_neg (by simp [hany])]
      | true =>
        have hne : l.bytes.isEmpty = false := by
          obtain ⟨x, hx, -⟩ := List.any_eq_true.mp hany
          rw [List.isEmpty_eq_false_iff_exists_mem]
          exact ⟨x, hx⟩
        rw [List.filterMap_cons_some (by rw [hwithout, hany]; rfl), ih, List.filter_filter,
          List.filter_cons_of_pos (by simp [hany, hj, hne]), List.map_cons]

section
variable {s t : State} {c : Nat}

theorem mem_slowWrites {scope : Nat} {ws : List Late} {v : Late} (h : v ∈ slowWrites scope ws) :
    v.bytes ≠ [] ∧ ∃ w ∈ ws, ∀ b ∈ v.bytes, b ∈ w.bytes := by
  obtain ⟨w, hw, hv⟩ := List.mem_filterMap.mp h
  obtain ⟨rfl, hne⟩ := Late.without_some hv
  exact ⟨hne, w, hw, fun b hb => (List.mem_filter.mp hb).1⟩

theorem NoLate.mono {pas pas' : List Nat} (h : NoLate s pas) (hsub : ∀ pa ∈ pas', pa ∈ pas) : NoLate s pas' :=
  fun o ho l hl hr b hb hmem => h o ho l hl hr b hb (hsub _ hmem)

theorem NoLate.setLate {pas : List Nat} {l : List Late} (h : NoLate s pas) (hl : ∀ v ∈ l, v ∈ (s.core c).late) :
    NoLate (s.setCore c { s.core c with late := l }) pas := by
  rw [noLate_iff] at h ⊢
  intro d w hw
  rcases Nat.lt_or_ge c s.cores.length with hc | hc
  · by_cases hd : c = d
    · subst hd
      rw [State.core_setCore_self _ _ _ hc] at hw
      exact h c w (hl w hw)
    · rw [State.core_setCore_ne _ _ _ _ hd] at hw
      exact h d w hw
  · rw [State.setCore_absent _ _ _ hc] at hw
    exact h d w hw

theorem State.setLate_steady (l : List Late) : (s.setCore c { s.core c with late := l }).steady = s.steady :=
  State.steady_setCore_of rfl

theorem State.setLate_cache (l : List Late) (d : Nat) :
    ((s.setCore c { s.core c with late := l }).core d).cache = (s.core d).cache := State.setCore_core_field Core.cache _ _ _ _ rfl

theorem State.setLate_clean (l : List Late) (h : NoDirty s c) : NoDirty (s.setCore c { s.core c with late := l }) c := by
  unfold NoDirty
  rwa [State.setLate_cache]

/-- The state once a command's writes are made, before what is left of them is under way for the others. -/
def landed (s : State) (c ord scope : Nat) : State :=
  ((s.core c).late.filter fun l => l.job == ord).foldl (fun s l => s.lateOut c l fun pa => !staysFar scope pa)
    (s.setCore c { s.core c with late := (s.core c).late.filter fun l => l.job != ord })

theorem State.endWrites_eq (ord scope : Nat) : s.endWrites c ord scope =
    let slow := slowWrites scope ((s.core c).late.filter fun l => l.job == ord)
    let u := landed s c ord scope
    if slow.isEmpty then u
    else
      let v := (u.settleBytes ((slow.flatMap (·.bytes)).map (·.1))).cachePut c (slow.flatMap (·.bytes)) false
      v.setCore c { v.core c with late := (v.core c).late ++ slow } := rfl

/-- The bytes of one of a command's writes are among those of all. -/
theorem mem_ownWrites {m : Cmd} {l : Late} {b : Nat × Byte} (hl : l ∈ (s.core c).late.filter fun l => l.job == m.ord)
    (hb : b ∈ l.bytes) : b ∈ ownWrites s c m := List.mem_flatMap.mpr ⟨l, hl, hb⟩

theorem landed_passes {m : Cmd} (h : NoLate s ((ownWrites s c m).map (·.1))) :
    Passes (s.setCore c { s.core c with late := (s.core c).late.filter fun l => l.job != m.ord })
      (landed s c m.ord m.scope) c ((ownWrites s c m).filter fun x => !staysFar m.scope x.1) := by
  refine Passes.lateOuts fun l hl => ?_
  have hsub : NoLate s (l.bytes.map (·.1)) := h.mono fun pa hpa => by
    obtain ⟨b, hb, rfl⟩ := List.mem_map.mp hpa
    exact List.mem_map.mpr ⟨b, mem_ownWrites hl hb, rfl⟩
  exact hsub.setLate fun v hv => (List.mem_filter.mp hv).1

/-- What the end of a command's writes comes to. -/
structure WritesMade (s t : State) (c : Nat) (m : Cmd) : Prop where
  steady : t.steady = s.steady
  mem : t.mem = Memory.putAll s.mem (((ownWrites s c m).filter fun x => !staysFar m.scope x.1).filter fun x => s.inSize x.1)
  underWay : underWay t c = ((underWay s c).filter fun l => !(l.job == m.ord)) ++
    slowWrites m.scope ((s.core c).late.filter fun l => l.job == m.ord)
  clean : NoDirty s c → NoDirty t c

theorem State.endWrites_made {m : Cmd} (hc : c < s.cores.length) (h : NoLate s ((ownWrites s c m).map (·.1))) :
    WritesMade s (s.endWrites c m.ord m.scope) c m := by
  set a := s.setCore c { s.core c with late := (s.core c).late.filter fun l => l.job != m.ord } with ha
  have hpass := landed_passes h
  have hacore : (a.core c).late = (s.core c).late.filter fun l => l.job != m.ord := by
    rw [ha, State.core_setCore_self _ _ _ hc]
  have hasteady : a.steady = s.steady := State.setLate_steady ..
  have hmem : (landed s c m.ord m.scope).mem =
      Memory.putAll s.mem (((ownWrites s c m).filter fun x => !staysFar m.scope x.1).filter fun x => s.inSize x.1) := by
    have hsize : (fun x : Nat × Byte => a.inSize x.1) = fun x => s.inSize x.1 := funext fun x => inSize_of_steady hasteady _
    rw [hpass.mem, hsize]
    rfl
  have hunder : Machine.underWay (landed s c m.ord m.scope) c = (Machine.underWay s c).filter fun l => !(l.job == m.ord) := by
    rw [hpass.underWay, Machine.underWay, hacore, Machine.underWay, List.filter_filter, List.filter_filter]
    exact List.filter_congr fun l _ => Bool.and_comm ..
  have hclean (hd : NoDirty s c) : NoDirty (landed s c m.ord m.scope) c := hpass.clean (State.setLate_clean _ hd)
  rw [State.endWrites_eq]
  dsimp only
  set slow := slowWrites m.scope ((s.core c).late.filter fun l => l.job == m.ord) with hslow
  set u := landed s c m.ord m.scope with hu
  split
  · next hnil => exact ⟨hpass.steady.trans hasteady, hmem, by rw [hunder, ← hslow, List.isEmpty_iff.mp hnil, List.append_nil], hclean⟩
  · have hall : NoLate u ((slow.flatMap (·.bytes)).map (·.1)) := by
      refine hpass.noLate _ (NoLate.setLate (h.mono fun pa hpa => ?_) fun v hv => (List.mem_filter.mp hv).1)
      obtain ⟨b, hb, rfl⟩ := List.mem_map.mp hpa
      obtain ⟨v, hv, hbv⟩ := List.mem_flatMap.mp hb
      obtain ⟨-, w, hw, hsub⟩ := mem_slowWrites hv
      exact List.mem_map.mpr ⟨b, mem_ownWrites hw (hsub b hbv), rfl⟩
    rw [State.settleBytes_of_noLate hall]
    have hput := Passes.cachePut (s := u) (c := c) (slow.flatMap (·.bytes))
    set v := u.cachePut c (slow.flatMap (·.bytes)) false with hv
    refine ⟨(State.setLate_steady _).trans (hput.steady.trans (hpass.steady.trans hasteady)), ?_, ?_,
      fun hd => State.setLate_clean _ (hput.clean (hclean hd))⟩
    · exact hput.mem.trans hmem
    · have hvlen : c < v.cores.length := by
        rw [cores_length_of_steady hput.steady, cores_length_of_steady hpass.steady, cores_length_of_steady hasteady]
        exact hc
      have hfull : slow.filter (fun l => !l.bytes.isEmpty) = slow :=
        List.filter_eq_self.mpr fun l hl => by simpa using (mem_slowWrites hl).1
      have hvunder : Machine.underWay v c = (Machine.underWay s c).filter fun l => !(l.job == m.ord) :=
        hput.underWay.trans hunder
      unfold Machine.underWay at hvunder ⊢
      rw [State.core_setCore_self _ _ _ hvlen, List.filter_append, hvunder, hfull]

/-- The end of a command from a state that holds the same memory and writes under way: its writes come to rest as its scope
asks, and its tag is DONE. -/
theorem endWrites_complete {d : State} {m : Cmd} (hc : c < d.cores.length) (hmem : d.mem = s.mem)
    (hsize : ∀ pa, d.inSize pa = s.inSize pa) (hlate : (d.core c).late = (s.core c).late) (hok : s.memOk)
    (hno : NoLate d ((ownWrites d c m).map (·.1))) (hrel : m.scope < 2 ∨ NoDirty d c)
    (htags : (d.core c).ctags.length = 64) :
    let t := (d.endWrites c m.ord m.scope).complete c m .none
    t.parts = d.parts ∧ (t.core c).fabric = (d.core c).fabric ∧ (t.core c).cmds = (d.core c).cmds ∧ TagDone t c m ∧
      WritesEnd s t c m := by
  obtain ⟨hsteady, hwmem, hunder, hclean⟩ := State.endWrites_made hc hno
  set e := d.endWrites c m.ord m.scope with he
  have hrel' : m.scope < 2 ∨ NoDirty e c := hrel.imp_right hclean
  have hkept : EngineKept e (e.complete c m .none) c := .complete hrel'
  have hown : ownWrites d c m = ownWrites s c m := by rw [ownWrites, hlate, ownWrites]
  have htmem : (e.complete c m .none).mem =
      Memory.putAll s.mem (((ownWrites s c m).filter fun x => !staysFar m.scope x.1).filter fun x => s.inSize x.1) := by
    have hsizes : (fun x : Nat × Byte => d.inSize x.1) = fun x => s.inSize x.1 := funext fun x => hsize x.1
    rw [hkept.store.1, hwmem, hown, hmem, hsizes]
  have hget (pa : Nat) : Memory.get (e.complete c m .none).mem pa =
      (if s.inSize pa && !staysFar m.scope pa then lastWrite (ownWrites s c m) pa else none).getD (Memory.get s.mem pa) := by
    rw [htmem, Memory.get_putAll _ _ hok, lastWrite_filter, lastWrite_filter (fun pa => !staysFar m.scope pa)]
    cases s.inSize pa <;> rfl
  refine ⟨hkept.store.2.trans (parts_of_steady hsteady), ?_, hkept.cmds.trans (cmds_of_steady hsteady c), ?_, ⟨?_, ?_⟩, ?_⟩
  · rw [State.complete_fabric, fabric_of_steady hsteady]
  · exact State.complete_tagDone (by rwa [cores_length_of_steady hsteady]) (by rwa [ctags_of_steady hsteady])
  · intro a ha
    have hnone : lastWrite (ownWrites s c m) a = none :=
      lastWrite_eq_none.mpr fun x hx hxa => ha (List.mem_map.mpr ⟨x, hx, hxa⟩)
    rw [hget, hnone, ite_self]
    rfl
  · intro pa hpa b hb
    have hfar : staysFar m.scope pa = true ↔ m.scope < 3 ∧ cacheable pa = true := by simp [staysFar]
    refine ⟨fun h => ?_, fun h => ?_⟩
    · simp [hget, hfar.mpr h]
    · have hnot : staysFar m.scope pa = false := Bool.eq_false_iff.mpr fun ht => h (hfar.mp ht)
      simp [hget, hnot, hpa, hb]
  · have htunder : Machine.underWay (e.complete c m .none) c = Machine.underWay e c := by
      unfold State.complete
      rw [Machine.underWay, State.finishTag_core_field Core.late fun _ _ => rfl]
      exact (Passes.releaseAt hrel').underWay
    have hdunder : Machine.underWay d c = Machine.underWay s c := by rw [Machine.underWay, hlate, Machine.underWay]
    rw [htunder, hunder, hdunder, hlate, slowWrites_eq]
    rfl

end

end Sys2Proof.Machine
end

section
/-! SUPPORT. What a running streamer command writes (R239-R241). -/

namespace Sys2Proof.Machine

/-! ## Runs without a data error -/

section
variable {s0 : State} {c : Nat} {i : Instr} {f : Firing}

/-- The bytes of one element of a CPY or CPYFILL. -/
def elemBytes (i : Instr) (f : Firing) (a : SAcc) (src : List Byte) : List Byte :=
  match i, a.rd with
  | .cpy w, some _ => cpyElem w f src
  | .cpyfill _, _ => fillElem f
  | _, _ => List.replicate a.wr.2 0

/-- The bytes that an element reads, the first of its physical bytes. -/
def SAcc.reads (a : SAcc) : Nat := (a.rd.map (·.2)).getD 0

theorem runElems_cons (hb : ∀ pa, s0.badIsland c pa = false) (a : SAcc) (rest : List SAcc) (pas : List Nat) (r : Run) :
    runElems i f c s0 (a :: rest) pas r = runElems i f c s0 rest ((pas.drop a.reads).drop a.wr.2)
      (r.put s0 (List.zip ((pas.drop a.reads).take a.wr.2) (elemBytes i f a ((pas.take a.reads).map (r.byte s0 c))))) := by
  have hnone : (pas.take a.reads).find? (s0.badIsland c) = none := List.find?_eq_none.mpr fun pa _ => by simp [hb pa]
  conv_lhs => unfold runElems
  unfold SAcc.reads at hnone ⊢
  dsimp only
  rw [hnone]
  rfl

theorem Run.mem_put {r : Run} {l : List (Nat × Byte)} {x : Nat × Byte} (h : x ∈ (r.put s0 l).out) : x ∈ l ∨ x ∈ r.out := by
  rcases List.mem_append.mp h with h | h
  · exact .inl (List.mem_filter.mp (List.mem_reverse.mp h)).1
  · exact .inr h

theorem runElems_clean (hb : ∀ pa, s0.badIsland c pa = false) (accs : List SAcc) (pas : List Nat) (r : Run)
    (hr : r.bad = none) :
    (runElems i f c s0 accs pas r).bad = none ∧ ∀ x ∈ (runElems i f c s0 accs pas r).out, x.1 ∈ pas ∨ x ∈ r.out := by
  induction accs generalizing pas r with
  | nil => exact ⟨hr, fun x hx => .inr hx⟩
  | cons a rest ih =>
    rw [runElems_cons hb]
    set left := (pas.drop a.reads).drop a.wr.2 with hleft
    set r' := r.put s0 (List.zip ((pas.drop a.reads).take a.wr.2) (elemBytes i f a ((pas.take a.reads).map (r.byte s0 c)))) with hr'
    obtain ⟨hbad, hout⟩ := ih left r' hr
    refine ⟨hbad, fun x hx => ?_⟩
    rcases hout x hx with hx | hx
    · exact .inl (List.mem_of_mem_drop (List.mem_of_mem_drop hx))
    · rcases Run.mem_put hx with hx | hx
      · exact .inl (List.mem_of_mem_drop (List.mem_of_mem_take (List.of_mem_zip (a := x.1) (b := x.2) hx).1))
      · exact .inr hx

theorem runRot_clean (w : EWord) (hb : ∀ pa, s0.badIsland c pa = false) (n v : Nat) (pas : List Nat) (r : Run)
    (hr : r.bad = none) :
    (runRot w f c s0 n v pas r).bad = none ∧ ∀ x ∈ (runRot w f c s0 n v pas r).out, x.1 ∈ pas ∨ x ∈ r.out := by
  induction n generalizing v pas r with
  | zero => exact ⟨hr, fun x hx => .inr hx⟩
  | succ n ih =>
    have hnone (l : List Nat) : l.find? (s0.badIsland c) = none := List.find?_eq_none.mpr fun pa _ => by simp [hb pa]
    rw [runRot]
    dsimp only
    set d := dfield f 26 2
    set es := fmtSize (dfield f 36 1)
    refine ⟨(ih _ _ _ ?_).1, fun x hx => ?_⟩
    · simp [hr, hnone]
    · rcases (ih _ _ _ (by simp [hr, hnone])).2 x hx with hx | hx
      · exact .inl (List.mem_of_mem_drop hx)
      · rcases List.mem_append.mp hx with hx | hx
        · obtain ⟨j, -, hx⟩ := List.mem_flatMap.mp (List.mem_reverse.mp hx)
          have hin (k : Nat) (bs : List Byte) (h : x ∈ List.zip ((pas.drop (2 * es * k)).take es) bs) : x.1 ∈ pas :=
            List.mem_of_mem_drop (List.mem_of_mem_take (List.of_mem_zip (a := x.1) (b := x.2) h).1)
          simp only [hnone, Option.isSome_none, Bool.or_self, Bool.false_eq_true, if_false] at hx
          rcases List.mem_append.mp hx with hx | hx
          · exact .inl (hin _ _ hx)
          · exact .inl (hin _ _ hx)
        · exact .inr hx

/-! ## Runs of which no byte appears twice -/

/-- The writes of a CPY or CPYFILL, element by element, from the bytes that the command reads. -/
def elemWrites (i : Instr) (f : Firing) (byte : Nat → Byte) : List SAcc → List Nat → List (Nat × Byte)
  | [], _ => []
  | a :: rest, pas =>
    List.zip ((pas.drop a.reads).take a.wr.2) (elemBytes i f a ((pas.take a.reads).map byte)) ++
      elemWrites i f byte rest ((pas.drop a.reads).drop a.wr.2)

theorem zip_keys_sublist (l : List Nat) (bs : List Byte) : ((List.zip l bs).map (·.1)).Sublist l := by
  induction l generalizing bs with
  | nil => simp
  | cons a l ih =>
    cases bs with
    | nil => simp
    | cons b bs => simpa using ih bs

theorem elemWrites_keys (byte : Nat → Byte) (accs : List SAcc) (pas : List Nat) :
    ((elemWrites i f byte accs pas).map (·.1)).Sublist pas := by
  induction accs generalizing pas with
  | nil => exact List.nil_sublist _
  | cons a rest ih =>
    have hrest := ih ((pas.drop a.reads).drop a.wr.2)
    rw [elemWrites, List.map_append]
    have hdrop := (zip_keys_sublist ((pas.drop a.reads).take a.wr.2)
      (elemBytes i f a ((pas.take a.reads).map byte))).append hrest
    rw [List.take_append_drop] at hdrop
    exact hdrop.trans (List.drop_sublist ..)

theorem Run.written_eq_none {r : Run} {pa : Nat} : r.written pa = none ↔ ∀ x ∈ r.out, x.1 ≠ pa := by
  simp [Run.written]

/-- Where no byte appears twice, the bytes read are the prior ones and every write is kept. -/
theorem runElems_out (hb : ∀ pa, s0.badIsland c pa = false) (accs : List SAcc) (pas : List Nat) (r : Run) (hn : pas.Nodup)
    (hw : ∀ pa ∈ pas, r.written pa = none) :
    (runElems i f c s0 accs pas r).out =
      (elemWrites i f (fun pa => (lastWrite r.got pa).getD (s0.readEngine c pa)) accs pas).reverse ++ r.out := by
  induction accs generalizing pas r with
  | nil => rfl
  | cons a rest ih =>
    set dst := (pas.drop a.reads).take a.wr.2 with hdst
    set left := (pas.drop a.reads).drop a.wr.2 with hleft
    have hsrc : (pas.take a.reads).map (r.byte s0 c) =
        (pas.take a.reads).map fun pa => (lastWrite r.got pa).getD (s0.readEngine c pa) :=
      List.map_congr_left fun pa hpa => by simp [Run.byte, hw pa (List.mem_of_mem_take hpa), Run.prior]
    set bs := elemBytes i f a ((pas.take a.reads).map fun pa => (lastWrite r.got pa).getD (s0.readEngine c pa)) with hbs
    have hput : r.put s0 (List.zip dst bs) = { r with out := (List.zip dst bs).reverse ++ r.out } := by
      have hall : (List.zip dst bs).filter (fun x => !((r.written x.1).isSome && Config.eitherOf (s0.draw + 1) (x.1 / 16))) =
          List.zip dst bs := List.filter_eq_self.mpr fun x hx => by
        have hx1 : x.1 ∈ pas := List.mem_of_mem_drop (List.mem_of_mem_take (List.of_mem_zip (a := x.1) (b := x.2) hx).1)
        simp [hw x.1 hx1]
      unfold Run.put
      dsimp only
      rw [hall]
    have hparts : dst ++ left = pas.drop a.reads := List.take_append_drop ..
    have hdisj : ∀ pa ∈ left, pa ∉ dst := by
      have hnd : (dst ++ left).Nodup := hparts ▸ hn.sublist (List.drop_sublist ..)
      exact fun pa hl hd => (List.nodup_append.mp hnd).2.2 pa hd pa hl rfl
    rw [runElems_cons hb, hsrc, hput, ih left _ (hn.sublist ((List.drop_sublist ..).trans (List.drop_sublist ..))) ?_, elemWrites]
    · simp only [List.reverse_append, List.append_assoc]
      rfl
    · intro pa hpa
      rw [Run.written_eq_none]
      intro x hx
      rcases List.mem_append.mp hx with hx | hx
      · rintro rfl
        exact hdisj _ hpa (List.of_mem_zip (a := x.1) (b := x.2) (List.mem_reverse.mp hx)).1
      · exact Run.written_eq_none.mp (hw pa (List.mem_of_mem_drop (List.mem_of_mem_drop hpa))) x hx

/-! ## One element of equal ones -/

/-- The writes of element `e`, where each element reads `n` bytes and writes `k`. -/
theorem mem_elemWrites (byte : Nat → Byte) {n k : Nat} {accs : List SAcc} (ha : ∀ a ∈ accs, a.reads = n ∧ a.wr.2 = k)
    {pas : List Nat} {e : Nat} {a : SAcc} (he : accs[e]? = some a) {x : Nat × Byte}
    (hx : x ∈ List.zip ((pas.drop ((n + k) * e + n)).take k) (elemBytes i f a (((pas.drop ((n + k) * e)).take n).map byte))) :
    x ∈ elemWrites i f byte accs pas := by
  induction accs generalizing pas e with
  | nil => simp at he
  | cons b rest ih =>
    obtain ⟨hn, hk⟩ := ha b List.mem_cons_self
    rw [elemWrites, hn, hk]
    cases e with
    | zero =>
      obtain rfl : b = a := by simpa using he
      exact List.mem_append_left _ (by simpa using hx)
    | succ e =>
      refine List.mem_append_right _ (ih (fun a h => ha a (List.mem_cons_of_mem _ h)) (by simpa using he) ?_)
      have hdrop (j : Nat) : ((pas.drop n).drop k).drop j = pas.drop (n + k + j) := by
        rw [List.drop_drop, List.drop_drop, Nat.add_assoc]
      rw [hdrop, hdrop]
      have h1 : n + k + ((n + k) * e + n) = (n + k) * (e + 1) + n := by ring
      have h2 : n + k + (n + k) * e = (n + k) * (e + 1) := by ring
      rwa [h1, h2]

theorem lastWrite_of_nodup {l : List (Nat × Byte)} {pa : Nat} {b : Byte} (hn : (l.map (·.1)).Nodup) (h : (pa, b) ∈ l) :
    lastWrite l pa = some b := by
  obtain ⟨v, hv⟩ := Option.ne_none_iff_exists'.mp (lastWrite_isSome_iff.mpr ⟨b, h⟩)
  have hinj := List.inj_on_of_nodup_map hn (mem_of_lastWrite hv) h rfl
  rw [hv, (Prod.mk.inj hinj).2]

theorem zip_getD_mem {l : List Nat} {bs : List Byte} {j : Nat} (hl : j < l.length) (hb : j < bs.length) :
    (l.getD j 0, bs.getD j 0) ∈ List.zip l bs := by
  rw [List.getD_eq_getElem _ _ hl, List.getD_eq_getElem _ _ hb]
  have hlen : j < (List.zip l bs).length := by simp [hl, hb]
  rw [← List.getElem_zip (h := hlen)]
  exact List.getElem_mem hlen

end

end Sys2Proof.Machine
end

section
/-! SUPPORT. The streamer: issue, acceptance, writes and completion (R237-R243). -/

namespace Sys2Proof.Machine

/-! ## Issue -/

theorem startsStream_of {mk : EWord → Instr} (hexec : ∀ w s, exec (mk w) s = startStream s (mk w) w) : StartsStream mk := by
  intro w s f hr hstall
  obtain ⟨hsel, hf, hd⟩ := hr
  have hrun : exec (mk w) s = .next (issue s (mk w) w f (scopeLow w) fun s t =>
      s.addCmd f.core (mkCmd (mk w) f 33 t (scopeLow w))) := by
    rw [hexec, startStream, fireAs_run _ _ _ _ _ hsel hf hd, hstall]
    rfl
  refine ⟨fun ht => ?_, fun ht => ?_⟩ <;> rw [hrun, issue, ht] <;> rfl

/-! ## Acceptance -/

section
variable {s : State} {c n : Nat} {m : Cmd}

/-- What a command of a block that was not squashed sends. -/
theorem State.cmdEmit_sent (k : Kind) (v : Val) (hk : k.isFault = false) (horph : m.orphan = false) (hcore : m.f.core = c)
    (hc : c < s.cores.length) :
    EngineKept s (s.cmdEmit m k v) c ∧ ((s.cmdEmit m k v).core c).ctags = (s.core c).ctags ∧
      Received s (s.cmdEmit m k v) c (sentBy (srcIsland m.port)
        (deliveries s m.f (instrTargets m.i).1 (instrTargets m.i).2 ⟨m.f.tag, k, v⟩)) := by
  subst hcore
  have hrun (u : State) (hus : u.steady = s.steady) (hkept : EngineKept s u m.f.core) :
      EngineKept s (u.emitFrom (srcIsland m.port) m.f (instrTargets m.i).1 (instrTargets m.i).2 k v) m.f.core ∧
        ((u.emitFrom (srcIsland m.port) m.f (instrTargets m.i).1 (instrTargets m.i).2 k v).core m.f.core).ctags =
          (s.core m.f.core).ctags ∧
        Received s (u.emitFrom (srcIsland m.port) m.f (instrTargets m.i).1 (instrTargets m.i).2 k v) m.f.core
          (sentBy (srcIsland m.port) (deliveries s m.f (instrTargets m.i).1 (instrTargets m.i).2 ⟨m.f.tag, k, v⟩)) := by
    rw [State.emitFrom_eq _ _ _ _ _ _ (.inl hk), deliveries_of_steady hus]
    refine ⟨hkept.trans (.withTokens ..), ?_, received_withTokens _ (hkept.length ▸ hc) (fabric_of_steady hus _)⟩
    rw [State.withTokens_ctags, ctags_of_steady hus]
  unfold State.cmdEmit
  rw [horph]
  dsimp only
  rw [if_neg (by simp)]
  split
  · exact hrun _ (State.keep_steady ..) (.keep ..)
  · exact hrun s rfl (.refl ..)

theorem State.ordered_core_field {α : Type} (g : Core → α) (hg : ∀ k l, g { k with ordLast := l } = g k) (d : Nat) :
    g ((s.ordered c m).core d) = g (s.core d) := by
  unfold State.ordered
  split
  · exact State.setCore_core_field g _ _ _ _ (hg _ _)
  · rfl

theorem State.ordered_store : SameStore s (s.ordered c m) := by
  unfold State.ordered
  split <;> exact ⟨rfl, rfl⟩

theorem State.ordered_length : (s.ordered c m).cores.length = s.cores.length := by
  unfold State.ordered
  split
  · simp [State.takeOrd]
  · rfl

/-- The order number that an accepted command has (R249). -/
def acceptOrd (s : State) (c : Nat) (m : Cmd) : Nat := if m.ord = 0 then (s.core c).ordLast + 1 else m.ord

theorem State.dropCmd_core_field {α : Type} (g : Core → α) (hg : ∀ k l, g { k with cmds := l } = g k) (k d : Nat) :
    g ((s.dropCmd c k).core d) = g (s.core d) := State.setCore_core_field g _ _ _ _ (hg _ _)

theorem State.setCmd_core_field {α : Type} (g : Core → α) (hg : ∀ k l, g { k with cmds := l } = g k) (k d : Nat) :
    g ((s.setCmd c k m).core d) = g (s.core d) := State.setCore_core_field g _ _ _ _ (hg _ _)

theorem execStreamerAccept_eq (hn : s.nextSent c 33 = some n) (hm : s.cmd? c n = some m)
    (hroom : ((s.core c).cmds.filter fun o => o.port == 33 && (o.st == .accepted || o.st == .started)).length < 20)
    (hwalk : s.walkStalls c (accVas (accsOf m.i m.f)) = false) :
    exec (.streamerAccept c) s = .next (acceptStream s c n m) := by
  have hlen : ¬ 20 ≤ ((s.core c).cmds.filter Cmd.streams).length := Nat.not_le.mpr hroom
  rw [exec_streamerAccept]
  simp [execStreamerAccept, hn, hm, hlen, hwalk]

/-- One whose descriptor is bad ends at once with its status. -/
theorem acceptStream_bad (hst : descStatus m.i m.f ≠ 0) : acceptStream s c n m =
    (((s.ordered c m).dropCmd c n).cmdEmit { m with ord := acceptOrd s c m } .data (scNat (descStatus m.i m.f))).complete c
      { m with ord := acceptOrd s c m } .none := by
  unfold acceptStream State.ordered acceptOrd
  by_cases h : m.ord = 0 <;> simp only [h, if_true, if_false] <;> rw [if_pos hst] <;> rfl

/-- One whose checks pass is accepted with its bytes. -/
theorem acceptStream_ok {pas : List Nat} (hst : descStatus m.i m.f = 0)
    (hchk : ((s.ordered c m).fillTlb c (accVas (accsOf m.i m.f))).checkAccs c (accsOf m.i m.f) = .ok pas) :
    ∃ marks, acceptStream s c n m =
      ((((s.ordered c m).fillTlb c (accVas (accsOf m.i m.f))).setCmd c n
        { m with st := .accepted, pas, frozen := false, ord := acceptOrd s c m }).markLines marks).cmdEmit
          { m with ord := acceptOrd s c m } .data (.sc 0) := by
  unfold acceptStream State.ordered acceptOrd at *
  by_cases h : m.ord = 0
  · simp only [h, if_true] at hchk ⊢
    rw [if_neg (by simpa using hst), hchk]
    exact ⟨_, rfl⟩
  · simp only [h, if_false] at hchk ⊢
    rw [if_neg (by simpa using hst), hchk]
    exact ⟨_, rfl⟩

theorem streamerAccept_bad (hm : s.cmd? c n = some m) (hp : PlainCmd s c m) (hst : descStatus m.i m.f ≠ 0) :
    SameStore s (acceptStream s c n m) ∧ CmdsAre (acceptStream s c n m) c ((s.core c).cmds.eraseIdx n) ∧
      TagDone (acceptStream s c n m) c m ∧
      CmdSent s (acceptStream s c n m) c m .data (.sc (BitVec.ofNat 64 (descStatus m.i m.f))) := by
  obtain ⟨horph, hrel, hcore, htags⟩ := hp
  have hc := State.cmd_range hm
  set o := s.ordered c m with ho
  set d := o.dropCmd c n with hd
  have hfield {α : Type} (g : Core → α) (hcmds : ∀ k l, g { k with cmds := l } = g k)
      (hord : ∀ k l, g { k with ordLast := l } = g k) : g (d.core c) = g (s.core c) :=
    (State.dropCmd_core_field g hcmds ..).trans (State.ordered_core_field g hord c)
  have holen : c < o.cores.length := by rwa [ho, State.ordered_length]
  have hdlen : c < d.cores.length := by simpa [hd, State.dropCmd] using holen
  have hdcmds : (d.core c).cmds = (s.core c).cmds.eraseIdx n := by
    rw [hd, State.dropCmd, State.core_setCore_self _ _ _ holen]
    exact congrArg (·.eraseIdx n) (State.ordered_core_field Core.cmds (fun _ _ => rfl) c)
  set m' : Cmd := { m with ord := acceptOrd s c m } with hm'
  obtain ⟨hkept, hctags, hsent⟩ := State.cmdEmit_sent (s := d) (m := m') (c := c) .data (scNat (descStatus m.i m.f)) rfl horph
    hcore hdlen
  set e := d.cmdEmit m' .data (scNat (descStatus m.i m.f)) with he
  have hclean (h : NoDirty s c) : NoDirty d c := by
    rwa [NoDirty, hfield Core.cache (fun _ _ => rfl) fun _ _ => rfl]
  have hend : EngineKept e (e.complete c m' .none) c := .complete (hrel.imp_right fun h => hkept.clean (hclean h))
  have htaglen : (e.core c).ctags.length = 64 := by rw [hctags, hfield Core.ctags (fun _ _ => rfl) fun _ _ => rfl, htags]
  rw [acceptStream_bad hst]
  refine ⟨⟨?_, ?_⟩, ?_, ?_, ?_⟩
  · exact (hend.store.1.trans hkept.store.1).trans State.ordered_store.1
  · exact (hend.store.2.trans hkept.store.2).trans State.ordered_store.2
  · exact (hend.cmds.trans hkept.cmds).trans hdcmds
  · exact State.complete_tagDone (m := m') (hkept.length ▸ hdlen) htaglen
  · subst hcore
    rw [CmdSent, Received, State.complete_fabric]
    rw [deliveries_congr (hfield Core.elems (fun _ _ => rfl) fun _ _ => rfl), Received,
      hfield Core.fabric (fun _ _ => rfl) fun _ _ => rfl] at hsent
    exact hsent

theorem streamerAccept_ok {pas : List Nat} (hm : s.cmd? c n = some m) (hp : PlainCmd s c m) (hst : descStatus m.i m.f = 0)
    (hchk : ((s.ordered c m).fillTlb c (accVas (accsOf m.i m.f))).checkAccs c (accsOf m.i m.f) = .ok pas) :
    SameStore ((s.ordered c m).fillTlb c (accVas (accsOf m.i m.f))) (acceptStream s c n m) ∧
      CmdsAre (acceptStream s c n m) c ((s.core c).cmds.set n
        { m with st := .accepted, pas, frozen := false, ord := acceptOrd s c m }) ∧
      CmdSent s (acceptStream s c n m) c m .data (.sc 0) := by
  obtain ⟨horph, hrel, hcore, htags⟩ := hp
  have hc := State.cmd_range hm
  obtain ⟨marks, hrun⟩ := acceptStream_ok (n := n) hst hchk
  set o := s.ordered c m with ho
  set u := o.fillTlb c (accVas (accsOf m.i m.f)) with hu
  set a : Cmd := { m with st := .accepted, pas, frozen := false, ord := acceptOrd s c m } with ha
  set v := (u.setCmd c n a).markLines marks with hv
  have hus : u.steady = o.steady := State.fillTlb_steady ..
  have hvs : v.steady = (u.setCmd c n a).steady := State.markLines_steady ..
  have hulen : c < u.cores.length := by rwa [cores_length_of_steady hus, ho, State.ordered_length]
  have hvlen : c < v.cores.length := by
    rw [cores_length_of_steady hvs]
    simpa [State.setCmd] using hulen
  have hvcmds : (v.core c).cmds = (s.core c).cmds.set n a := by
    rw [cmds_of_steady hvs, State.setCmd, State.core_setCore_self _ _ _ hulen]
    exact congrArg (·.set n a) ((cmds_of_steady hus c).trans (State.ordered_core_field Core.cmds (fun _ _ => rfl) c))
  have hvelems : (v.core c).elems = (s.core c).elems :=
    (elems_of_steady hvs c).trans ((State.setCmd_core_field Core.elems (fun _ _ => rfl) ..).trans
      ((elems_of_steady hus c).trans (State.ordered_core_field Core.elems (fun _ _ => rfl) c)))
  have hvfabric : (v.core c).fabric = (s.core c).fabric :=
    (fabric_of_steady hvs c).trans ((State.setCmd_core_field Core.fabric (fun _ _ => rfl) ..).trans
      ((fabric_of_steady hus c).trans (State.ordered_core_field Core.fabric (fun _ _ => rfl) c)))
  obtain ⟨hkept, -, hsent⟩ := State.cmdEmit_sent (s := v) (m := { m with ord := acceptOrd s c m }) (c := c) .data (.sc 0) rfl
    horph hcore hvlen
  rw [hrun]
  refine ⟨hkept.store, hkept.cmds.trans hvcmds, ?_⟩
  subst hcore
  rw [deliveries_congr hvelems, Received, hvfabric] at hsent
  exact hsent

end

end Sys2Proof.Machine
end

section
/-! SUPPORT. Settling the streamer's obligation (R239-R243). -/

namespace Sys2Proof.Machine

/-! ## What a command of the streamer writes -/

section
variable {s : State} {c k : Nat} {m : Cmd}

theorem badIsland_of_no_errors (h : s.bad = []) (pa : Nat) : s.badIsland c pa = false := by
  simp [State.badIsland, State.isBad, h]

/-- With no uncorrectable error in memory a command meets none, and writes only its checked bytes. -/
theorem runStream_clean (h : s.bad = []) :
    (runStream s c m).bad = none ∧ ∀ x ∈ (runStream s c m).out, x.1 ∈ m.pas := by
  have hb := badIsland_of_no_errors (c := c) h
  unfold runStream
  split
  · obtain ⟨hbad, hout⟩ := runRot_clean _ hb _ _ _ ⟨m.got, [], none⟩ rfl
    exact ⟨hbad, fun x hx => (hout x hx).resolve_right (by simp)⟩
  · obtain ⟨hbad, hout⟩ := runElems_clean hb _ _ ⟨m.got, [], none⟩ rfl
    exact ⟨hbad, fun x hx => (hout x hx).resolve_right (by simp)⟩

/-- Where no byte appears twice, a CPY or CPYFILL writes its elements in turn. -/
theorem runStream_elems (h : s.bad = []) (hi : ∀ w, m.i ≠ .cpyrot w) (hn : m.pas.Nodup) :
    (runStream s c m).out.reverse = elemWrites m.i m.f (s.cmdByte c m) (accsOf m.i m.f) m.pas := by
  have hrun : runStream s c m = runElems m.i m.f c s (accsOf m.i m.f) m.pas ⟨m.got, [], none⟩ := by
    unfold runStream
    split
    · exact absurd ‹_› (hi _)
    · rfl
  rw [hrun, runElems_out (badIsland_of_no_errors h) _ _ _ hn fun pa _ => Run.written_eq_none.mpr (by simp)]
  simp only [List.append_nil, List.reverse_reverse]
  rfl

theorem State.streamWrites_eq (h : s.bad = []) : s.streamWrites c k m =
    (({ s with draw := s.draw + 2 } : State).setCmd c k { m with st := .started, status := 0, j := 0, p := 0 }).beginWrites c
      m.ord (runStream s c m).out.reverse := by
  unfold State.streamWrites
  dsimp only
  rw [(runStream_clean h).1]
  rfl

theorem State.beginWrites_core_field {α : Type} (g : Core → α) (hg : ∀ k l, g { k with late := l } = g k) (job d : Nat)
    (l : List (Nat × Byte)) : g ((s.beginWrites c job l).core d) = g (s.core d) := by
  unfold State.beginWrites
  split
  · rfl
  · exact State.setCore_core_field g _ _ _ _ (hg _ _)

theorem State.beginWrites_store (job : Nat) (l : List (Nat × Byte)) : SameStore s (s.beginWrites c job l) := by
  unfold State.beginWrites
  split <;> exact ⟨rfl, rfl⟩

theorem State.underWay_beginWrites (job : Nat) (l : List (Nat × Byte)) (hc : c < s.cores.length) :
    underWay (s.beginWrites c job l) c = underWay s c ++ (if l = [] then [] else [⟨4, job, l, zeroLines l⟩]) := by
  unfold State.beginWrites
  split
  · next h => simp [List.isEmpty_iff.mp h]
  · next h =>
    have hne : l ≠ [] := fun hl => h (by simp [hl])
    unfold underWay
    rw [State.core_setCore_self _ _ _ hc, if_neg hne]
    simp [List.filter_append, hne]

theorem execStreamerCompletion_accepted (hm : s.cmd? c k = some m) (hport : m.port = 33) (hst : m.st = .accepted)
    (hruns : (s.core c).streamRuns k = true) (hlink : s.linkDown c m.pas = false) :
    exec (.streamerCompletion c k) s = .next (s.streamWrites c k m) := by
  rw [exec_streamerCompletion]
  simp [execStreamerCompletion, hm, hport, hst, hruns, hlink]

theorem execStreamerCompletion_started (hm : s.cmd? c k = some m) (hport : m.port = 33) (hst : m.st = .started)
    (hstatus : m.status = 0) (hruns : (s.core c).streamRuns k = true) (hlink : s.linkDown c m.pas = false) :
    exec (.streamerCompletion c k) s = .next (((s.dropCmd c k).endWrites c m.ord m.scope).complete c m .none) := by
  rw [exec_streamerCompletion]
  simp [execStreamerCompletion, hm, hport, hst, hruns, hlink, hstatus, State.streamEnds]

/-- A running command begins its writes: nothing else changes but its own state. -/
theorem streamWrites_begins (hm : s.cmd? c k = some m) (h : s.bad = []) :
    SameStore s (s.streamWrites c k m) ∧ Received s (s.streamWrites c k m) c [] ∧
      CmdsAre (s.streamWrites c k m) c ((s.core c).cmds.set k { m with st := .started, status := 0, j := 0, p := 0 }) ∧
      WritesBegin s (s.streamWrites c k m) c m (runStream s c m).out.reverse := by
  have hc := State.cmd_range hm
  set a : Cmd := { m with st := .started, status := 0, j := 0, p := 0 } with ha
  set u := ({ s with draw := s.draw + 2 } : State).setCmd c k a with hu
  have hulen : c < u.cores.length := by simpa [hu, State.setCmd] using hc
  have hucore : u.core c = { s.core c with cmds := (s.core c).cmds.set k a } := State.core_setCore_self _ _ _ hc
  rw [State.streamWrites_eq h]
  refine ⟨State.beginWrites_store ..  , received_nil ?_, ?_, ?_⟩
  · rw [State.beginWrites_core_field Core.fabric (fun _ _ => rfl), hucore]
  · rw [CmdsAre, State.beginWrites_core_field Core.cmds (fun _ _ => rfl), hucore]
  · rw [WritesBegin, State.underWay_beginWrites _ _ hulen, underWay, hucore]
    rfl

/-! ## Elements of CPY and CPYFILL -/

theorem getD_take_drop (l : List Nat) {i j n : Nat} (h : j < n) : ((l.drop i).take n).getD j 0 = l.getD (i + j) 0 := by
  simp [List.getD_eq_getElem?_getD, h]

theorem length_take_drop {l : List Nat} {i n : Nat} (h : i + n ≤ l.length) : ((l.drop i).take n).length = n := by
  simp
  omega

/-- The writes of element `e` are the last to their bytes, where no byte appears twice. -/
theorem lastWrite_elem {i : Instr} {f : Firing} {byte : Nat → Byte} {n w : Nat} {accs : List SAcc} {pas : List Nat}
    (ha : ∀ a ∈ accs, a.reads = n ∧ a.wr.2 = w) (hn : pas.Nodup) (hlen : pas.length = (n + w) * accs.length) {e j : Nat}
    (he : e < accs.length) (hj : j < w) {bs : List Byte}
    (hbs : ∀ a ∈ accs, elemBytes i f a (((pas.drop ((n + w) * e)).take n).map byte) = bs) (hb : j < bs.length) :
    lastWrite (elemWrites i f byte accs pas) (pas.getD ((n + w) * e + n + j) 0) = some (bs.getD j 0) := by
  have hroom : (n + w) * e + n + w ≤ pas.length := by
    rw [hlen]
    calc (n + w) * e + n + w = (n + w) * (e + 1) := by ring
      _ ≤ (n + w) * accs.length := Nat.mul_le_mul_left _ he
  refine lastWrite_of_nodup (hn.sublist (elemWrites_keys ..)) (mem_elemWrites byte ha (List.getElem?_eq_getElem he) ?_)
  rw [hbs _ (List.getElem_mem he), ← getD_take_drop _ hj]
  exact zip_getD_mem (by rw [length_take_drop hroom]; exact hj) hb

theorem fillElem_length (f : Firing) : (fillElem f).length = fmtSize (dfield f 37 1) := by
  unfold fillElem
  split
  · next h =>
    rw [h, List.length_flatten, List.map_replicate, natBytes_length, List.sum_replicate]
    rfl
  · exact natBytes_length ..

theorem fillAccs_sizes {f : Firing} {a : SAcc} (h : a ∈ fillAccs f) : a.reads = 0 ∧ a.wr.2 = fmtSize (dfield f 37 1) := by
  obtain ⟨r, -, ha⟩ := List.mem_flatMap.mp h
  obtain ⟨x, -, rfl⟩ := List.mem_map.mp ha
  exact ⟨rfl, rfl⟩

theorem cpyAccs_sizes {w : EWord} {f : Firing} {a : SAcc} (h : a ∈ cpyAccs w f) (hrd : a.rd.isSome = true) :
    a.reads = fmtSize (dfield f 36 1) ∧ a.wr.2 = fmtSize (dfield f 37 1) := by
  obtain ⟨r, -, ha⟩ := List.mem_flatMap.mp h
  obtain ⟨x, -, ha⟩ := List.mem_filterMap.mp ha
  dsimp only at ha
  split at ha
  · cases ha
  · cases ha
    split at hrd
    · next hin => simp [SAcc.reads, hin]
    · simp at hrd

/-- A CPYFILL writes its value into every element (R240). -/
theorem streamWrites_fill {w : EWord} (h : s.bad = []) (hi : m.i = .cpyfill w) (hn : m.pas.Nodup)
    (hlen : m.pas.length = ((accsOf m.i m.f).map fun a => a.wr.2).sum) {e j : Nat} (he : e < (accsOf m.i m.f).length)
    (hj : j < (fillElem m.f).length) :
    lastWrite (runStream s c m).out.reverse (m.pas.getD (e * (fillElem m.f).length + j) 0) = some ((fillElem m.f).getD j 0) := by
  have hsizes : ∀ a ∈ accsOf m.i m.f, a.reads = 0 ∧ a.wr.2 = (fillElem m.f).length := by
    rw [hi, fillElem_length]
    exact fun a ha => fillAccs_sizes ha
  have hlen' : m.pas.length = (0 + (fillElem m.f).length) * (accsOf m.i m.f).length := by
    have hrep : ((accsOf m.i m.f).map fun a => a.wr.2) = List.replicate (accsOf m.i m.f).length (fillElem m.f).length :=
      List.eq_replicate_iff.mpr ⟨by simp, fun x hx => by
        obtain ⟨a, ha, rfl⟩ := List.mem_map.mp hx
        exact (hsizes a ha).2⟩
    rw [hlen, hrep, List.sum_replicate]
    simp [Nat.mul_comm]
  rw [runStream_elems h (by simp [hi]) hn]
  have hlast := lastWrite_elem (i := m.i) (f := m.f) (byte := s.cmdByte c m) hsizes hn hlen' he hj (bs := fillElem m.f)
    (fun a _ => by rw [hi]; rfl) hj
  simpa [Nat.mul_comm] using hlast

/-- A CPY of one format writes each source element into its destination element (R239). -/
theorem streamWrites_copy {w : EWord} (h : s.bad = []) (hi : m.i = .cpy w) (hn : m.pas.Nodup)
    (hfmt : dfield m.f 36 1 = dfield m.f 37 1) (hrd : ∀ a ∈ accsOf m.i m.f, a.rd.isSome = true)
    (hlen : m.pas.length = 2 * fmtSize (dfield m.f 36 1) * (accsOf m.i m.f).length) {e j : Nat}
    (he : e < (accsOf m.i m.f).length) (hj : j < fmtSize (dfield m.f 36 1)) :
    lastWrite (runStream s c m).out.reverse
        (m.pas.getD (2 * fmtSize (dfield m.f 36 1) * e + fmtSize (dfield m.f 36 1) + j) 0) =
      some (s.cmdByte c m (m.pas.getD (2 * fmtSize (dfield m.f 36 1) * e + j) 0)) := by
  set n := fmtSize (dfield m.f 36 1) with hn'
  have hsizes : ∀ a ∈ accsOf m.i m.f, a.reads = n ∧ a.wr.2 = n := by
    intro a ha
    have hsome := hrd a ha
    rw [hi] at ha
    have hcpy := cpyAccs_sizes ha hsome
    rwa [← hfmt] at hcpy
  have hroom : 2 * n * e + n ≤ m.pas.length := by
    rw [hlen]
    calc 2 * n * e + n ≤ 2 * n * (e + 1) := by ring_nf; omega
      _ ≤ 2 * n * (accsOf m.i m.f).length := Nat.mul_le_mul_left _ he
  set src := ((m.pas.drop (2 * n * e)).take n) with hsrc
  have hsrclen : src.length = n := length_take_drop hroom
  have hbytes : ∀ a ∈ accsOf m.i m.f, elemBytes m.i m.f a ((((m.pas.drop ((n + n) * e)).take n)).map (s.cmdByte c m)) =
      src.map (s.cmdByte c m) := by
    intro a ha
    obtain ⟨x, hx⟩ := Option.isSome_iff_exists.mp (hrd a ha)
    rw [← Nat.two_mul, ← hsrc, hi]
    simp [elemBytes, hx, cpyElem, hfmt]
  have hlast := lastWrite_elem (i := m.i) (f := m.f) (byte := s.cmdByte c m) hsizes hn (by rw [hlen]; ring) he hj hbytes
    (by rw [List.length_map, hsrclen]; exact hj)
  have hget : (src.map (s.cmdByte c m)).getD j 0 = s.cmdByte c m (m.pas.getD (2 * n * e + j) 0) := by
    rw [← getD_take_drop _ hj, ← hsrc, List.getD_eq_getElem _ _ (by rw [List.length_map, hsrclen]; exact hj),
      List.getElem_map, List.getD_eq_getElem _ _ (hsrclen ▸ hj)]
  rw [runStream_elems h (by simp [hi]) hn, ← hget, ← hlast, Nat.two_mul]

end

/-- Settles O28: issue, acceptance, the writes as they begin and as they end. -/
theorem streamer : Obligations.Streamer := by
  unfold Obligations.Streamer
  refine ⟨⟨startsStream_of fun _ _ => rfl, startsStream_of fun _ _ => rfl, startsStream_of fun _ _ => rfl⟩, ?_, ?_, ?_⟩
  · intro s c n m hn hm hp hroom hwalk
    have hexec := execStreamerAccept_eq hn hm hroom hwalk
    refine ⟨fun hst => ⟨_, hexec, streamerAccept_bad hm hp hst⟩, fun pas hst hchk => ?_⟩
    exact ⟨_, hexec, streamerAccept_ok hm hp hst hchk⟩
  · intro s c k m hm hport hst hruns hlink hbad
    obtain ⟨hstore, hrecv, hcmds, hbegin⟩ := streamWrites_begins hm hbad
    refine ⟨_, _, execStreamerCompletion_accepted hm hport hst hruns hlink, hstore, hrecv, hcmds, hbegin, fun x hx => ?_, ?_, ?_⟩
    · exact (runStream_clean hbad).2 x (List.mem_reverse.mp hx)
    · exact fun w hi hn hlen e j he hj => streamWrites_fill hbad hi hn hlen he hj
    · exact fun w hi hn hfmt hrd hlen e j he hj => streamWrites_copy hbad hi hn hfmt hrd hlen he hj
  · intro s c k m hm hport hst hstatus hend hruns hlink
    obtain ⟨-, hrel, htags, hok, hno⟩ := hend
    have hc := State.cmd_range hm
    set d := s.dropCmd c k with hd
    have hlate : (d.core c).late = (s.core c).late := State.dropCmd_core_field Core.late (fun _ _ => rfl) ..
    have hctags : (d.core c).ctags = (s.core c).ctags := State.dropCmd_core_field Core.ctags (fun _ _ => rfl) ..
    have hclean (h : NoDirty s c) : NoDirty d c := by
      rwa [NoDirty, State.dropCmd_core_field Core.cache fun _ _ => rfl]
    have hsize (pa : Nat) : d.inSize pa = s.inSize pa := by
      unfold State.inSize
      split
      · rw [State.dropCmd_core_field Core.split fun _ _ => rfl]
      · rfl
    have hdno : NoLate d ((ownWrites d c m).map (·.1)) := by
      have hown : ownWrites d c m = ownWrites s c m := by rw [ownWrites, hlate, ownWrites]
      rw [hown]
      exact NoLate.setCore hno (d := c) (k := { s.core c with cmds := (s.core c).cmds.eraseIdx k }) rfl
    obtain ⟨hparts, hfabric, hcmds, hdone, hwrites⟩ := endWrites_complete (s := s) (d := d) (m := m)
      (by simpa [hd, State.dropCmd] using hc) rfl
      hsize hlate hok hdno (hrel.imp_right hclean) (by rw [hctags, htags])
    refine ⟨_, execStreamerCompletion_started hm hport hst hstatus hruns hlink, hparts, received_nil ?_, ?_, hdone, hwrites⟩
    · rw [hfabric]
      exact State.dropCmd_core_field Core.fabric (fun _ _ => rfl) ..
    · rw [CmdsAre, hcmds, hd, State.dropCmd, State.core_setCore_self _ _ _ hc]

end Sys2Proof.Machine
end
